-- ==== Sys2Proof/Word.lean ====
section
/-!
DEFINITION. The word types of the EVZ-4840, the operand fields of each instruction format (R41, Table 2-5), and the
plain names by which an event row points at a unit of the device.
-/

namespace Sys2Proof

/-- A 32-bit register or instruction word. -/
abbrev Word := BitVec 32

/-- A 64-bit address or register pair. -/
abbrev DWord := BitVec 64

/-- One byte (R5). -/
abbrev Byte := BitVec 8

/-- A bin128 accumulator, raw bits (Table 1-10). -/
abbrev BinBits := BitVec 128

/-- The four engine classes of a clause header (R34). In tile-sequencer code class 2 is MAT (R35). -/
inductive Cls where
  | gen | mem | xu | sys | mat
  deriving DecidableEq, Repr

/-- Format A (Table 2-5): WBS, D, the two selectors, and the literal words that a used LIT selector takes (R45);
a literal that is not taken is 0. -/
structure FmtA where
  wbs  : Bool
  d    : BitVec 7
  b    : BitVec 8
  a    : BitVec 8
  litA : Word
  litB : Word
  deriving DecidableEq, Repr

/-- Format C: a predicate number and a signed word offset. -/
structure FmtC where
  p   : BitVec 3
  off : BitVec 21
  deriving DecidableEq, Repr

/-- Format M: WBS, D, a signed scaled offset, the base selector, and the literal a LIT base takes (R47). -/
structure FmtM where
  wbs  : Bool
  d    : BitVec 7
  off  : BitVec 8
  base : BitVec 8
  lit  : Word
  deriving DecidableEq, Repr

/-- Format T (TRY): D, alternatives - 1, a signed word offset. -/
structure FmtT where
  d   : BitVec 7
  n   : BitVec 4
  off : BitVec 13
  deriving DecidableEq, Repr

/-- SWITCH: format A and its D[2:0] + 1 table words (R50, R91). -/
structure FmtSwitch where
  f     : FmtA
  table : List Word
  deriving DecidableEq, Repr

/-- SBEGIN: format C and its operand word (R50, R294). -/
structure FmtSbegin where
  f       : FmtC
  operand : Word
  deriving DecidableEq, Repr

/-- One thread of the device: the block's key in the block table, its warp, and its index m in the warp (R73). -/
structure TRef where
  blk : Nat
  wp  : Nat
  m   : Nat
  deriving DecidableEq, Repr

/-- How an arriving message counts in a phase (Table 18-5): whether CNT is set, the phase id and the logical core. -/
structure PhaseTag where
  cnt   : Bool
  phase : Nat
  dcore : Nat
  deriving DecidableEq, Repr

/-- What the flits of an arriving message say of it (Table 18-5): FID and function of its source, and how it counts in a phase. -/
structure MsgHead where
  src : Nat × Nat
  tag : PhaseTag
  deriving DecidableEq, Repr

/-- A record that waits for the fault queue of a context, by its place among those that wait (R346). -/
structure Posting where
  ctx : Nat
  k   : Nat
  deriving DecidableEq, Repr

/-- A store of a thread on its way, counted from its oldest, and how far it is to come: into the block's view alone, or to every reader (R170, R181). -/
structure StoreMove where
  t     : TRef
  k     : Nat
  block : Bool
  deriving DecidableEq, Repr

/-- Bytes of a little-endian value, least significant first (R5). -/
def leBytes (n : Nat) (v : Nat) : List Byte :=
  match n with
  | 0 => []
  | k + 1 => BitVec.ofNat 8 v :: leBytes k (v / 256)

/-- The value of little-endian bytes (R5). -/
def leVal : List Byte → Nat
  | [] => 0
  | b :: bs => b.toNat + 256 * leVal bs

end Sys2Proof
end

