-- ==== Sys2Proof/Machine/Number.lean ====
section
/-!
DEFINITION. Numbers: exact values, the scalar formats (R102 to R105), the one rounding of R109 in its five modes, stochastic rounding
(R110), and block floating point (R106 to R108, R112). A result is computed exactly and rounded once.
-/

namespace Sys2Proof.Machine

/-- An exact value: a NaN, an infinity, or (-1)^neg × m × 2^e. -/
inductive NumVal where
  | nan
  | inf (neg : Bool)
  | fin (neg : Bool) (m : Nat) (e : Int)
  deriving DecidableEq, Repr

/-- The rounding modes of R109; `sr r` is stochastic rounding with the 16-bit fraction r of R110. -/
inductive Mode where
  | rn | rz | ru | rd
  | sr (r : Nat)
  deriving DecidableEq, Repr

/-- A scalar floating format (Table 4-1): significand bits, the exponent of its smallest subnormal, the bit pattern of its largest finite
value, the place of its sign, its infinity if it has one, and its canonical NaN. -/
structure FloatFmt where
  prec   : Nat
  minE   : Int
  maxFin : Nat
  signAt : Nat
  inf    : Option Nat
  nan    : Nat
  deriving DecidableEq, Repr

def fmtF32 : FloatFmt := ⟨24, -149, 0x7F7FFFFF, 31, some 0x7F800000, 0x7FC00000⟩
def fmtBf16 : FloatFmt := ⟨8, -133, 0x7F7F, 15, some 0x7F80, 0x7FC0⟩
def fmtE4m3 : FloatFmt := ⟨4, -9, 0x7E, 7, none, 0x7F⟩
def fmtE5m2 : FloatFmt := ⟨3, -16, 0x7B, 7, some 0x7C, 0x7E⟩

/-- The number of bits of a natural number. -/
def bitLen (m : Nat) : Nat := if m = 0 then 0 else m.log2 + 1

/-- The value a bit pattern of a format stands for (R102 to R104). -/
def FloatFmt.decode (f : FloatFmt) (bits : Nat) : NumVal :=
  let neg := bits.testBit f.signAt
  let mag := bits % 2 ^ f.signAt
  if mag > f.maxFin then (if f.inf = some mag then .inf neg else .nan)
  else
    let x := mag / 2 ^ (f.prec - 1)
    if x = 0 then .fin neg mag f.minE
    else .fin neg (mag % 2 ^ (f.prec - 1) + 2 ^ (f.prec - 1)) (f.minE + x - 1)

/-- Whether a truncated magnitude goes up by one step: `odd` is the truncated magnitude's last bit, and rem / 2^k is the discarded part
of a step (R109, R110). -/
def roundsUp (mode : Mode) (neg odd : Bool) (rem k : Nat) : Bool :=
  match mode with
  | .rn => decide (2 ^ k < 2 * rem) || (decide (2 ^ k = 2 * rem) && odd)
  | .rz => false
  | .ru => !neg && decide (rem ≠ 0)
  | .rd => neg && decide (rem ≠ 0)
  | .sr r => decide (2 ^ (16 + k) ≤ rem * 2 ^ 16 + r * 2 ^ k)

/-- m × 2^e rounded to an integer multiple of 2^q, as the multiple. -/
def roundMag (mode : Mode) (neg : Bool) (m : Nat) (e q : Int) : Nat :=
  if q ≤ e then m * 2 ^ (e - q).toNat
  else
    let k := (q - e).toNat
    let n := m / 2 ^ k
    if roundsUp mode neg (n % 2 = 1) (m % 2 ^ k) k then n + 1 else n

/-- The exponent of the step at m × 2^e in a format. -/
def FloatFmt.step (f : FloatFmt) (m : Nat) (e : Int) : Int := if m = 0 then f.minE else max f.minE (e + bitLen m - f.prec)

/-- A sign put on a magnitude's bits. -/
def FloatFmt.signed (f : FloatFmt) (neg : Bool) (mag : Nat) : Nat := if neg then mag + 2 ^ f.signAt else mag

/-- The overflow result of R109; a format without infinities saturates (R104). -/
def FloatFmt.overflow (f : FloatFmt) (mode : Mode) (neg : Bool) : Nat :=
  match f.inf with
  | none => f.signed neg f.maxFin
  | some i =>
    match mode with
    | .rn => f.signed neg i
    | .rz => f.signed neg f.maxFin
    | .ru => f.signed neg (if neg then f.maxFin else i)
    | .rd => f.signed neg (if neg then i else f.maxFin)
    | .sr _ => f.signed neg i

/-- The one rounding of an exact value into a format (R109); subnormals are delivered (R102). -/
def FloatFmt.round (f : FloatFmt) (mode : Mode) : NumVal → Nat
  | .nan => f.nan
  | .inf neg => f.signed neg (f.inf.getD f.maxFin)
  | .fin neg m e =>
    let q := f.step m e
    let mag := (q - f.minE).toNat * 2 ^ (f.prec - 1) + roundMag mode neg m e q
    if mag > f.maxFin then f.overflow mode neg else f.signed neg mag

/-- The f32 value of a word. -/
def f32 (w : Word) : NumVal := fmtF32.decode w.toNat
/-- A value rounded to f32. -/
def toF32 (mode : Mode) (x : NumVal) : Word := BitVec.ofNat 32 (fmtF32.round mode x)
/-- The bf16 value of half `h` of a word (R103). -/
def bf16 (w : Word) (h : Nat) : NumVal := fmtBf16.decode ((w.toNat / 2 ^ (16 * h)) % 2 ^ 16)
/-- Two bf16 patterns as a bf16x2 word. -/
def packHalves (lo hi : Nat) : Word := BitVec.ofNat 32 (lo % 2 ^ 16 + 2 ^ 16 * hi)

/-- The canonical f32 NaN (R102). -/
def nanF32 : Word := 0x7FC00000

/-! ## Exact arithmetic -/

/-- The signed integer of a sign and magnitude. -/
def signInt (neg : Bool) (m : Nat) : Int := if neg then -(m : Int) else m

/-- The value with the opposite sign. -/
def NumVal.neg : NumVal → NumVal
  | .nan => .nan
  | .inf n => .inf (!n)
  | .fin n m e => .fin (!n) m e

def NumVal.isNan : NumVal → Bool
  | .nan => true
  | _ => false

def NumVal.isZero : NumVal → Bool
  | .fin _ 0 _ => true
  | _ => false

/-- The exact sum; `down` tells that rounding is toward -∞, which gives an exact cancellation the sign -0 (R109). -/
def NumVal.add (down : Bool) : NumVal → NumVal → NumVal
  | .nan, _ => .nan
  | _, .nan => .nan
  | .inf a, .inf b => if a = b then .inf a else .nan
  | .inf a, .fin _ _ _ => .inf a
  | .fin _ _ _, .inf b => .inf b
  | .fin na ma ea, .fin nb mb eb =>
    let e := min ea eb
    let s := signInt na (ma * 2 ^ (ea - e).toNat) + signInt nb (mb * 2 ^ (eb - e).toNat)
    if s = 0 then
      if ma = 0 ∧ mb = 0 ∧ na = nb then .fin na 0 e else .fin down 0 e
    else .fin (decide (s < 0)) s.natAbs e

/-- The exact product (R114, R118). -/
def NumVal.mul : NumVal → NumVal → NumVal
  | .nan, _ => .nan
  | _, .nan => .nan
  | .inf a, .inf b => .inf (a != b)
  | .inf a, .fin b m _ => if m = 0 then .nan else .inf (a != b)
  | .fin a m _, .inf b => if m = 0 then .nan else .inf (a != b)
  | .fin a m e, .fin b n f => .fin (a != b) (m * n) (e + f)

/-- The total order key of non-NaN values: `lt a b` on values, infinities included. -/
def NumVal.lt : NumVal → NumVal → Bool
  | .nan, _ => false
  | _, .nan => false
  | .inf a, .inf b => a && !b
  | .inf a, .fin _ _ _ => a
  | .fin _ _ _, .inf b => !b
  | .fin na ma ea, .fin nb mb eb =>
    let e := min ea eb
    decide (signInt na (ma * 2 ^ (ea - e).toNat) < signInt nb (mb * 2 ^ (eb - e).toNat))

/-- The mode rounds toward -∞. -/
def Mode.isDown : Mode → Bool
  | .rd => true
  | _ => false

/-- A value rounded to an integer, as an integer times 2^w: the nearest multiple, ties to even (R114). -/
def rnUnits (neg : Bool) (m : Nat) (e w : Int) : Int := signInt neg (roundMag .rn neg m e w)

/-- A value rounded to an integer and clamped to [lo, hi]; NaN gives 0, infinities clamp (R123). -/
def clampInt (mode : Mode) (lo hi : Int) : NumVal → Int
  | .nan => 0
  | .inf neg => if neg then lo else hi
  | .fin neg m e => max lo (min hi (signInt neg (roundMag mode neg m e 0)))

/-! ## Stochastic rounding (R110) -/

/-- The discarded bits d of a magnitude m × 2^e on a grid of step 2^q: floor of the discarded fraction times 2^16. -/
def discarded (m : Nat) (e q : Int) : Nat :=
  if q ≤ e then 0
  else
    let k := (q - e).toNat
    (m % 2 ^ k) * 2 ^ 16 / 2 ^ k

/-- The discarded bits of a value against a floating target: 0 for NaN, infinities and values beyond the largest finite one. -/
def FloatFmt.discarded (f : FloatFmt) : NumVal → Nat
  | .nan => 0
  | .inf _ => 0
  | .fin _ m e =>
    if NumVal.lt (f.decode f.maxFin) (.fin false m e) then 0
    else Machine.discarded m e (f.step m e)

/-- The random fraction of R110 from the neighbours' discarded bits and the element index. -/
def srFraction (dl dh e : Nat) : Nat :=
  let h := (dl * 0x9E37 + dh * 0x79B9 + e * 0x3C6F + 0x2B5A) % 2 ^ 16
  (h * 0xA3C5 + h / 2 ^ 7) % 2 ^ 16

/-- The fraction for element `e` of a list of discarded bits taken as a ring (R111). -/
def srAt (ds : List Nat) (e : Nat) : Nat :=
  let n := ds.length
  srFraction (ds.getD ((e + n - 1) % n) 0) (ds.getD ((e + 1) % n) 0) e

/-! ## Block floating point -/

/-- The elements of a block by GEO (R106). -/
def geoElems (geo : Nat) : Nat := if geo = 0 then 32 else if geo = 1 then 16 else 64

/-- The stride of a bfpB block (R106). -/
def bfpStride (b n : Nat) : Nat := 4 + n * b / 8

/-- A B-bit two's-complement value. -/
def sextNat (b v : Nat) : Int := if v % 2 ^ b ≥ 2 ^ (b - 1) then (v % 2 ^ b : Int) - 2 ^ b else (v % 2 ^ b : Int)

/-- One decoded element: exponent byte E and the raw mantissa bits (R107), exactly. -/
def bfpValue (b ex raw : Nat) : NumVal :=
  if ex = 0 then .fin false 0 0
  else if ex = 255 then .nan
  else
    let m := sextNat b raw
    .fin (decide (m < 0)) m.natAbs ((ex : Int) - 127 - (b - 2))

/-- The largest of the finite magnitudes (m, e), compared exactly. -/
def maxMag (xs : List NumVal) : NumVal :=
  xs.foldl (fun acc x => match x with
    | .fin _ m e => if NumVal.lt acc (.fin false m e) then .fin false m e else acc
    | _ => acc) (.fin false 0 0)

/-- The exponent of a block's largest magnitude, with the bias of R108: E of a block that holds a value other than 0 and neither NaN nor infinity. -/
def bfpExp (mm : Nat) (me : Int) : Int := max 1 (me + bitLen mm - 1 + 127)

/-- The discarded bits of each value of a block against the block's own grid (R108, R110, R112). -/
def bfpDiscards (b : Nat) (xs : List NumVal) : List Nat :=
  if xs.any (fun x => match x with | .fin _ _ _ => false | _ => true) then xs.map (fun _ => 0)
  else
    match maxMag xs with
    | .fin _ 0 _ => xs.map (fun _ => 0)
    | .fin _ mm me => xs.map (fun x => match x with | .fin _ m e => discarded m e (bfpExp mm me - 127 - b + 2) | _ => 0)
    | _ => xs.map (fun _ => 0)

/-- Encoding a block (R108, R112): the exponent byte and the mantissas as B-bit patterns. -/
def bfpEncode (b : Nat) (sr : Bool) (xs : List NumVal) : Nat × List Nat :=
  if xs.any (fun x => match x with | .fin _ _ _ => false | _ => true) then (255, xs.map (fun _ => 0))
  else
    match maxMag xs with
    | .fin _ 0 _ => (0, xs.map (fun _ => 0))
    | .fin _ mm me =>
      let ex : Int := bfpExp mm me
      let q : Int := ex - 127 - b + 2
      let ds := bfpDiscards b xs
      let mants := xs.zipIdx.map (fun p => match p.1 with
        | .fin neg m e =>
          let t := roundMag (if sr then .sr (srAt ds p.2) else .rn) neg m e q
          let v : Int := max (-(2 ^ (b - 1))) (min (2 ^ (b - 1) - 1) (signInt neg t))
          (v % 2 ^ b).toNat
        | _ => 0)
      (ex.toNat, mants)
    | _ => (255, xs.map (fun _ => 0))

/-- Mantissas packed little-endian into one number, element 0 lowest (R106). -/
def packMants (b : Nat) : List Nat → Nat
  | [] => 0
  | m :: ms => m + 2 ^ b * packMants b ms

/-- The stored bytes of an encoded block. -/
def bfpBytes (b : Nat) (sr : Bool) (xs : List NumVal) : List Byte :=
  let r := bfpEncode b sr xs
  leBytes 4 r.1 ++ leBytes (xs.length * b / 8) (packMants b r.2)

/-! ## Element formats of pages (Table 5-3) -/

/-- An integer as an exact value. -/
def intNum (v : Int) : NumVal := .fin (decide (v < 0)) v.natAbs 0

/-- The bytes of an element of a scalar page format, 0 for none. -/
def elemSize (fmt : Nat) : Nat :=
  if fmt = 1 then 4 else if fmt = 2 then 2 else if fmt = 3 ∨ fmt = 4 ∨ fmt = 12 then 1 else 0

/-- The mantissa bits of a bfp page format (Table 5-3). -/
def bfpBits (fmt : Nat) : Nat := 13 - fmt

/-- The format is one of BFP8 to BFP2. -/
def isBfp (fmt : Nat) : Bool := decide (5 ≤ fmt) && decide (fmt ≤ 11)

/-- A scalar element's value (R146): I8 elements are integers. -/
def scalarValue (fmt raw : Nat) : NumVal :=
  if fmt = 1 then fmtF32.decode raw
  else if fmt = 2 then fmtBf16.decode raw
  else if fmt = 3 then fmtE4m3.decode raw
  else if fmt = 4 then fmtE5m2.decode raw
  else intNum (sextNat 8 raw)

/-- The stochastic discard of a value against a scalar page format (R110). -/
def scalarDiscard (fmt : Nat) (x : NumVal) : Nat :=
  if fmt = 2 then fmtBf16.discarded x
  else if fmt = 3 then fmtE4m3.discarded x
  else if fmt = 4 then fmtE5m2.discarded x
  else if fmt = 12 then
    match x with
    | .fin neg m e =>
      if NumVal.lt (intNum 127) (.fin neg m e) || NumVal.lt (.fin neg m e) (intNum (-128)) then 0 else discarded m e 0
    | _ => 0
  else 0

/-- A value encoded for a scalar page format other than F32 (Table 5-5). -/
def scalarEncode (fmt : Nat) (mode : Mode) (x : NumVal) : Nat :=
  if fmt = 2 then fmtBf16.round mode x
  else if fmt = 3 then fmtE4m3.round mode x
  else if fmt = 4 then fmtE5m2.round mode x
  else (clampInt mode (-128) 127 x % 256).toNat

end Sys2Proof.Machine
end

