-- ==== Sys2Proof/Machine/Flags.lean ====
section
/-!
DEFINITION. The conditions that instructions leave: the predicates of the compares (R80, R120), the class of a value (R121), and the flag
bits of a bin with the rules that set them (R113 to R116).
-/

namespace Sys2Proof.Machine

/-! ## Predicates -/

/-- A value as i32. -/
def sx (w : Word) : Int := w.toInt
/-- A value as n32. -/
def zx (w : Word) : Nat := w.toNat

def ltI (a b : Word) : Bool := decide (sx a < sx b)
def ltN (a b : Word) : Bool := decide (zx a < zx b)
def leI (a b : Word) : Bool := decide (sx a ≤ sx b)
def leN (a b : Word) : Bool := decide (zx a ≤ zx b)

/-- FCMP.EQ: false when either is NaN; -0 equals +0 (R120). -/
def feq (a b : NumVal) : Bool := !a.isNan && !b.isNan && !NumVal.lt a b && !NumVal.lt b a
def fle (a b : NumVal) : Bool := !a.isNan && !b.isNan && !NumVal.lt b a
def funord (a b : NumVal) : Bool := a.isNan || b.isNan

/-- The FCLASS class number of an f32 pattern (Table 4-5). -/
def fclassOf (w : Word) : Nat :=
  let neg := w.msb
  let ex := (w.extractLsb' 23 8).toNat
  let fr := (w.extractLsb' 0 23).toNat
  if ex = 255 then
    if fr = 0 then (if neg then 0 else 7) else if w.getLsbD 22 then 9 else 8
  else if ex = 0 then
    if fr = 0 then (if neg then 3 else 4) else (if neg then 2 else 5)
  else (if neg then 1 else 6)

/-! ## Bins -/

/-- The value field as i120 (R113). -/
def binValue (b : BinBits) : Int := (b.extractLsb' 0 120).toInt
def binNan (b : BinBits) : Bool := b.getLsbD 120
def binPinf (b : BinBits) : Bool := b.getLsbD 121
def binNinf (b : BinBits) : Bool := b.getLsbD 122
def binOvf (b : BinBits) : Bool := b.getLsbD 123

/-- A bin with its value field set modulo 2^120. -/
def binSetValue (b : BinBits) (v : Int) : BinBits := (b.extractLsb' 120 8 ++ BitVec.ofInt 120 v : BitVec 128)

/-- A bin with flag bit 120 + k set. -/
def binSetFlag (b : BinBits) (k : Nat) : BinBits := b ||| BitVec.twoPow 128 (120 + k)

/-- One contribution enters a bin with window W (R114). -/
def contribute (b : BinBits) (w : Int) : NumVal → BinBits
  | .nan => binSetFlag b 0
  | .inf neg => binSetFlag b (if neg then 2 else 1)
  | .fin neg m e =>
    let n := rnUnits neg m e w
    if n.natAbs ≥ 2 ^ 104 then binSetFlag b 3 else binSetValue b (binValue b + n)

/-- Two bins at one window combine: values add, flags OR (R115). -/
def binCombine (a b : BinBits) : BinBits := binSetValue (a ||| (b &&& ((0xF : BinBits) <<< 120))) (binValue a + binValue b)

/-- Bits [127:124] cleared (R113). -/
def binClean (b : BinBits) : BinBits := b.extractLsb' 0 124 |>.setWidth 128

/-- A drain reports OVF (R116). -/
def drainOvf (b : BinBits) : Bool :=
  !binNan b && !binPinf b && !binNinf b && (binOvf b || decide ((binValue b).natAbs ≥ 2 ^ 104))

/-- A drain of a bin at window W (R116), as an exact value to be rounded once by rn. -/
def drainNum (b : BinBits) (w : Int) : NumVal :=
  if binNan b then .nan
  else if binPinf b && binNinf b then .nan
  else if binPinf b then .inf false
  else if binNinf b then .inf true
  else if drainOvf b then .nan
  else .fin (decide (binValue b < 0)) (binValue b).natAbs w

/-- drain(bin, W, f32). -/
def drainF32 (b : BinBits) (w : Int) : Word := toF32 .rn (drainNum b w)
/-- drain(bin, W, bf16), as a pattern. -/
def drainBf16 (b : BinBits) (w : Int) : Nat := fmtBf16.round .rn (drainNum b w)

/-- A window exponent in range (R113). -/
def winOk (w : Int) : Bool := decide (-100 ≤ w) && decide (w ≤ 40)

end Sys2Proof.Machine
end

