-- ==== Sys2Proof/Syntax.lean ====
section
/-!
DEFINITION. The instruction syntax: ONE constructor per row of spec/opcode_table.json. A row with an encoding carries the fields of
its format; a row of an event (a step that no instruction word names: an engine, a completion, the host, a link) carries the unit it
happens at and the data that comes with it.
-/

namespace Sys2Proof

/-- The 369 rows of the opcode table. -/
inductive Instr where
  /-- IADD (R77): Writes the low 32 bits of A + B to D. -/
  | iadd (f : FmtA)
  /-- IADD_SAT_I (R77): Writes the signed sum of A and B to D, clamped to the i32 range. -/
  | iaddSatI (f : FmtA)
  /-- IADD_SAT_N (R77): Writes the unsigned sum of A and B to D, clamped to the n32 range. -/
  | iaddSatN (f : FmtA)
  /-- ISUB (R77): Writes the low 32 bits of A - B to D. -/
  | isub (f : FmtA)
  /-- ISUB_SAT_I (R77): Writes the signed difference A - B to D, clamped to the i32 range. -/
  | isubSatI (f : FmtA)
  /-- ISUB_SAT_N (R77): Writes the unsigned difference A - B to D, clamped to 0 and above. -/
  | isubSatN (f : FmtA)
  /-- IMUL (R77): Writes the low 32 bits of A x B to D. -/
  | imul (f : FmtA)
  /-- IMUL_HI_I (R77): Writes bits 63:32 of the signed product of A and B to D. -/
  | imulHiI (f : FmtA)
  /-- IMUL_HI_N (R77): Writes bits 63:32 of the unsigned product of A and B to D. -/
  | imulHiN (f : FmtA)
  /-- IMAD (R77): Writes the low 32 bits of A x B + D to D. -/
  | imad (f : FmtA)
  /-- IMIN_I (R77): Writes the lesser of A and B as i32 to D. -/
  | iminI (f : FmtA)
  /-- IMIN_N (R77): Writes the lesser of A and B as n32 to D. -/
  | iminN (f : FmtA)
  /-- IMAX_I (R77): Writes the greater of A and B as i32 to D. -/
  | imaxI (f : FmtA)
  /-- IMAX_N (R77): Writes the greater of A and B as n32 to D. -/
  | imaxN (f : FmtA)
  /-- AND (R77): Writes A & B to D. -/
  | and (f : FmtA)
  /-- OR (R77): Writes A | B to D. -/
  | or (f : FmtA)
  /-- XOR (R77): Writes A ^ B to D. -/
  | xor (f : FmtA)
  /-- ANDN (R77): Writes A & ~B to D. -/
  | andn (f : FmtA)
  /-- SHL (R78): Shifts A left by the whole count B, giving 0 at 32 or more. -/
  | shl (f : FmtA)
  /-- SHR (R78): Shifts A right with zero fill by the count B. -/
  | shr (f : FmtA)
  /-- SAR (R78): Shifts A right with sign fill by the count B. -/
  | sar (f : FmtA)
  /-- ROL (R78): Rotates A left by B mod 32. -/
  | rol (f : FmtA)
  /-- POPC (R78): Writes the number of one bits of A to D. -/
  | popc (f : FmtA)
  /-- CLZ (R78): Writes the count of leading zero bits of A to D. -/
  | clz (f : FmtA)
  /-- BREV (R78): Writes A with its bits reversed to D. -/
  | brev (f : FmtA)
  /-- CTZ (R78): Writes the count of trailing zero bits of A to D. -/
  | ctz (f : FmtA)
  /-- BFX_N (R79): Extracts a zero-extended bit field of A at the position and width in B. -/
  | bfxN (f : FmtA)
  /-- BFX_I (R79): Extracts a sign-extended bit field of A at the position and width in B. -/
  | bfxI (f : FmtA)
  /-- BFI (R79): Inserts the low bits of A into a field of D at the position and width in B. -/
  | bfi (f : FmtA)
  /-- ICMP_EQ (R80): Sets the predicate named by D when A equals B. -/
  | icmpEq (f : FmtA)
  /-- ICMP_NE (R80): Sets the predicate named by D when A differs from B. -/
  | icmpNe (f : FmtA)
  /-- ICMP_LT_I (R80): Sets the predicate when A is less than B as i32. -/
  | icmpLtI (f : FmtA)
  /-- ICMP_LT_N (R80): Sets the predicate when A is less than B as n32. -/
  | icmpLtN (f : FmtA)
  /-- ICMP_LE_I (R80): Sets the predicate when A is at most B as i32. -/
  | icmpLeI (f : FmtA)
  /-- ICMP_LE_N (R80): Sets the predicate when A is at most B as n32. -/
  | icmpLeN (f : FmtA)
  /-- ICMP_TST (R80): Sets the predicate when A & B is nonzero. -/
  | icmpTst (f : FmtA)
  /-- SEL (R81): Writes A or B to D as the predicate p0 to p3 named by FN selects. -/
  | sel (fn : BitVec 2) (f : FmtA)
  /-- MOV (R83): Copies A to D. -/
  | mov (f : FmtA)
  /-- XRD (R84): Reads the w register at an index register's base plus offset A, with a bound check. -/
  | xrd (f : FmtA)
  /-- XWR (R84): Writes D to the w register at an index register's base plus offset A, with a bound check. -/
  | xwr (f : FmtA)
  /-- XSET (R84): Sets the base and count of an index register after checking them against the declared count. -/
  | xset (f : FmtA)
  /-- PAND (R82): Writes the AND of two predicates to a predicate. -/
  | pand (f : FmtA)
  /-- POR (R82): Writes the OR of two predicates to a predicate. -/
  | por (f : FmtA)
  /-- PXOR (R82): Writes the XOR of two predicates to a predicate. -/
  | pxor (f : FmtA)
  /-- PNOT (R82): Writes the complement of a predicate to a predicate. -/
  | pnot (f : FmtA)
  /-- SMOV (R86): Writes A to a uniform register once per issue. -/
  | smov (f : FmtA)
  /-- SADD (R86): Writes A + B to a uniform register once per issue. -/
  | sadd (f : FmtA)
  /-- SAND (R86): Writes A & B to a uniform register once per issue. -/
  | sand (f : FmtA)
  /-- SSHL (R86): Writes A shifted left by B to a uniform register once per issue. -/
  | sshl (f : FmtA)
  /-- ADDA (R85): Adds sign-extended B to a 64-bit address pair. -/
  | adda (f : FmtA)
  /-- ADDA_X4 (R85): Adds 4 times sign-extended B to a 64-bit address pair. -/
  | addaX4 (f : FmtA)
  /-- ADDA_X16 (R85): Adds 16 times sign-extended B to a 64-bit address pair. -/
  | addaX16 (f : FmtA)
  /-- SUBA (R85): Subtracts sign-extended B from a 64-bit address pair. -/
  | suba (f : FmtA)
  /-- RDL (R87): Warp collective that writes a uniform register with A of one thread of the warp. -/
  | rdl (f : FmtA)
  /-- BR (R88): Branches always to a PC-relative clause. -/
  | br (f : FmtC)
  /-- BR_IF_P (R88): Branches in the threads whose predicate P is 1. -/
  | brIfP (f : FmtC)
  /-- BR_IF_NOT_P (R88): Branches in the threads whose predicate P is 0. -/
  | brIfNotP (f : FmtC)
  /-- CALL (R89): Pushes the return address and continues at a PC-relative target. -/
  | call (f : FmtC)
  /-- CALL_INDIRECT (R89): Pushes the return address and continues at the target held in a 64-bit pair. -/
  | callIndirect (f : FmtA)
  /-- RET (R90): Pops the return stack and continues there, or ends the thread when it is empty. -/
  | ret (f : FmtA)
  /-- SWITCH (R91): Compares A with its table words and branches at the first match, else falls through. -/
  | switch (f : FmtSwitch)
  /-- VOTE_ANY (R92): Warp collective that sets a predicate when any participant's predicate is 1. -/
  | voteAny (f : FmtA)
  /-- VOTE_ALL (R92): Warp collective that sets a predicate when every participant's predicate is 1. -/
  | voteAll (f : FmtA)
  /-- VOTE_BALLOT (R92): Warp collective that writes the mask of the participants' predicates. -/
  | voteBallot (f : FmtA)
  /-- VOTE_CNT (R92): Warp collective that writes the number of participants whose predicate is 1. -/
  | voteCnt (f : FmtA)
  /-- EXIT (R93): Ends the participant, leaving its owed results to drain. -/
  | exit (f : FmtA)
  /-- YIELD (R94): Moves to the next clause, resets the starvation age and leaves the thread out of votes for a while. -/
  | yield (f : FmtA)
  /-- NOP (R95): Changes no state and costs one pass. -/
  | nop (f : FmtA)
  /-- TRY (R296): Pushes a choice point, trails WD, sets WD to 0 and goes on with the first alternative. -/
  | tryMark (f : FmtT)
  /-- FAIL (R297): Always unwinds to the newest choice point with an alternative left and resumes there, or goes to EXIT. -/
  | fail (f : FmtC)
  /-- FAIL_IF_P (R297): Fails in the threads whose predicate P is 1. -/
  | failIfP (f : FmtC)
  /-- FAIL_IF_NOT_P (R297): Fails in the threads whose predicate P is 0. -/
  | failIfNotP (f : FmtC)
  /-- CUT (R298): Keeps the oldest k choice points and discards the newer ones. -/
  | cut (f : FmtA)
  /-- CUTALL (R298): Discards every choice point and empties the trail. -/
  | cutall (f : FmtA)
  /-- DEPTH (R299): Writes the sheaf depth to D. -/
  | depth (f : FmtA)
  /-- ALTS (R299): Writes the untried alternatives of the newest choice point to D. -/
  | alts (f : FmtA)
  /-- SBEGIN (R294): Enters search mode with exit label, frame window and trail floor, reserving loft. -/
  | sbegin (f : FmtSbegin)
  /-- SEND (R295): Leaves search mode, discarding sheaf and trail and releasing the loft. -/
  | send (f : FmtA)
  /-- GLEAN (R300): Takes an untried alternative from another searching thread of the block, or holds until one exists. -/
  | glean (f : FmtC)
  /-- FADD (R118): Writes A + B rounded to nearest even. -/
  | fadd (f : FmtA)
  /-- FADD_RZ (R118): Writes A + B rounded toward zero. -/
  | faddRz (f : FmtA)
  /-- FADD_RU (R118): Writes A + B rounded toward plus infinity. -/
  | faddRu (f : FmtA)
  /-- FADD_RD (R118): Writes A + B rounded toward minus infinity. -/
  | faddRd (f : FmtA)
  /-- FSUB (R118): Writes A - B rounded to nearest even. -/
  | fsub (f : FmtA)
  /-- FSUB_RZ (R118): Writes A - B rounded toward zero. -/
  | fsubRz (f : FmtA)
  /-- FSUB_RU (R118): Writes A - B rounded toward plus infinity. -/
  | fsubRu (f : FmtA)
  /-- FSUB_RD (R118): Writes A - B rounded toward minus infinity. -/
  | fsubRd (f : FmtA)
  /-- FMUL (R118): Writes A x B rounded to nearest even. -/
  | fmul (f : FmtA)
  /-- FMUL_RZ (R118): Writes A x B rounded toward zero. -/
  | fmulRz (f : FmtA)
  /-- FMUL_RU (R118): Writes A x B rounded toward plus infinity. -/
  | fmulRu (f : FmtA)
  /-- FMUL_RD (R118): Writes A x B rounded toward minus infinity. -/
  | fmulRd (f : FmtA)
  /-- FFMA (R118): Writes A x B + D with one rounding to nearest even. -/
  | ffma (f : FmtA)
  /-- FFMA_RZ (R118): Writes A x B + D with one rounding toward zero. -/
  | ffmaRz (f : FmtA)
  /-- FFMA_RU (R118): Writes A x B + D with one rounding toward plus infinity. -/
  | ffmaRu (f : FmtA)
  /-- FFMA_RD (R118): Writes A x B + D with one rounding toward minus infinity. -/
  | ffmaRd (f : FmtA)
  /-- FMIN (R119): Writes the lesser f32 input, or canonical NaN if either is NaN. -/
  | fmin (f : FmtA)
  /-- FMAX (R119): Writes the greater f32 input, or canonical NaN if either is NaN. -/
  | fmax (f : FmtA)
  /-- FMINNUM (R119): Writes the lesser f32 input, ignoring a single NaN. -/
  | fminnum (f : FmtA)
  /-- FMAXNUM (R119): Writes the greater f32 input, ignoring a single NaN. -/
  | fmaxnum (f : FmtA)
  /-- FCMP_EQ (R120): Sets a predicate when A equals B as f32. -/
  | fcmpEq (f : FmtA)
  /-- FCMP_LT (R120): Sets a predicate when A is less than B as f32. -/
  | fcmpLt (f : FmtA)
  /-- FCMP_LE (R120): Sets a predicate when A is at most B as f32. -/
  | fcmpLe (f : FmtA)
  /-- FCMP_UN (R120): Sets a predicate when A or B is NaN. -/
  | fcmpUn (f : FmtA)
  /-- HADD2 (R122): Adds two bf16x2 words element by element. -/
  | hadd2 (f : FmtA)
  /-- HSUB2 (R122): Subtracts two bf16x2 words element by element. -/
  | hsub2 (f : FmtA)
  /-- HMUL2 (R122): Multiplies two bf16x2 words element by element. -/
  | hmul2 (f : FmtA)
  /-- HFMA2 (R122): Computes A x B + D on bf16x2 words element by element. -/
  | hfma2 (f : FmtA)
  /-- FABS (R121): Writes A with its sign bit cleared. -/
  | fabs (f : FmtA)
  /-- FNEG (R121): Writes A with its sign bit inverted. -/
  | fneg (f : FmtA)
  /-- FCPSGN (R121): Writes the magnitude of A with the sign of B. -/
  | fcpsgn (f : FmtA)
  /-- FCLASS (R121): Writes a one-hot class mask of A. -/
  | fclass (f : FmtA)
  /-- CVT_BF16_F32 (R123): Converts f32 A to bf16 by round to nearest even. -/
  | cvtBf16F32 (f : FmtA)
  /-- CVT_BF16_F32_SR (R123): Warp collective that converts f32 A to bf16 by stochastic rounding. -/
  | cvtBf16F32Sr (f : FmtA)
  /-- CVT_F32_BF16 (R123): Widens the bf16 element of A picked by B to f32. -/
  | cvtF32Bf16 (f : FmtA)
  /-- CVT_F32_I32 (R123): Converts i32 A to f32 by round to nearest even. -/
  | cvtF32I32 (f : FmtA)
  /-- CVT_I32_F32_RZ_SAT (R123): Converts f32 A to i32 toward zero with saturation. -/
  | cvtI32F32RzSat (f : FmtA)
  /-- CVT_I32_F32_SAT (R123): Converts f32 A to i32 by round to nearest even with saturation. -/
  | cvtI32F32Sat (f : FmtA)
  /-- CVT_F32_N32 (R123): Converts n32 A to f32 by round to nearest even. -/
  | cvtF32N32 (f : FmtA)
  /-- CVT_N32_F32_RZ_SAT (R123): Converts f32 A to n32 toward zero with saturation. -/
  | cvtN32F32RzSat (f : FmtA)
  /-- CVT_E4M3 (R123): Replaces byte k of D with f32 A in e4m3 by round to nearest even. -/
  | cvtE4m3 (f : FmtA)
  /-- CVT_E4M3_SR (R123): Warp collective that replaces byte k of D with A in e4m3 by stochastic rounding. -/
  | cvtE4m3Sr (f : FmtA)
  /-- CVT_E5M2 (R123): Replaces byte k of D with f32 A in e5m2 by round to nearest even. -/
  | cvtE5m2 (f : FmtA)
  /-- CVT_E5M2_SR (R123): Warp collective that replaces byte k of D with A in e5m2 by stochastic rounding. -/
  | cvtE5m2Sr (f : FmtA)
  /-- CVT_F32_E4M3 (R123): Widens byte k of A as e4m3 to f32. -/
  | cvtF32E4m3 (f : FmtA)
  /-- CVT_F32_E5M2 (R123): Widens byte k of A as e5m2 to f32. -/
  | cvtF32E5m2 (f : FmtA)
  /-- PACK2 (R123): Packs f32 A and B, each rounded to bf16, into one word. -/
  | pack2 (f : FmtA)
  /-- LD_16 (R143): Loads a zero-extended n16 from a RAW page. -/
  | ld16 (f : FmtM)
  /-- LD_32 (R143): Loads a word from a RAW page. -/
  | ld32 (f : FmtM)
  /-- LD_64 (R143): Loads 8 bytes into an even register pair. -/
  | ld64 (f : FmtM)
  /-- LD_128 (R143): Loads 16 bytes into four registers. -/
  | ld128 (f : FmtM)
  /-- LD_16_S (R143): Loads a sign-extended i16. -/
  | ld16S (f : FmtM)
  /-- LDB (R143): Loads a zero-extended byte. -/
  | ldb (f : FmtM)
  /-- LDBS (R143): Loads a sign-extended byte. -/
  | ldbs (f : FmtM)
  /-- ST_8 (R143): Stores the low byte of D. -/
  | st8 (f : FmtM)
  /-- ST_16 (R143): Stores the low halfword of D. -/
  | st16 (f : FmtM)
  /-- ST_32 (R143): Stores the word D. -/
  | st32 (f : FmtM)
  /-- ST_64 (R143): Stores the pair D, D + 1. -/
  | st64 (f : FmtM)
  /-- ST_128 (R143): Stores D to D + 3. -/
  | st128 (f : FmtM)
  /-- LDE_F32 (R146): Loads element e of a formatted page, decoded to f32. -/
  | ldeF32 (f : FmtA)
  /-- LDE_BF16X2 (R146): Loads elements e and e + 1 of a formatted page as bf16x2. -/
  | ldeBf16x2 (f : FmtA)
  /-- LDEXP (R146): Loads the shared exponent byte of the bfp block holding element e. -/
  | ldexp (f : FmtA)
  /-- STE_F32 (R147): Warp collective that encodes and stores one f32 element per participant by the page format. -/
  | steF32 (f : FmtA)
  /-- STE_BF16X2 (R147): Warp collective that encodes and stores two bf16 elements per participant by the page format. -/
  | steBf16x2 (f : FmtA)
  /-- LDS_32 (R149): Loads a word from the block's scratchpad region. -/
  | lds32 (f : FmtM)
  /-- LDS_64 (R149): Loads 8 bytes from the block's scratchpad region. -/
  | lds64 (f : FmtM)
  /-- LDS_128 (R149): Loads 16 bytes from the block's scratchpad region. -/
  | lds128 (f : FmtM)
  /-- LDS_16 (R149): Loads a zero-extended halfword from the block's scratchpad region. -/
  | lds16 (f : FmtM)
  /-- STS_32 (R149): Stores a word to the block's scratchpad region. -/
  | sts32 (f : FmtM)
  /-- STS_64 (R149): Stores 8 bytes to the block's scratchpad region. -/
  | sts64 (f : FmtM)
  /-- STS_128 (R149): Stores 16 bytes to the block's scratchpad region. -/
  | sts128 (f : FmtM)
  /-- STS_16 (R149): Stores a halfword to the block's scratchpad region. -/
  | sts16 (f : FmtM)
  /-- LDC_32 (R152): Loads a word from a member slot of the block's sharing group. -/
  | ldc32 (f : FmtM)
  /-- STC_32 (R152): Stores a word to a member slot of the block's sharing group. -/
  | stc32 (f : FmtM)
  /-- GJOIN (R151): Joins the block to a sharing group slot and reports success in a predicate. -/
  | gjoin (f : FmtA)
  /-- GLEAVE (R151): Unmaps the block's slot from a sharing group. -/
  | gleave (f : FmtA)
  /-- SILOWAIT (R157): Holds the thread until the Silo bank group of an address has a gap of at least B x 10 ns. -/
  | silowait (f : FmtA)
  /-- SILOST (R156): Writes the refresh state of the Silo bank group of an address. -/
  | silost (f : FmtA)
  /-- PREF (R161): Brings a line into L1 and L2 without ever faulting. -/
  | pref (f : FmtM)
  /-- SPILL (R159): Stores four registers into the block's loft area. -/
  | spill (f : FmtM)
  /-- FILL (R159): Loads four registers from the block's loft area. -/
  | fill (f : FmtM)
  /-- EPUT (R162): Writes one of the thread's four copy-engine staging words. -/
  | eput (f : FmtA)
  /-- EGO (R162): Checks the staged command, queues it at the copy engine and returns its timeline number. -/
  | ego (f : FmtA)
  /-- EPOLL (R167): Writes the state of a numbered copy-engine command. -/
  | epoll (f : FmtA)
  /-- ALLOC (R168): Warp collective that allocates from the warp's heap slice in tid order. -/
  | alloc (f : FmtA)
  /-- FREE (R168): Warp collective that frees an allocation and every later one. -/
  | free (f : FmtA)
  /-- ATOM_ADD (R184): Atomically adds D to a word at its owner and returns the old value. -/
  | atomAdd (f : FmtM)
  /-- ATOM_MAX_I (R184): Atomically keeps the greater i32 of the word and D. -/
  | atomMaxI (f : FmtM)
  /-- ATOM_MIN_I (R184): Atomically keeps the lesser i32 of the word and D. -/
  | atomMinI (f : FmtM)
  /-- ATOM_EXCH (R184): Atomically exchanges a word with D. -/
  | atomExch (f : FmtM)
  /-- ATOM_CAS (R184): Atomically compares a word with D and stores D + 1 on equality. -/
  | atomCas (f : FmtM)
  /-- ATOM_OR (R184): Atomically ORs D into a word. -/
  | atomOr (f : FmtM)
  /-- ATOM_AND (R184): Atomically ANDs D into a word. -/
  | atomAnd (f : FmtM)
  /-- ATOM_FADD2 (R185): Atomically adds bf16x2 operands of one issue with one rounding per half. -/
  | atomFadd2 (f : FmtM)
  /-- ATOM_ADD64 (R184): Atomically adds a 64-bit operand to a doubleword. -/
  | atomAdd64 (f : FmtM)
  /-- ATOM_CAS64 (R184): Atomically compares and swaps a doubleword. -/
  | atomCas64 (f : FmtM)
  /-- ATOM_EXCH64 (R184): Atomically exchanges a doubleword. -/
  | atomExch64 (f : FmtM)
  /-- REDX_F (R186): Contributes f32 D to a bin on a BIN page at the page's window. -/
  | redxF (f : FmtM)
  /-- REDX_I (R186): Adds sign-extended D in LSB units to a bin on a BIN page. -/
  | redxI (f : FmtM)
  /-- BINRD (R187): Drains a memory bin to f32 and returns its flag bits. -/
  | binrd (f : FmtM)
  /-- BINCLR (R187): Sets a memory bin's 128 bits to zero. -/
  | binclr (f : FmtM)
  /-- BIND (R174): Binds a region to a sync object and reports success in a predicate. -/
  | bind (f : FmtA)
  /-- ACQ_X (R175): Holds the block until it is granted the sync object exclusively. -/
  | acqX (f : FmtA)
  /-- ACQ_S (R175): Holds the block until it is granted the sync object shared. -/
  | acqS (f : FmtA)
  /-- REL (R177): Releases a held sync object, publishing the region on an exclusive release. -/
  | rel (f : FmtA)
  /-- ACQTRY_X (R176): Takes a free sync object exclusively without waiting, reporting success in a predicate. -/
  | acqtryX (f : FmtA)
  /-- UNBIND (R178): Removes the region of an exclusively held sync object. -/
  | unbind (f : FmtA)
  /-- FENCE (R181): Holds the thread until its earlier memory operations are performed at the named scope. -/
  | fence (f : FmtA)
  /-- BAR (R190): Arrives at a barrier object and waits for the phase to flip. -/
  | bar (f : FmtA)
  /-- ARRIVE (R190): Arrives at a barrier object and returns the phase bit. -/
  | arrive (f : FmtA)
  /-- ARRIVE_DROP (R190): Arrives and lowers the expected count at the next flip. -/
  | arriveDrop (f : FmtA)
  /-- ARRIVE_JOIN (R190): Raises the expected count at the next flip without arriving. -/
  | arriveJoin (f : FmtA)
  /-- BARWAIT (R190): Holds the participant until the barrier phase differs from B[0], then acquires. -/
  | barwait (f : FmtA)
  /-- BARTEST (R190): Writes whether the barrier phase differs from B[0], acquiring when it does. -/
  | bartest (f : FmtA)
  /-- GBAR (R191): Waits until every thread of the launch on this device has reached the same GBAR or exited. -/
  | gbar (f : FmtA)
  /-- SWARM (R192): Arms a sync word with a target and returns its generation. -/
  | swarm (f : FmtA)
  /-- SWWAIT (R192): Holds the participant until a sync word's generation differs from B. -/
  | swwait (f : FmtA)
  /-- SWTEST (R192): Writes whether a sync word's generation differs from B. -/
  | swtest (f : FmtA)
  /-- TLWAIT (R194): Holds the participant until an engine timeline reaches n, then acquires. -/
  | tlwait (f : FmtA)
  /-- TLREAD (R194): Writes an engine timeline's completed value. -/
  | tlread (f : FmtA)
  /-- TLTEST (R194): Writes whether an engine timeline has reached n. -/
  | tltest (f : FmtA)
  /-- PHARR (R197): Lowers the core's ARR counter by A and releases at the phase scope. -/
  | pharr (f : FmtA)
  /-- PHWAIT (R198): Holds the participant until the current phase has ended. -/
  | phwait (f : FmtA)
  /-- PHSET (R196): Loads a phase header, waiting for the current phase to end first. -/
  | phset (f : FmtA)
  /-- PHSTAT (R198): Writes the core's phase status word. -/
  | phstat (f : FmtA)
  /-- PLAUNCH (R228): Checks a pair descriptor, starts a pair launch and returns its Thresher timeline number. -/
  | plaunch (f : FmtA)
  /-- PCANCEL (R229): Cancels a pair launch before its drain and reports whether it took effect. -/
  | pcancel (f : FmtA)
  /-- PI (R230): Writes the item's record index i. -/
  | pi (f : FmtA)
  /-- PJ (R230): Writes the item's record index j. -/
  | pj (f : FmtA)
  /-- PTAG (R230): Writes the item's tag. -/
  | ptag (f : FmtA)
  /-- PCELL (R230): Writes the item's cell value. -/
  | pcell (f : FmtA)
  /-- PDX (R230): Writes the item's corrected dx. -/
  | pdx (f : FmtA)
  /-- PDY (R230): Writes the item's corrected dy. -/
  | pdy (f : FmtA)
  /-- PDZ (R230): Writes the item's corrected dz. -/
  | pdz (f : FmtA)
  /-- PDSQ (R230): Writes the item's squared distance. -/
  | pdsq (f : FmtA)
  /-- PRECI (R231): Loads one word of the item's record i. -/
  | preci (f : FmtA)
  /-- PRECJ (R231): Loads one word of the item's record j. -/
  | precj (f : FmtA)
  /-- PRECI2 (R231): Loads two words of the item's record i. -/
  | preci2 (f : FmtA)
  /-- PRECJ2 (R231): Loads two words of the item's record j. -/
  | precj2 (f : FmtA)
  /-- PCON_OPP (R232): Stages an entry adding v to bin b of i and -v to bin b of j. -/
  | pconOpp (f : FmtA)
  /-- PCON_SYM (R232): Stages an entry adding v to bin b of both i and j. -/
  | pconSym (f : FmtA)
  /-- PCON_I (R232): Stages an entry adding v to bin b of i. -/
  | pconI (f : FmtA)
  /-- PCON_J (R232): Stages an entry adding v to bin b of j. -/
  | pconJ (f : FmtA)
  /-- PDROP (R233): Discards every staged contribution entry of the thread. -/
  | pdrop (f : FmtA)
  /-- PKQ (R281): Checks a Granary descriptor, queues a product-key lookup and returns its timeline number. -/
  | pkq (f : FmtA)
  /-- PKG (R281): Checks a Granary descriptor, queues a gradient scatter and returns its timeline number. -/
  | pkg (f : FmtA)
  /-- PKSTAT (R283): Writes the status of a numbered Granary operation. -/
  | pkstat (f : FmtA)
  /-- FRCP (R124): Writes the correctly rounded reciprocal of A. -/
  | frcp (f : FmtA)
  /-- FRSQ (R124): Writes the correctly rounded reciprocal square root of A. -/
  | frsq (f : FmtA)
  /-- FSQRT (R124): Writes the correctly rounded square root of A. -/
  | fsqrt (f : FmtA)
  /-- FDIV (R124): Writes the correctly rounded quotient A / B. -/
  | fdiv (f : FmtA)
  /-- FEXP2 (R124): Writes the correctly rounded 2^A. -/
  | fexp2 (f : FmtA)
  /-- FLOG2 (R124): Writes the correctly rounded log2 A. -/
  | flog2 (f : FmtA)
  /-- FEXP (R124): Writes the correctly rounded e^A. -/
  | fexp (f : FmtA)
  /-- FTANH (R124): Writes the correctly rounded tanh A. -/
  | ftanh (f : FmtA)
  /-- FSIN (R124): Writes the correctly rounded sin A. -/
  | fsin (f : FmtA)
  /-- FCOS (R124): Writes the correctly rounded cos A. -/
  | fcos (f : FmtA)
  /-- FSINCOS (R125): Writes sin A to D and cos A to D + 1. -/
  | fsincos (f : FmtA)
  /-- QCLR (R126): Clears a q register's value and flags, keeping its window. -/
  | qclr (f : FmtA)
  /-- QADDF (R126): Contributes f32 A to a q register. -/
  | qaddf (f : FmtA)
  /-- QDOT2 (R126): Contributes the two exact bf16 products of A and B to a q register. -/
  | qdot2 (f : FmtA)
  /-- QSUBF (R126): Contributes -A to a q register. -/
  | qsubf (f : FmtA)
  /-- QRND (R126): Drains a q register to f32. -/
  | qrnd (f : FmtA)
  /-- QRNDH (R126): Drains a q register directly to bf16. -/
  | qrndh (f : FmtA)
  /-- QWIN (R126): Sets a q register's window and clears it. -/
  | qwin (f : FmtA)
  /-- QRED (R127): Warp collective that sets every participant's q to the exact combination of all. -/
  | qred (f : FmtA)
  /-- SWAP1 (R97): Warp collective that writes A of the neighbouring thread m ^ 1. -/
  | swap1 (f : FmtA)
  /-- SHFL (R97): Warp collective that writes A of thread B mod 32. -/
  | shfl (f : FmtA)
  /-- SHFLX (R97): Warp collective that writes A of thread m ^ (B mod 32). -/
  | shflx (f : FmtA)
  /-- SCAN (R98): Warp collective inclusive i32 prefix sum of A. -/
  | scan (f : FmtA)
  /-- RANKF (R99): Warp collective that writes each participant's descending rank of A as f32. -/
  | rankf (f : FmtA)
  /-- RANKI (R99): Warp collective that writes each participant's descending rank of A as i32. -/
  | ranki (f : FmtA)
  /-- MAXW (R100): Warp collective that writes the greatest f32 A of the participants. -/
  | maxw (f : FmtA)
  /-- MINW (R100): Warp collective that writes the least f32 A of the participants. -/
  | minw (f : FmtA)
  /-- RND32 (R129): Writes the counter-based generator value of key A and counter B. -/
  | rnd32 (f : FmtA)
  /-- RNDF (R129): Writes the generator value as an f32 fraction in [0, 1). -/
  | rndf (f : FmtA)
  /-- QSAVE (R126): Copies a q register's 128 bits to four w registers. -/
  | qsave (f : FmtA)
  /-- QLOAD (R126): Loads a q register's bits from four w registers, keeping its window. -/
  | qload (f : FmtA)
  /-- QSCAN (R127): Warp collective exact prefix combination of q registers. -/
  | qscan (f : FmtA)
  /-- TRAP (R353): Raises software TRAP with its 24-bit immediate in the fault record. -/
  | trap (imm : BitVec 24)
  /-- FWAIT (R348): Holds the handler until a fault record is queued or a timeout, then takes the oldest record. -/
  | fwait (f : FmtA)
  /-- SYSR (R354): Reads a system register. -/
  | sysr (f : FmtA)
  /-- SYSW (R354): Writes B to a system register. -/
  | sysw (f : FmtA)
  /-- SYSSET (R354): ORs B into a system register. -/
  | sysset (f : FmtA)
  /-- SYSCLR (R354): Clears the bits of B in a system register. -/
  | sysclr (f : FmtA)
  /-- COMMIT (R359): Holds its participants until the block reaches a commit point and its commit step is done. -/
  | commit (f : FmtA)
  /-- PROT (R362): Writes the block's protection state word. -/
  | prot (f : FmtA)
  /-- FORK (R249): Queues a tile program at the cluster's tile sequencer and returns its timeline number. -/
  | fork (f : FmtA)
  /-- RDV (R250): Holds the thread until a tile program ends, then returns its k0 and status and acquires its effects. -/
  | rdv (f : FmtA)
  /-- FORKSTAT (R251): Writes the status of a numbered tile program without waiting. -/
  | forkstat (f : FmtA)
  /-- SPAWN (R322): Reads a KIND 0 task record and queues it at its die's dispatcher. -/
  | spawn (f : FmtA)
  /-- SPAWNI (R323): Queues one item with its payload at the cluster's packing unit. -/
  | spawni (f : FmtA)
  /-- LAUNCH (R322): Reads a KIND 1 record and its launch descriptor, starts the launch and returns its id. -/
  | launch (f : FmtA)
  /-- MSGSEND (R332): Sends one M0 or M1 message by descriptor and returns its message-engine number. -/
  | msgsend (f : FmtA)
  /-- MSGREM (R333): Contributes bins to a switch reduction by descriptor and returns its number. -/
  | msgrem (f : FmtA)
  /-- CLK (R356): Reads the package's 1 GHz reference counter. -/
  | clk (f : FmtA)
  /-- WAITEV (R357): Holds the participant until a named event is pending, then returns and clears it. -/
  | waitev (f : FmtA)
  /-- BRK (R353): Raises debug break when DEBUG[0] is 1, else acts as NOP. -/
  | brk (f : FmtA)
  /-- CANCEL (R336): Cancels a named level of work and reports whether it took effect. -/
  | cancel (f : FmtA)
  /-- COUNTR (R337): Writes a level's counter and status, acquiring when it has completed. -/
  | countr (f : FmtA)
  /-- FRPT (R349): Writes a fault record's state and optionally forwards it to the host event ring. -/
  | frpt (f : FmtA)
  /-- FREPLAY (R350): Waits for a pair launch to suspend, then replays its failed items and accesses. -/
  | freplay (f : FmtA)
  /-- FRESUME (R350): Resumes a stopped thread, tile program or failed Thresher access. -/
  | fresume (f : FmtA)
  /-- FKILL (R350): Kills the block, program or pair-launch items of a pending fault. -/
  | fkill (f : FmtA)
  /-- PTEW (R351): Writes one page-table entry of the context at a given level if the walk reaches it. -/
  | ptew (f : FmtA)
  /-- TLBINV (R352): Removes the context's TLB entries for a page or all pages on every core. -/
  | tlbinv (f : FmtA)
  /-- MWIN (R260): Sets an accumulator's window and clears its bins. -/
  | mwin (f : FmtA)
  /-- MZERO (R260): Clears an accumulator's bins, keeping its window. -/
  | mzero (f : FmtA)
  /-- MSAVE (R260): Writes an accumulator's raw bins and window trailer to scratchpad. -/
  | msave (f : FmtA)
  /-- MRST (R260): Restores an accumulator from what MSAVE wrote. -/
  | mrst (f : FmtA)
  /-- MMA (R261): Adds the exact products of a 32x32x32 tile product into an accumulator. -/
  | mma (f : FmtA)
  /-- MMA_TRI (R262): Tile product with masked elements above the diagonal set to the fill. -/
  | mmaTri (f : FmtA)
  /-- MEDGE (R263): Sets a matrix unit's extents and diagonal offset. -/
  | medge (f : FmtA)
  /-- MFMT (R263): Sets a matrix unit's fill kind and fill value. -/
  | mfmt (f : FmtA)
  /-- MDRAIN (R264): Drains an accumulator to f32 in scratchpad. -/
  | mdrain (f : FmtA)
  /-- MDRAINH (R264): Drains an accumulator to bf16 in scratchpad. -/
  | mdrainh (f : FmtA)
  /-- MDRAINB (R264): Copies an accumulator's raw bins to scratchpad. -/
  | mdrainb (f : FmtA)
  /-- MSYNC (R265): Holds the sequencer until every MAT operation of the program has completed. -/
  | msync (f : FmtA)
  /-- MBAR (R266): Waits for earlier MAT operations, then arrives once on a barrier object. -/
  | mbar (f : FmtA)
  /-- MWAITB (R266): Holds the sequencer until a barrier's phase differs from B[0], then acquires. -/
  | mwaitb (f : FmtA)
  /-- ISSUE_VOTE (R66): A slice's sequencer chooses up to two clause addresses and issues them to free lanes. -/
  | issueVote (blk : Nat) (wp : Nat)
  /-- LOAD_COMPLETE (R37): A long-latency operation writes its owed register and its slot may drain. -/
  | loadComplete (t : TRef) (k : Nat)
  /-- PAGE_WALK_COMPLETE (R140): A walker answers a TLB miss and the waiting thread goes on. -/
  | pageWalkComplete (core : Nat) (ctx : Nat) (va : DWord)
  /-- ATOMIC_SERVICE (R184): The owning service warp performs one merged atomic request and returns results. -/
  | atomicService (c : Nat)
  /-- YIELD_TIMEOUT (R94): After 32 cycles a yielded thread rejoins its slice's votes. -/
  | yieldTimeout (t : TRef)
  /-- COPY_COMMAND_EXECUTE (R163): The copy engine takes its next queued command and copies its rows. -/
  | copyCommandExecute (c : Nat)
  /-- COPY_COMMAND_COMPLETE (R166): A copy command ends, updating its sync word and advancing the timeline, or failing with a record. -/
  | copyCommandComplete (c : Nat)
  /-- PAIR_LAUNCH_START (R237): A queued pair launch reserves its bins and begins testing candidates. -/
  | pairLaunchStart (l : Nat)
  /-- PAIR_TESTING_COMPLETE (R222): Accepted counts are exchanged, pairs indexed and the launch runs or emits its list. -/
  | pairTestingComplete (l : Nat)
  /-- PAIR_BATCH_START (R224): A packing unit starts a batch of up to 32 items as a one-warp block. -/
  | pairBatchStart (l : Nat) (c : Nat) (core : Nat)
  /-- PAIR_ENTRY_APPLY (R234): An exiting pair thread's staged entries are added at the home bin stores. -/
  | pairEntryApply (l : Nat)
  /-- PAIR_LAUNCH_SUSPEND (R240): A launch with failures and nothing left to run enters state 3. -/
  | pairLaunchSuspend (l : Nat)
  /-- PAIR_LAUNCH_DRAIN (R235): The launch's bins are drained to the output arrays and released. -/
  | pairLaunchDrain (l : Nat)
  /-- PAIR_LAUNCH_COMPLETE (R236): The status record is written and the Thresher timeline advances. -/
  | pairLaunchComplete (l : Nat)
  /-- TILE_PROGRAM_START (R245): The tile sequencer starts the next queued program with reset state. -/
  | tileProgramStart (c : Nat)
  /-- MATRIX_UNIT_OPERATION (R253): A matrix unit executes its next queued MAT operation. -/
  | matrixUnitOperation (core : Nat)
  /-- TILE_PROGRAM_END (R245): A program has exited and its MAT operations completed, so its number completes. -/
  | tileProgramEnd (c : Nat)
  /-- GRANARY_OPERATION (R276): A Granary unit serves its next PKQ or PKG, loading tables on a miss. -/
  | granaryOperation (u : Nat)
  /-- GRANARY_OPERATION_DONE (R282): A Granary operation writes its results all or nothing and its number completes. -/
  | granaryOperationDone (u : Nat)
  /-- ITEM_GATHER_TIMEOUT (R323): An item warp starts 256 cycles after its first item. -/
  | itemGatherTimeout (c : Nat) (entry : DWord)
  /-- DISPATCH (R324): A freed slice takes the best ready record or item warp of its cluster. -/
  | dispatch (core : Nat)
  /-- BLOCK_PLACEMENT (R325): Waiting blocks are placed in Hilbert order as room frees. -/
  | blockPlacement (l : Nat)
  /-- UNIT_COMPLETION (R30): A unit of work completes once its counter is zero and all it holds has completed. -/
  | unitCompletion (ctx : Nat) (code : Nat) (id : Nat)
  /-- PHASE_END (R196): Every rafter-tree line of the phase scope is high and the phase ends. -/
  | phaseEnd (ctx : Nat)
  /-- ENTRY_WINDOW_WRITE (R326): A 64-byte write to an entry window queues a task record on its die. -/
  | entryWindowWrite (slot : Nat) (off : Nat) (data : List Byte)
  /-- M0_ARRIVAL (R328): An arriving M0 record joins the destination's ready queue. -/
  | m0Arrival (slot : Nat) (data : List Byte) (head : MsgHead)
  /-- M1_ARRIVAL (R332): An arriving M1 write is performed in the destination context. -/
  | m1Arrival (slot : Nat) (va : DWord) (data : List Byte) (head : MsgHead)
  /-- M1_ACKNOWLEDGEMENT (R332): An M1 acknowledgement completes the sender's operation and counts STORE. -/
  | m1Acknowledgement (c : Nat) (num : Nat) (cause : Nat) (va : DWord)
  /-- PHASE_COMPLETION_MESSAGE (R196): An M2 completion message reports a device's phase result to a rank. -/
  | phaseCompletionMessage (ctx : Nat) (id : Nat) (rank : Nat)
  /-- M3_CONTRIBUTION (R333): A switch combines an arriving reduction contribution exactly. -/
  | m3Contribution (gid : Nat) (seq : Nat) (rank : Nat) (bins : List BinBits) (win : Int) (nrank : Nat)
  /-- REDUCTION_WINDOW_EXPIRY (R334): A switch aborts an incomplete sequence when its 500 us window closes. -/
  | reductionWindowExpiry (gid : Nat) (seq : Nat)
  /-- REDUCTION_INCOMPLETE (R334): A rank's message engine reissues its retained copy under the same sequence. -/
  | reductionIncomplete (gid : Nat) (seq : Nat)
  /-- REDUCTION_ROUND_COMPLETE (R333): A completed round writes DST on the rank and completes its MSGREM. -/
  | reductionRoundComplete (gid : Nat) (seq : Nat)
  /-- FAULT_RECORD_POST (R346): A fault record enters the context's queue and receives a sequence number. -/
  | faultRecordPost (p : Posting)
  /-- EVENT_RING_DEFERRED_WRITE (R391): A handler's own fault record waiting for ring room is written once room frees. -/
  | eventRingDeferredWrite (fn : Nat)
  /-- FWAIT_TIMEOUT (R348): FWAIT returns 0 after B microseconds with no record. -/
  | fwaitTimeout (t : TRef)
  /-- COMMIT_POINT (R358): A block whose threads are all held at COMMIT or BAR with slots drained commits. -/
  | commitPoint (blk : Nat)
  /-- ROLLBACK (R363): A consumed uncorrectable error or mismatch rolls the block back to its last commit. -/
  | rollback (blk : Nat) (cause : Nat)
  /-- PREEMPTION_SAVE (R374): A victim block at a commit point with loft room is saved. -/
  | preemptionSave (blk : Nat)
  /-- BLOCK_MOVE (R375): A block is copied to another core at a commit point. -/
  | blockMove (blk : Nat) (core : Nat)
  /-- FORWARDING_EXPIRY (R376): A moved block's forwarding entry at its old core lapses. -/
  | forwardingExpiry (blk : Nat)
  /-- TIMER_EVENT (R357): CLK reaches a nonzero deadline and TIMER is set. -/
  | timerEvent (blk : Nat)
  /-- TIMER_DEADLINE_WRITE (R357): A write of TIMERLO or TIMERHI sets the deadline and clears TIMER. -/
  | timerDeadlineWrite (blk : Nat) (high : Bool) (v : Word)
  /-- ERROR_BANK_LATCH (R372): A read of bank word 0 latches words 1 to 3 for the reader. -/
  | errorBankLatch (t : TRef) (u : Nat)
  /-- ERROR_BANK_CLEAR (R372): A write of bank word 0 clears the record if unchanged since the latch. -/
  | errorBankClear (t : TRef) (u : Nat)
  /-- CORRECTED_ERROR (R371): A corrected error is counted and recorded in its unit's bank. -/
  | correctedError (u : Nat) (loc : Nat)
  /-- UNCORRECTABLE_ERROR (R371): An uncorrectable error is counted, recorded and the data poisoned. -/
  | uncorrectableError (u : Nat) (loc : Nat) (cells : List Nat)
  /-- SILO_REFRESH_WINDOW (R155): A Silo bank group enters or leaves its 1.2 us refresh window. -/
  | siloRefreshWindow (die : Nat) (group : Nat) (enter : Bool)
  /-- HBM_SCRUB_PASS (R373): A full HBM scrub pass adds its counts and poisons reported rows. -/
  | hbmScrubPass (stack : Nat) (count : Nat) (rows : List Nat)
  /-- ARRAY_SCRUB_PASS (R373): The Silo, L2 and loft scrubs run by the bank rules. -/
  | arrayScrubPass (u : Nat) (corrected : List Nat) (bad : List Nat)
  /-- GRANT_PERIOD (R397): Every 2 us the arbiter computes grants and may change the clock step. -/
  | grantPeriod (demand : List Nat) (demandUp : List Nat) (temp : List Nat) (hot : List Nat) (draw : Nat) (budget : Nat)
  /-- LINK_FAILURE (R395): A link that fails 16 retrains is fenced and traffic moves to other links. -/
  | linkFailure (link : Nat)
  /-- CONTEXT_CREATE (R390): Create reads the context descriptor, reserves loft and starts the handler. -/
  | contextCreate (fn : Nat) (slot : Nat)
  /-- CONTEXT_DESTROY (R390): Destroy cancels every job of the context. -/
  | contextDestroy (fn : Nat) (slot : Nat)
  /-- CONTEXT_DESTROY_DONE (R390): Once all units end and bindings are removed, the slot and loft are freed. -/
  | contextDestroyDone (slot : Nat)
  /-- START_HANDLER (R390): Start handler restarts a killed handler. -/
  | startHandler (fn : Nat) (slot : Nat)
  /-- SIGNAL_HOST (R390): Signal sets HOST in every live block of the context and its handler. -/
  | signalHost (fn : Nat) (slot : Nat)
  /-- SILOGO (R393): A write starts a Silo load after checking the die and range. -/
  | silogo
  /-- SILO_LOAD_DONE (R393): A Silo load finishes copying and raises vector 1. -/
  | siloLoadDone
  /-- ATTGO (R400): A write produces a signed attestation report at ATTDST. -/
  | attgo (fn : Nat)
  /-- RBCOMMIT (R398): A write blows rollback fuses up to the running boot image's RBC. -/
  | rbcommit
  /-- CLUSTER_FENCE (R397): A write to a die's FENCE word stops new placement on the named clusters. -/
  | clusterFence (die : Nat) (mask : DWord)
  /-- HOST_REGISTER_WRITE (R389): A host write to a function register with no behaviour of its own. -/
  | hostRegisterWrite (fn : Nat) (off : Nat) (size : Nat) (v : DWord)
  /-- BAR4_ACCESS (R388): A host access through BAR4 reaches device physical memory from APBASE. -/
  | bar4Access (off : Nat) (write : Bool) (data : List Byte)
  /-- PCIE_ATOMIC_REQUEST (R387): A PCIe atomic operation is answered with Unsupported Request. -/
  | pcieAtomicRequest (fn : Nat)
  /-- CONFIGURATION_REQUEST (R401): A configuration request gets Retry Status until bring-up step 6. -/
  | configurationRequest (fn : Nat)
  /-- DEVICE_RESET (R401): Reset runs the bring-up steps through READY. -/
  | deviceReset
  /-- MEMORY_OPERATION_PERFORMED (R181): An earlier store, STE or no-return memory operation of a thread becomes performed at a scope, releasing a FENCE hold and letting a task warp complete. -/
  | memoryOperationPerformed (m : StoreMove)
  /-- EVTAIL_WRITE (R391): The host writes EVTAIL, consuming event-ring entries and freeing room for held FRPTs and deferred handler records. -/
  | evtailWrite (fn : Nat) (v : DWord)
  /-- FAILING_CLUSTER_FENCE (R22): Placement fences off a failing cluster by itself and moves its logical cores and units to healthy clusters. -/
  | failingClusterFence (c : Nat)
  deriving DecidableEq, Repr

end Sys2Proof
end

