-- ==== Sys2Proof/Decode.lean ====
section
/-!
DEFINITION. The opcode map (R54, Tables 2-8 to 2-12), the decoder, the encoder, and the operand checks of R51. An instruction word does
not hold its class: the class comes from the clause header (R35), so the decoder takes it as an argument.
-/

namespace Sys2Proof

/-- What a selector field must name (R43, R44, and the owning chapters). -/
inductive SelKind where
  | none      -- not used: not decoded (R49)
  | val       -- any 32-bit selector, LIT included
  | valNoLit  -- any 32-bit selector but LIT (R45)
  | pair      -- an even w or s pair; in tile code an even k pair
  | wpair     -- an even w pair (R351)
  | w4        -- a w register that is a multiple of 4, four words
  | w3        -- BIND's B: a w register that is a multiple of 4 (R174)
  | pred      -- p or x register in [2:0], [7:3] zero
  | q         -- q register in [1:0], [7:2] zero
  | k2        -- tile code: an even k pair (R255)
  | kop       -- MMA operand: a k pair, or one k register under the source field (R258, R261)
  deriving DecidableEq, Repr

/-- What the D field names (R42). `w n rd wr`: n consecutive w registers, read and/or written. -/
inductive DKind where
  | none
  | w (n : Nat) (rd wr : Bool)
  | p
  | s
  | q
  | x
  | stage
  | swlen
  | mat (used : BitVec 7)
  deriving DecidableEq, Repr

/-- The instruction formats of Table 2-5; `sw` and `sb` are SWITCH and SBEGIN with their trailing words (R50). -/
inductive Fmt where
  | a | c | m | t | w | sw | sb
  deriving DecidableEq, Repr

/-- What the opcode map and the owning chapters say of an operation: long-latency (R37), warp collective (R72), control (R50), pushing
y0 (R39), fixing under P1 and P2 (Table 16-7), privileged (R54), allowed in tile code (R55), forbidden in pair and item threads (R225,
R323), allowed in pair threads only (R225). -/
inductive Trait where
  | long | coll | ctl | push | fixing | priv | tile | noPair | pairOnly
  deriving DecidableEq, Repr

/-- The fields an instruction carries, by its format. -/
inductive Shape where
  | a (f : FmtA)
  | c (f : FmtC)
  | m (f : FmtM)
  | t (f : FmtT)
  | w (imm : BitVec 24)
  | sw (f : FmtSwitch)
  | sb (f : FmtSbegin)
  deriving DecidableEq, Repr

/-- One defined cell of the opcode map: its class, OP6 and FN together (word bits [31:24]), its format, what D and the selectors name,
and its traits. -/
structure OpInfo where
  cls    : Cls
  key    : BitVec 8
  fmt    : Fmt
  dk     : DKind
  ak     : SelKind
  bk     : SelKind
  traits : List Trait
  deriving DecidableEq, Repr

/-- The operation has a trait. -/
def OpInfo.is (o : OpInfo) (t : Trait) : Bool := o.traits.contains t


/-- The operations: the defined cells of the opcode map (R54). SEL has one for each predicate its FN names. -/
inductive Op where
  | iadd | iaddSatI | iaddSatN | isub | isubSatI | isubSatN | imul | imulHiI
  | imulHiN | imad | iminI | iminN | imaxI | imaxN | and | or
  | xor | andn | shl | shr | sar | rol | popc | clz
  | brev | ctz | bfxN | bfxI | bfi | icmpEq | icmpNe | icmpLtI
  | icmpLtN | icmpLeI | icmpLeN | icmpTst | sel0 | sel1 | sel2 | sel3
  | mov | xrd | xwr | xset | pand | por | pxor | pnot
  | smov | sadd | sand | sshl | adda | addaX4 | addaX16 | suba
  | rdl | br | brIfP | brIfNotP | call | callIndirect | ret | switch
  | voteAny | voteAll | voteBallot | voteCnt | exit | yield | nop | tryMark
  | fail | failIfP | failIfNotP | cut | cutall | depth | alts | sbegin
  | send | glean | fadd | faddRz | faddRu | faddRd | fsub | fsubRz
  | fsubRu | fsubRd | fmul | fmulRz | fmulRu | fmulRd | ffma | ffmaRz
  | ffmaRu | ffmaRd | fmin | fmax | fminnum | fmaxnum | fcmpEq | fcmpLt
  | fcmpLe | fcmpUn | hadd2 | hsub2 | hmul2 | hfma2 | fabs | fneg
  | fcpsgn | fclass | cvtBf16F32 | cvtBf16F32Sr | cvtF32Bf16 | cvtF32I32 | cvtI32F32RzSat | cvtI32F32Sat
  | cvtF32N32 | cvtN32F32RzSat | cvtE4m3 | cvtE4m3Sr | cvtE5m2 | cvtE5m2Sr | cvtF32E4m3 | cvtF32E5m2
  | pack2 | ld16 | ld32 | ld64 | ld128 | ld16S | ldb | ldbs
  | st8 | st16 | st32 | st64 | st128 | ldeF32 | ldeBf16x2 | ldexp
  | steF32 | steBf16x2 | lds32 | lds64 | lds128 | lds16 | sts32 | sts64
  | sts128 | sts16 | ldc32 | stc32 | gjoin | gleave | silowait | silost
  | pref | spill | fill | eput | ego | epoll | alloc | free
  | atomAdd | atomMaxI | atomMinI | atomExch | atomCas | atomOr | atomAnd | atomFadd2
  | atomAdd64 | atomCas64 | atomExch64 | redxF | redxI | binrd | binclr | bind
  | acqX | acqS | rel | acqtryX | unbind | fence | bar | arrive
  | arriveDrop | arriveJoin | barwait | bartest | gbar | swarm | swwait | swtest
  | tlwait | tlread | tltest | pharr | phwait | phset | phstat | plaunch
  | pcancel | pi | pj | ptag | pcell | pdx | pdy | pdz
  | pdsq | preci | precj | preci2 | precj2 | pconOpp | pconSym | pconI
  | pconJ | pdrop | pkq | pkg | pkstat | frcp | frsq | fsqrt
  | fdiv | fexp2 | flog2 | fexp | ftanh | fsin | fcos | fsincos
  | qclr | qaddf | qdot2 | qsubf | qrnd | qrndh | qwin | qred
  | swap1 | shfl | shflx | scan | rankf | ranki | maxw | minw
  | rnd32 | rndf | qsave | qload | qscan | trap | fwait | sysr
  | sysw | sysset | sysclr | commit | prot | fork | rdv | forkstat
  | spawn | spawni | launch | msgsend | msgrem | clk | waitev | brk
  | cancel | countr | frpt | freplay | fresume | fkill | ptew | tlbinv
  | mwin | mzero | msave | mrst | mma | mmaTri | medge | mfmt
  | mdrain | mdrainh | mdrainb | msync | mbar | mwaitb
  deriving DecidableEq, Repr

/-- The opcode map. What a chapter lists as long-latency attaches to SS; GJOIN and ALLOC, of which Table 5-12 gives a latency alone, do too (log entry
86). -/
def Op.info : Op → OpInfo
  | .iadd => ⟨.gen, 0x00, .a, .w 1 false true, .val, .val, [.push, .tile]⟩
  | .iaddSatI => ⟨.gen, 0x01, .a, .w 1 false true, .val, .val, [.push, .tile]⟩
  | .iaddSatN => ⟨.gen, 0x02, .a, .w 1 false true, .val, .val, [.push, .tile]⟩
  | .isub => ⟨.gen, 0x04, .a, .w 1 false true, .val, .val, [.push, .tile]⟩
  | .isubSatI => ⟨.gen, 0x05, .a, .w 1 false true, .val, .val, [.push, .tile]⟩
  | .isubSatN => ⟨.gen, 0x06, .a, .w 1 false true, .val, .val, [.push, .tile]⟩
  | .imul => ⟨.gen, 0x08, .a, .w 1 false true, .val, .val, [.push, .tile]⟩
  | .imulHiI => ⟨.gen, 0x09, .a, .w 1 false true, .val, .val, [.push, .tile]⟩
  | .imulHiN => ⟨.gen, 0x0A, .a, .w 1 false true, .val, .val, [.push, .tile]⟩
  | .imad => ⟨.gen, 0x0C, .a, .w 1 true true, .val, .val, [.push, .tile]⟩
  | .iminI => ⟨.gen, 0x10, .a, .w 1 false true, .val, .val, [.push, .tile]⟩
  | .iminN => ⟨.gen, 0x11, .a, .w 1 false true, .val, .val, [.push, .tile]⟩
  | .imaxI => ⟨.gen, 0x12, .a, .w 1 false true, .val, .val, [.push, .tile]⟩
  | .imaxN => ⟨.gen, 0x13, .a, .w 1 false true, .val, .val, [.push, .tile]⟩
  | .and => ⟨.gen, 0x14, .a, .w 1 false true, .val, .val, [.push, .tile]⟩
  | .or => ⟨.gen, 0x15, .a, .w 1 false true, .val, .val, [.push, .tile]⟩
  | .xor => ⟨.gen, 0x16, .a, .w 1 false true, .val, .val, [.push, .tile]⟩
  | .andn => ⟨.gen, 0x17, .a, .w 1 false true, .val, .val, [.push, .tile]⟩
  | .shl => ⟨.gen, 0x18, .a, .w 1 false true, .val, .val, [.push, .tile]⟩
  | .shr => ⟨.gen, 0x19, .a, .w 1 false true, .val, .val, [.push, .tile]⟩
  | .sar => ⟨.gen, 0x1A, .a, .w 1 false true, .val, .val, [.push, .tile]⟩
  | .rol => ⟨.gen, 0x1B, .a, .w 1 false true, .val, .val, [.push, .tile]⟩
  | .popc => ⟨.gen, 0x1C, .a, .w 1 false true, .val, .none, [.push, .tile]⟩
  | .clz => ⟨.gen, 0x1D, .a, .w 1 false true, .val, .none, [.push, .tile]⟩
  | .brev => ⟨.gen, 0x1E, .a, .w 1 false true, .val, .none, [.push, .tile]⟩
  | .ctz => ⟨.gen, 0x1F, .a, .w 1 false true, .val, .none, [.push, .tile]⟩
  | .bfxN => ⟨.gen, 0x20, .a, .w 1 false true, .val, .val, [.push, .tile]⟩
  | .bfxI => ⟨.gen, 0x21, .a, .w 1 false true, .val, .val, [.push, .tile]⟩
  | .bfi => ⟨.gen, 0x22, .a, .w 1 true true, .val, .val, [.push, .tile]⟩
  | .icmpEq => ⟨.gen, 0x24, .a, .p, .val, .val, [.push, .tile]⟩
  | .icmpNe => ⟨.gen, 0x25, .a, .p, .val, .val, [.push, .tile]⟩
  | .icmpLtI => ⟨.gen, 0x26, .a, .p, .val, .val, [.push, .tile]⟩
  | .icmpLtN => ⟨.gen, 0x27, .a, .p, .val, .val, [.push, .tile]⟩
  | .icmpLeI => ⟨.gen, 0x28, .a, .p, .val, .val, [.push, .tile]⟩
  | .icmpLeN => ⟨.gen, 0x29, .a, .p, .val, .val, [.push, .tile]⟩
  | .icmpTst => ⟨.gen, 0x2A, .a, .p, .val, .val, [.push, .tile]⟩
  | .sel0 => ⟨.gen, 0x2C, .a, .w 1 false true, .val, .val, [.push, .tile]⟩
  | .sel1 => ⟨.gen, 0x2D, .a, .w 1 false true, .val, .val, [.push, .tile]⟩
  | .sel2 => ⟨.gen, 0x2E, .a, .w 1 false true, .val, .val, [.push, .tile]⟩
  | .sel3 => ⟨.gen, 0x2F, .a, .w 1 false true, .val, .val, [.push, .tile]⟩
  | .mov => ⟨.gen, 0x30, .a, .w 1 false true, .val, .none, [.push, .tile]⟩
  | .xrd => ⟨.gen, 0x31, .a, .w 1 false true, .val, .pred, [.push]⟩
  | .xwr => ⟨.gen, 0x32, .a, .w 1 true false, .val, .pred, [.push]⟩
  | .xset => ⟨.gen, 0x33, .a, .x, .val, .val, []⟩
  | .pand => ⟨.gen, 0x34, .a, .p, .pred, .pred, [.push, .tile]⟩
  | .por => ⟨.gen, 0x35, .a, .p, .pred, .pred, [.push, .tile]⟩
  | .pxor => ⟨.gen, 0x36, .a, .p, .pred, .pred, [.push, .tile]⟩
  | .pnot => ⟨.gen, 0x37, .a, .p, .pred, .none, [.push, .tile]⟩
  | .smov => ⟨.gen, 0x38, .a, .s, .val, .none, [.push]⟩
  | .sadd => ⟨.gen, 0x39, .a, .s, .val, .val, [.push]⟩
  | .sand => ⟨.gen, 0x3A, .a, .s, .val, .val, [.push]⟩
  | .sshl => ⟨.gen, 0x3B, .a, .s, .val, .val, [.push]⟩
  | .adda => ⟨.gen, 0x3C, .a, .w 2 false true, .pair, .val, [.push, .tile]⟩
  | .addaX4 => ⟨.gen, 0x3D, .a, .w 2 false true, .pair, .val, [.push, .tile]⟩
  | .addaX16 => ⟨.gen, 0x3E, .a, .w 2 false true, .pair, .val, [.push, .tile]⟩
  | .suba => ⟨.gen, 0x3F, .a, .w 2 false true, .pair, .val, [.push, .tile]⟩
  | .rdl => ⟨.gen, 0x40, .a, .s, .val, .val, [.coll, .push, .noPair]⟩
  | .br => ⟨.gen, 0x80, .c, .none, .none, .none, [.ctl, .tile]⟩
  | .brIfP => ⟨.gen, 0x81, .c, .none, .none, .none, [.ctl, .tile]⟩
  | .brIfNotP => ⟨.gen, 0x82, .c, .none, .none, .none, [.ctl, .tile]⟩
  | .call => ⟨.gen, 0x84, .c, .none, .none, .none, [.ctl, .tile]⟩
  | .callIndirect => ⟨.gen, 0x85, .a, .none, .pair, .none, [.ctl, .tile]⟩
  | .ret => ⟨.gen, 0x88, .a, .none, .none, .none, [.ctl, .tile]⟩
  | .switch => ⟨.gen, 0x8C, .sw, .swlen, .valNoLit, .none, [.ctl, .tile]⟩
  | .voteAny => ⟨.gen, 0x90, .a, .p, .none, .pred, [.coll, .push, .noPair]⟩
  | .voteAll => ⟨.gen, 0x91, .a, .p, .none, .pred, [.coll, .push, .noPair]⟩
  | .voteBallot => ⟨.gen, 0x92, .a, .w 1 false true, .none, .pred, [.coll, .push, .noPair]⟩
  | .voteCnt => ⟨.gen, 0x93, .a, .w 1 false true, .none, .pred, [.coll, .push, .noPair]⟩
  | .exit => ⟨.gen, 0x94, .a, .none, .none, .none, [.ctl, .tile]⟩
  | .yield => ⟨.gen, 0x95, .a, .none, .none, .none, [.ctl]⟩
  | .nop => ⟨.gen, 0x98, .a, .none, .none, .none, [.tile]⟩
  | .tryMark => ⟨.gen, 0xA0, .t, .w 1 false true, .none, .none, [.ctl, .push, .noPair]⟩
  | .fail => ⟨.gen, 0xA4, .c, .none, .none, .none, [.ctl, .noPair]⟩
  | .failIfP => ⟨.gen, 0xA5, .c, .none, .none, .none, [.ctl, .noPair]⟩
  | .failIfNotP => ⟨.gen, 0xA6, .c, .none, .none, .none, [.ctl, .noPair]⟩
  | .cut => ⟨.gen, 0xA8, .a, .none, .val, .none, [.ctl, .noPair]⟩
  | .cutall => ⟨.gen, 0xA9, .a, .none, .none, .none, [.ctl, .noPair]⟩
  | .depth => ⟨.gen, 0xAA, .a, .w 1 false true, .none, .none, [.push, .noPair]⟩
  | .alts => ⟨.gen, 0xAB, .a, .w 1 false true, .none, .none, [.push, .noPair]⟩
  | .sbegin => ⟨.gen, 0xAC, .sb, .none, .none, .none, [.ctl, .noPair]⟩
  | .send => ⟨.gen, 0xAD, .a, .none, .none, .none, [.ctl, .noPair]⟩
  | .glean => ⟨.gen, 0xAE, .c, .none, .none, .none, [.ctl, .noPair]⟩
  | .fadd => ⟨.gen, 0xC0, .a, .w 1 false true, .val, .val, [.push]⟩
  | .faddRz => ⟨.gen, 0xC1, .a, .w 1 false true, .val, .val, [.push]⟩
  | .faddRu => ⟨.gen, 0xC2, .a, .w 1 false true, .val, .val, [.push]⟩
  | .faddRd => ⟨.gen, 0xC3, .a, .w 1 false true, .val, .val, [.push]⟩
  | .fsub => ⟨.gen, 0xC4, .a, .w 1 false true, .val, .val, [.push]⟩
  | .fsubRz => ⟨.gen, 0xC5, .a, .w 1 false true, .val, .val, [.push]⟩
  | .fsubRu => ⟨.gen, 0xC6, .a, .w 1 false true, .val, .val, [.push]⟩
  | .fsubRd => ⟨.gen, 0xC7, .a, .w 1 false true, .val, .val, [.push]⟩
  | .fmul => ⟨.gen, 0xC8, .a, .w 1 false true, .val, .val, [.push]⟩
  | .fmulRz => ⟨.gen, 0xC9, .a, .w 1 false true, .val, .val, [.push]⟩
  | .fmulRu => ⟨.gen, 0xCA, .a, .w 1 false true, .val, .val, [.push]⟩
  | .fmulRd => ⟨.gen, 0xCB, .a, .w 1 false true, .val, .val, [.push]⟩
  | .ffma => ⟨.gen, 0xCC, .a, .w 1 true true, .val, .val, [.push]⟩
  | .ffmaRz => ⟨.gen, 0xCD, .a, .w 1 true true, .val, .val, [.push]⟩
  | .ffmaRu => ⟨.gen, 0xCE, .a, .w 1 true true, .val, .val, [.push]⟩
  | .ffmaRd => ⟨.gen, 0xCF, .a, .w 1 true true, .val, .val, [.push]⟩
  | .fmin => ⟨.gen, 0xD0, .a, .w 1 false true, .val, .val, [.push]⟩
  | .fmax => ⟨.gen, 0xD1, .a, .w 1 false true, .val, .val, [.push]⟩
  | .fminnum => ⟨.gen, 0xD2, .a, .w 1 false true, .val, .val, [.push]⟩
  | .fmaxnum => ⟨.gen, 0xD3, .a, .w 1 false true, .val, .val, [.push]⟩
  | .fcmpEq => ⟨.gen, 0xD4, .a, .p, .val, .val, [.push]⟩
  | .fcmpLt => ⟨.gen, 0xD5, .a, .p, .val, .val, [.push]⟩
  | .fcmpLe => ⟨.gen, 0xD6, .a, .p, .val, .val, [.push]⟩
  | .fcmpUn => ⟨.gen, 0xD7, .a, .p, .val, .val, [.push]⟩
  | .hadd2 => ⟨.gen, 0xD8, .a, .w 1 false true, .val, .val, [.push]⟩
  | .hsub2 => ⟨.gen, 0xD9, .a, .w 1 false true, .val, .val, [.push]⟩
  | .hmul2 => ⟨.gen, 0xDA, .a, .w 1 false true, .val, .val, [.push]⟩
  | .hfma2 => ⟨.gen, 0xDB, .a, .w 1 true true, .val, .val, [.push]⟩
  | .fabs => ⟨.gen, 0xDC, .a, .w 1 false true, .val, .none, [.push]⟩
  | .fneg => ⟨.gen, 0xDD, .a, .w 1 false true, .val, .none, [.push]⟩
  | .fcpsgn => ⟨.gen, 0xDE, .a, .w 1 false true, .val, .val, [.push]⟩
  | .fclass => ⟨.gen, 0xDF, .a, .w 1 false true, .val, .none, [.push]⟩
  | .cvtBf16F32 => ⟨.gen, 0xE0, .a, .w 1 false true, .val, .none, [.push]⟩
  | .cvtBf16F32Sr => ⟨.gen, 0xE1, .a, .w 1 false true, .val, .none, [.coll, .push, .noPair]⟩
  | .cvtF32Bf16 => ⟨.gen, 0xE2, .a, .w 1 false true, .val, .val, [.push]⟩
  | .cvtF32I32 => ⟨.gen, 0xE3, .a, .w 1 false true, .val, .none, [.push]⟩
  | .cvtI32F32RzSat => ⟨.gen, 0xE4, .a, .w 1 false true, .val, .none, [.push]⟩
  | .cvtI32F32Sat => ⟨.gen, 0xE5, .a, .w 1 false true, .val, .none, [.push]⟩
  | .cvtF32N32 => ⟨.gen, 0xE6, .a, .w 1 false true, .val, .none, [.push]⟩
  | .cvtN32F32RzSat => ⟨.gen, 0xE7, .a, .w 1 false true, .val, .none, [.push]⟩
  | .cvtE4m3 => ⟨.gen, 0xE8, .a, .w 1 true true, .val, .val, [.push]⟩
  | .cvtE4m3Sr => ⟨.gen, 0xE9, .a, .w 1 true true, .val, .val, [.coll, .push, .noPair]⟩
  | .cvtE5m2 => ⟨.gen, 0xEA, .a, .w 1 true true, .val, .val, [.push]⟩
  | .cvtE5m2Sr => ⟨.gen, 0xEB, .a, .w 1 true true, .val, .val, [.coll, .push, .noPair]⟩
  | .cvtF32E4m3 => ⟨.gen, 0xEC, .a, .w 1 false true, .val, .val, [.push]⟩
  | .cvtF32E5m2 => ⟨.gen, 0xED, .a, .w 1 false true, .val, .val, [.push]⟩
  | .pack2 => ⟨.gen, 0xEE, .a, .w 1 false true, .val, .val, [.push]⟩
  | .ld16 => ⟨.mem, 0x00, .m, .w 1 false true, .pair, .none, [.long, .tile]⟩
  | .ld32 => ⟨.mem, 0x01, .m, .w 1 false true, .pair, .none, [.long, .tile]⟩
  | .ld64 => ⟨.mem, 0x02, .m, .w 2 false true, .pair, .none, [.long, .tile]⟩
  | .ld128 => ⟨.mem, 0x03, .m, .w 4 false true, .pair, .none, [.long, .tile]⟩
  | .ld16S => ⟨.mem, 0x04, .m, .w 1 false true, .pair, .none, [.long, .tile]⟩
  | .ldb => ⟨.mem, 0x05, .m, .w 1 false true, .pair, .none, [.long, .tile]⟩
  | .ldbs => ⟨.mem, 0x06, .m, .w 1 false true, .pair, .none, [.long, .tile]⟩
  | .st8 => ⟨.mem, 0x08, .m, .w 1 true false, .pair, .none, [.tile]⟩
  | .st16 => ⟨.mem, 0x09, .m, .w 1 true false, .pair, .none, [.tile]⟩
  | .st32 => ⟨.mem, 0x0A, .m, .w 1 true false, .pair, .none, [.tile]⟩
  | .st64 => ⟨.mem, 0x0B, .m, .w 2 true false, .pair, .none, [.tile]⟩
  | .st128 => ⟨.mem, 0x0C, .m, .w 4 true false, .pair, .none, [.tile]⟩
  | .ldeF32 => ⟨.mem, 0x10, .a, .w 1 false true, .pair, .val, [.long]⟩
  | .ldeBf16x2 => ⟨.mem, 0x11, .a, .w 1 false true, .pair, .val, [.long]⟩
  | .ldexp => ⟨.mem, 0x12, .a, .w 1 false true, .pair, .val, [.long]⟩
  | .steF32 => ⟨.mem, 0x14, .a, .w 1 true false, .pair, .val, [.coll, .noPair]⟩
  | .steBf16x2 => ⟨.mem, 0x15, .a, .w 1 true false, .pair, .val, [.coll, .noPair]⟩
  | .lds32 => ⟨.mem, 0x18, .m, .w 1 false true, .val, .none, [.long, .tile]⟩
  | .lds64 => ⟨.mem, 0x19, .m, .w 2 false true, .val, .none, [.long, .tile]⟩
  | .lds128 => ⟨.mem, 0x1A, .m, .w 4 false true, .val, .none, [.long, .tile]⟩
  | .lds16 => ⟨.mem, 0x1B, .m, .w 1 false true, .val, .none, [.long, .tile]⟩
  | .sts32 => ⟨.mem, 0x1C, .m, .w 1 true false, .val, .none, [.tile]⟩
  | .sts64 => ⟨.mem, 0x1D, .m, .w 2 true false, .val, .none, [.tile]⟩
  | .sts128 => ⟨.mem, 0x1E, .m, .w 4 true false, .val, .none, [.tile]⟩
  | .sts16 => ⟨.mem, 0x1F, .m, .w 1 true false, .val, .none, [.tile]⟩
  | .ldc32 => ⟨.mem, 0x20, .m, .w 1 false true, .val, .none, [.long]⟩
  | .stc32 => ⟨.mem, 0x21, .m, .w 1 true false, .val, .none, []⟩
  | .gjoin => ⟨.mem, 0x22, .a, .p, .val, .val, [.long, .fixing]⟩
  | .gleave => ⟨.mem, 0x23, .a, .none, .val, .none, [.fixing]⟩
  | .silowait => ⟨.mem, 0x24, .a, .none, .pair, .val, []⟩
  | .silost => ⟨.mem, 0x25, .a, .w 1 false true, .pair, .none, [.long]⟩
  | .pref => ⟨.mem, 0x28, .m, .none, .pair, .none, []⟩
  | .spill => ⟨.mem, 0x2A, .m, .w 4 true false, .val, .none, []⟩
  | .fill => ⟨.mem, 0x2B, .m, .w 4 false true, .val, .none, [.long]⟩
  | .eput => ⟨.mem, 0x2C, .a, .stage, .pair, .none, [.tile]⟩
  | .ego => ⟨.mem, 0x2D, .a, .w 2 false true, .none, .none, [.long, .fixing, .tile]⟩
  | .epoll => ⟨.mem, 0x2E, .a, .w 1 false true, .pair, .none, [.long]⟩
  | .alloc => ⟨.mem, 0x30, .a, .w 2 false true, .val, .none, [.long, .coll, .noPair]⟩
  | .free => ⟨.mem, 0x31, .a, .none, .pair, .none, [.coll, .noPair]⟩
  | .atomAdd => ⟨.mem, 0x40, .m, .w 1 true true, .pair, .none, [.long, .fixing]⟩
  | .atomMaxI => ⟨.mem, 0x41, .m, .w 1 true true, .pair, .none, [.long, .fixing]⟩
  | .atomMinI => ⟨.mem, 0x42, .m, .w 1 true true, .pair, .none, [.long, .fixing]⟩
  | .atomExch => ⟨.mem, 0x43, .m, .w 1 true true, .pair, .none, [.long, .fixing]⟩
  | .atomCas => ⟨.mem, 0x44, .m, .w 2 true true, .pair, .none, [.long, .fixing]⟩
  | .atomOr => ⟨.mem, 0x45, .m, .w 1 true true, .pair, .none, [.long, .fixing]⟩
  | .atomAnd => ⟨.mem, 0x46, .m, .w 1 true true, .pair, .none, [.long, .fixing]⟩
  | .atomFadd2 => ⟨.mem, 0x47, .m, .w 1 true true, .pair, .none, [.long, .fixing]⟩
  | .atomAdd64 => ⟨.mem, 0x48, .m, .w 2 true true, .pair, .none, [.long, .fixing]⟩
  | .atomCas64 => ⟨.mem, 0x49, .m, .w 4 true true, .pair, .none, [.long, .fixing]⟩
  | .atomExch64 => ⟨.mem, 0x4A, .m, .w 2 true true, .pair, .none, [.long, .fixing]⟩
  | .redxF => ⟨.mem, 0x4C, .m, .w 1 true false, .pair, .none, []⟩
  | .redxI => ⟨.mem, 0x4D, .m, .w 1 true false, .pair, .none, []⟩
  | .binrd => ⟨.mem, 0x4E, .m, .w 2 false true, .pair, .none, [.long]⟩
  | .binclr => ⟨.mem, 0x4F, .m, .none, .pair, .none, []⟩
  | .bind => ⟨.mem, 0x50, .a, .p, .pair, .w3, [.long, .fixing]⟩
  | .acqX => ⟨.mem, 0x51, .a, .none, .pair, .none, [.fixing]⟩
  | .acqS => ⟨.mem, 0x52, .a, .none, .pair, .none, [.fixing]⟩
  | .rel => ⟨.mem, 0x53, .a, .none, .pair, .none, []⟩
  | .acqtryX => ⟨.mem, 0x54, .a, .p, .pair, .none, [.long, .fixing]⟩
  | .unbind => ⟨.mem, 0x55, .a, .none, .pair, .none, [.fixing]⟩
  | .fence => ⟨.mem, 0x56, .a, .none, .val, .none, []⟩
  | .bar => ⟨.mem, 0x58, .a, .none, .val, .none, [.noPair]⟩
  | .arrive => ⟨.mem, 0x59, .a, .w 1 false true, .val, .none, [.long, .noPair]⟩
  | .arriveDrop => ⟨.mem, 0x5A, .a, .w 1 false true, .val, .none, [.long, .noPair]⟩
  | .arriveJoin => ⟨.mem, 0x5B, .a, .w 1 false true, .val, .none, [.long, .noPair]⟩
  | .barwait => ⟨.mem, 0x5C, .a, .none, .val, .val, [.noPair]⟩
  | .bartest => ⟨.mem, 0x5D, .a, .p, .val, .val, [.long, .noPair]⟩
  | .gbar => ⟨.mem, 0x5E, .a, .none, .none, .none, [.noPair]⟩
  | .swarm => ⟨.mem, 0x60, .a, .w 1 false true, .val, .val, [.long]⟩
  | .swwait => ⟨.mem, 0x61, .a, .none, .val, .val, []⟩
  | .swtest => ⟨.mem, 0x62, .a, .p, .val, .val, [.long]⟩
  | .tlwait => ⟨.mem, 0x64, .a, .none, .pair, .val, []⟩
  | .tlread => ⟨.mem, 0x65, .a, .w 2 false true, .none, .val, [.long]⟩
  | .tltest => ⟨.mem, 0x66, .a, .p, .pair, .val, [.long]⟩
  | .pharr => ⟨.mem, 0x68, .a, .none, .val, .none, [.fixing]⟩
  | .phwait => ⟨.mem, 0x69, .a, .none, .none, .none, []⟩
  | .phset => ⟨.mem, 0x6A, .a, .none, .pair, .none, [.fixing]⟩
  | .phstat => ⟨.mem, 0x6B, .a, .w 1 false true, .none, .none, [.long]⟩
  | .plaunch => ⟨.mem, 0x80, .a, .w 2 false true, .pair, .none, [.long, .fixing, .noPair]⟩
  | .pcancel => ⟨.mem, 0x82, .a, .p, .pair, .none, [.long, .fixing]⟩
  | .pi => ⟨.mem, 0x84, .a, .w 1 false true, .none, .none, [.pairOnly]⟩
  | .pj => ⟨.mem, 0x85, .a, .w 1 false true, .none, .none, [.pairOnly]⟩
  | .ptag => ⟨.mem, 0x86, .a, .w 1 false true, .none, .none, [.pairOnly]⟩
  | .pcell => ⟨.mem, 0x87, .a, .w 1 false true, .none, .none, [.pairOnly]⟩
  | .pdx => ⟨.mem, 0x88, .a, .w 1 false true, .none, .none, [.pairOnly]⟩
  | .pdy => ⟨.mem, 0x89, .a, .w 1 false true, .none, .none, [.pairOnly]⟩
  | .pdz => ⟨.mem, 0x8A, .a, .w 1 false true, .none, .none, [.pairOnly]⟩
  | .pdsq => ⟨.mem, 0x8B, .a, .w 1 false true, .none, .none, [.pairOnly]⟩
  | .preci => ⟨.mem, 0x8C, .a, .w 1 false true, .val, .none, [.long, .pairOnly]⟩
  | .precj => ⟨.mem, 0x8D, .a, .w 1 false true, .val, .none, [.long, .pairOnly]⟩
  | .preci2 => ⟨.mem, 0x8E, .a, .w 2 false true, .val, .none, [.long, .pairOnly]⟩
  | .precj2 => ⟨.mem, 0x8F, .a, .w 2 false true, .val, .none, [.long, .pairOnly]⟩
  | .pconOpp => ⟨.mem, 0x90, .a, .none, .val, .val, [.pairOnly]⟩
  | .pconSym => ⟨.mem, 0x91, .a, .none, .val, .val, [.pairOnly]⟩
  | .pconI => ⟨.mem, 0x92, .a, .none, .val, .val, [.pairOnly]⟩
  | .pconJ => ⟨.mem, 0x93, .a, .none, .val, .val, [.pairOnly]⟩
  | .pdrop => ⟨.mem, 0x94, .a, .none, .none, .none, [.pairOnly]⟩
  | .pkq => ⟨.mem, 0xA0, .a, .w 2 false true, .pair, .none, [.long, .fixing]⟩
  | .pkg => ⟨.mem, 0xA1, .a, .w 2 false true, .pair, .none, [.long, .fixing]⟩
  | .pkstat => ⟨.mem, 0xA2, .a, .w 1 false true, .pair, .none, [.long]⟩
  | .frcp => ⟨.xu, 0x00, .a, .w 1 false true, .val, .none, [.long]⟩
  | .frsq => ⟨.xu, 0x01, .a, .w 1 false true, .val, .none, [.long]⟩
  | .fsqrt => ⟨.xu, 0x02, .a, .w 1 false true, .val, .none, [.long]⟩
  | .fdiv => ⟨.xu, 0x03, .a, .w 1 false true, .val, .val, [.long]⟩
  | .fexp2 => ⟨.xu, 0x04, .a, .w 1 false true, .val, .none, [.long]⟩
  | .flog2 => ⟨.xu, 0x05, .a, .w 1 false true, .val, .none, [.long]⟩
  | .fexp => ⟨.xu, 0x06, .a, .w 1 false true, .val, .none, [.long]⟩
  | .ftanh => ⟨.xu, 0x07, .a, .w 1 false true, .val, .none, [.long]⟩
  | .fsin => ⟨.xu, 0x08, .a, .w 1 false true, .val, .none, [.long]⟩
  | .fcos => ⟨.xu, 0x09, .a, .w 1 false true, .val, .none, [.long]⟩
  | .fsincos => ⟨.xu, 0x0A, .a, .w 2 false true, .val, .none, [.long]⟩
  | .qclr => ⟨.xu, 0x0C, .a, .q, .none, .none, [.long]⟩
  | .qaddf => ⟨.xu, 0x0D, .a, .q, .val, .none, [.long]⟩
  | .qdot2 => ⟨.xu, 0x0E, .a, .q, .val, .val, [.long]⟩
  | .qsubf => ⟨.xu, 0x0F, .a, .q, .val, .none, [.long]⟩
  | .qrnd => ⟨.xu, 0x10, .a, .w 1 false true, .q, .none, [.long]⟩
  | .qrndh => ⟨.xu, 0x11, .a, .w 1 false true, .q, .none, [.long]⟩
  | .qwin => ⟨.xu, 0x12, .a, .q, .val, .none, [.long]⟩
  | .qred => ⟨.xu, 0x13, .a, .q, .none, .none, [.long, .coll, .noPair]⟩
  | .swap1 => ⟨.xu, 0x14, .a, .w 1 false true, .val, .none, [.coll, .noPair]⟩
  | .shfl => ⟨.xu, 0x15, .a, .w 1 false true, .val, .val, [.long, .coll, .noPair]⟩
  | .shflx => ⟨.xu, 0x16, .a, .w 1 false true, .val, .val, [.long, .coll, .noPair]⟩
  | .scan => ⟨.xu, 0x17, .a, .w 1 false true, .val, .none, [.long, .coll, .noPair]⟩
  | .rankf => ⟨.xu, 0x18, .a, .w 1 false true, .val, .none, [.long, .coll, .noPair]⟩
  | .ranki => ⟨.xu, 0x19, .a, .w 1 false true, .val, .none, [.long, .coll, .noPair]⟩
  | .maxw => ⟨.xu, 0x1A, .a, .w 1 false true, .val, .none, [.long, .coll, .noPair]⟩
  | .minw => ⟨.xu, 0x1B, .a, .w 1 false true, .val, .none, [.long, .coll, .noPair]⟩
  | .rnd32 => ⟨.xu, 0x1C, .a, .w 1 false true, .val, .val, [.long]⟩
  | .rndf => ⟨.xu, 0x1D, .a, .w 1 false true, .val, .val, [.long]⟩
  | .qsave => ⟨.xu, 0x20, .a, .w 4 false true, .q, .none, [.long]⟩
  | .qload => ⟨.xu, 0x21, .a, .q, .w4, .none, [.long]⟩
  | .qscan => ⟨.xu, 0x22, .a, .q, .none, .none, [.long, .coll, .noPair]⟩
  | .trap => ⟨.sys, 0x00, .w, .none, .none, .none, [.tile]⟩
  | .fwait => ⟨.sys, 0x04, .a, .w 2 false true, .pair, .val, [.long, .priv]⟩
  | .sysr => ⟨.sys, 0x08, .a, .w 1 false true, .val, .none, [.long]⟩
  | .sysw => ⟨.sys, 0x09, .a, .none, .val, .val, [.fixing]⟩
  | .sysset => ⟨.sys, 0x0A, .a, .none, .val, .val, [.fixing]⟩
  | .sysclr => ⟨.sys, 0x0B, .a, .none, .val, .val, [.fixing]⟩
  | .commit => ⟨.sys, 0x0C, .a, .none, .none, .none, [.noPair]⟩
  | .prot => ⟨.sys, 0x0D, .a, .w 1 false true, .none, .none, [.long]⟩
  | .fork => ⟨.sys, 0x10, .a, .w 2 false true, .pair, .val, [.long, .fixing, .noPair]⟩
  | .rdv => ⟨.sys, 0x11, .a, .w 2 false true, .pair, .none, [.long, .noPair]⟩
  | .forkstat => ⟨.sys, 0x12, .a, .w 1 false true, .pair, .none, [.long, .noPair]⟩
  | .spawn => ⟨.sys, 0x14, .a, .none, .pair, .none, [.fixing, .noPair]⟩
  | .spawni => ⟨.sys, 0x15, .a, .none, .pair, .w4, [.fixing, .noPair]⟩
  | .launch => ⟨.sys, 0x17, .a, .w 2 false true, .pair, .none, [.long, .fixing, .noPair]⟩
  | .msgsend => ⟨.sys, 0x18, .a, .w 2 false true, .pair, .none, [.long, .fixing, .noPair]⟩
  | .msgrem => ⟨.sys, 0x19, .a, .w 2 false true, .pair, .none, [.long, .fixing, .noPair]⟩
  | .clk => ⟨.sys, 0x1C, .a, .w 2 false true, .none, .none, [.long, .tile]⟩
  | .waitev => ⟨.sys, 0x20, .a, .w 1 false true, .none, .val, [.long]⟩
  | .brk => ⟨.sys, 0x21, .a, .none, .none, .none, [.tile]⟩
  | .cancel => ⟨.sys, 0x24, .a, .p, .pair, .val, [.long, .fixing]⟩
  | .countr => ⟨.sys, 0x25, .a, .w 2 false true, .pair, .val, [.long]⟩
  | .frpt => ⟨.sys, 0x28, .a, .w 1 false true, .pair, .val, [.long, .priv]⟩
  | .freplay => ⟨.sys, 0x29, .a, .p, .pair, .none, [.long, .priv]⟩
  | .fresume => ⟨.sys, 0x2A, .a, .p, .pair, .none, [.long, .priv]⟩
  | .fkill => ⟨.sys, 0x2B, .a, .p, .pair, .none, [.long, .priv]⟩
  | .ptew => ⟨.sys, 0x2C, .a, .p, .pair, .wpair, [.long, .priv]⟩
  | .tlbinv => ⟨.sys, 0x2D, .a, .none, .pair, .val, [.priv]⟩
  | .mwin => ⟨.mat, 0x00, .a, .mat 0x1F, .val, .none, [.tile]⟩
  | .mzero => ⟨.mat, 0x01, .a, .mat 0x1F, .none, .none, [.tile]⟩
  | .msave => ⟨.mat, 0x02, .a, .mat 0x1F, .k2, .none, [.tile]⟩
  | .mrst => ⟨.mat, 0x03, .a, .mat 0x1F, .k2, .none, [.tile]⟩
  | .mma => ⟨.mat, 0x04, .a, .mat 0x7F, .kop, .kop, [.tile]⟩
  | .mmaTri => ⟨.mat, 0x05, .a, .mat 0x7F, .kop, .kop, [.tile]⟩
  | .medge => ⟨.mat, 0x06, .a, .mat 0x18, .val, .val, [.tile]⟩
  | .mfmt => ⟨.mat, 0x07, .a, .mat 0x18, .val, .val, [.tile]⟩
  | .mdrain => ⟨.mat, 0x08, .a, .mat 0x1F, .k2, .none, [.tile]⟩
  | .mdrainh => ⟨.mat, 0x09, .a, .mat 0x1F, .k2, .none, [.tile]⟩
  | .mdrainb => ⟨.mat, 0x0A, .a, .mat 0x1F, .k2, .none, [.tile]⟩
  | .msync => ⟨.mat, 0x0C, .a, .mat 0, .none, .none, [.tile]⟩
  | .mbar => ⟨.mat, 0x0D, .a, .mat 0x18, .val, .none, [.tile]⟩
  | .mwaitb => ⟨.mat, 0x0E, .a, .mat 0x18, .val, .val, [.tile]⟩

/-- The GEN cells of the opcode map, by OP6 and FN together (word bits [31:24]). -/
def genRow : Nat → Option Op
  | 0x00 => some .iadd
  | 0x01 => some .iaddSatI
  | 0x02 => some .iaddSatN
  | 0x04 => some .isub
  | 0x05 => some .isubSatI
  | 0x06 => some .isubSatN
  | 0x08 => some .imul
  | 0x09 => some .imulHiI
  | 0x0A => some .imulHiN
  | 0x0C => some .imad
  | 0x10 => some .iminI
  | 0x11 => some .iminN
  | 0x12 => some .imaxI
  | 0x13 => some .imaxN
  | 0x14 => some .and
  | 0x15 => some .or
  | 0x16 => some .xor
  | 0x17 => some .andn
  | 0x18 => some .shl
  | 0x19 => some .shr
  | 0x1A => some .sar
  | 0x1B => some .rol
  | 0x1C => some .popc
  | 0x1D => some .clz
  | 0x1E => some .brev
  | 0x1F => some .ctz
  | 0x20 => some .bfxN
  | 0x21 => some .bfxI
  | 0x22 => some .bfi
  | 0x24 => some .icmpEq
  | 0x25 => some .icmpNe
  | 0x26 => some .icmpLtI
  | 0x27 => some .icmpLtN
  | 0x28 => some .icmpLeI
  | 0x29 => some .icmpLeN
  | 0x2A => some .icmpTst
  | 0x2C => some .sel0
  | 0x2D => some .sel1
  | 0x2E => some .sel2
  | 0x2F => some .sel3
  | 0x30 => some .mov
  | 0x31 => some .xrd
  | 0x32 => some .xwr
  | 0x33 => some .xset
  | 0x34 => some .pand
  | 0x35 => some .por
  | 0x36 => some .pxor
  | 0x37 => some .pnot
  | 0x38 => some .smov
  | 0x39 => some .sadd
  | 0x3A => some .sand
  | 0x3B => some .sshl
  | 0x3C => some .adda
  | 0x3D => some .addaX4
  | 0x3E => some .addaX16
  | 0x3F => some .suba
  | 0x40 => some .rdl
  | 0x80 => some .br
  | 0x81 => some .brIfP
  | 0x82 => some .brIfNotP
  | 0x84 => some .call
  | 0x85 => some .callIndirect
  | 0x88 => some .ret
  | 0x8C => some .switch
  | 0x90 => some .voteAny
  | 0x91 => some .voteAll
  | 0x92 => some .voteBallot
  | 0x93 => some .voteCnt
  | 0x94 => some .exit
  | 0x95 => some .yield
  | 0x98 => some .nop
  | 0xA0 => some .tryMark
  | 0xA4 => some .fail
  | 0xA5 => some .failIfP
  | 0xA6 => some .failIfNotP
  | 0xA8 => some .cut
  | 0xA9 => some .cutall
  | 0xAA => some .depth
  | 0xAB => some .alts
  | 0xAC => some .sbegin
  | 0xAD => some .send
  | 0xAE => some .glean
  | 0xC0 => some .fadd
  | 0xC1 => some .faddRz
  | 0xC2 => some .faddRu
  | 0xC3 => some .faddRd
  | 0xC4 => some .fsub
  | 0xC5 => some .fsubRz
  | 0xC6 => some .fsubRu
  | 0xC7 => some .fsubRd
  | 0xC8 => some .fmul
  | 0xC9 => some .fmulRz
  | 0xCA => some .fmulRu
  | 0xCB => some .fmulRd
  | 0xCC => some .ffma
  | 0xCD => some .ffmaRz
  | 0xCE => some .ffmaRu
  | 0xCF => some .ffmaRd
  | 0xD0 => some .fmin
  | 0xD1 => some .fmax
  | 0xD2 => some .fminnum
  | 0xD3 => some .fmaxnum
  | 0xD4 => some .fcmpEq
  | 0xD5 => some .fcmpLt
  | 0xD6 => some .fcmpLe
  | 0xD7 => some .fcmpUn
  | 0xD8 => some .hadd2
  | 0xD9 => some .hsub2
  | 0xDA => some .hmul2
  | 0xDB => some .hfma2
  | 0xDC => some .fabs
  | 0xDD => some .fneg
  | 0xDE => some .fcpsgn
  | 0xDF => some .fclass
  | 0xE0 => some .cvtBf16F32
  | 0xE1 => some .cvtBf16F32Sr
  | 0xE2 => some .cvtF32Bf16
  | 0xE3 => some .cvtF32I32
  | 0xE4 => some .cvtI32F32RzSat
  | 0xE5 => some .cvtI32F32Sat
  | 0xE6 => some .cvtF32N32
  | 0xE7 => some .cvtN32F32RzSat
  | 0xE8 => some .cvtE4m3
  | 0xE9 => some .cvtE4m3Sr
  | 0xEA => some .cvtE5m2
  | 0xEB => some .cvtE5m2Sr
  | 0xEC => some .cvtF32E4m3
  | 0xED => some .cvtF32E5m2
  | 0xEE => some .pack2
  | _ => none

/-- The MEM cells of the opcode map, by OP6 and FN together (word bits [31:24]). -/
def memRow : Nat → Option Op
  | 0x00 => some .ld16
  | 0x01 => some .ld32
  | 0x02 => some .ld64
  | 0x03 => some .ld128
  | 0x04 => some .ld16S
  | 0x05 => some .ldb
  | 0x06 => some .ldbs
  | 0x08 => some .st8
  | 0x09 => some .st16
  | 0x0A => some .st32
  | 0x0B => some .st64
  | 0x0C => some .st128
  | 0x10 => some .ldeF32
  | 0x11 => some .ldeBf16x2
  | 0x12 => some .ldexp
  | 0x14 => some .steF32
  | 0x15 => some .steBf16x2
  | 0x18 => some .lds32
  | 0x19 => some .lds64
  | 0x1A => some .lds128
  | 0x1B => some .lds16
  | 0x1C => some .sts32
  | 0x1D => some .sts64
  | 0x1E => some .sts128
  | 0x1F => some .sts16
  | 0x20 => some .ldc32
  | 0x21 => some .stc32
  | 0x22 => some .gjoin
  | 0x23 => some .gleave
  | 0x24 => some .silowait
  | 0x25 => some .silost
  | 0x28 => some .pref
  | 0x2A => some .spill
  | 0x2B => some .fill
  | 0x2C => some .eput
  | 0x2D => some .ego
  | 0x2E => some .epoll
  | 0x30 => some .alloc
  | 0x31 => some .free
  | 0x40 => some .atomAdd
  | 0x41 => some .atomMaxI
  | 0x42 => some .atomMinI
  | 0x43 => some .atomExch
  | 0x44 => some .atomCas
  | 0x45 => some .atomOr
  | 0x46 => some .atomAnd
  | 0x47 => some .atomFadd2
  | 0x48 => some .atomAdd64
  | 0x49 => some .atomCas64
  | 0x4A => some .atomExch64
  | 0x4C => some .redxF
  | 0x4D => some .redxI
  | 0x4E => some .binrd
  | 0x4F => some .binclr
  | 0x50 => some .bind
  | 0x51 => some .acqX
  | 0x52 => some .acqS
  | 0x53 => some .rel
  | 0x54 => some .acqtryX
  | 0x55 => some .unbind
  | 0x56 => some .fence
  | 0x58 => some .bar
  | 0x59 => some .arrive
  | 0x5A => some .arriveDrop
  | 0x5B => some .arriveJoin
  | 0x5C => some .barwait
  | 0x5D => some .bartest
  | 0x5E => some .gbar
  | 0x60 => some .swarm
  | 0x61 => some .swwait
  | 0x62 => some .swtest
  | 0x64 => some .tlwait
  | 0x65 => some .tlread
  | 0x66 => some .tltest
  | 0x68 => some .pharr
  | 0x69 => some .phwait
  | 0x6A => some .phset
  | 0x6B => some .phstat
  | 0x80 => some .plaunch
  | 0x82 => some .pcancel
  | 0x84 => some .pi
  | 0x85 => some .pj
  | 0x86 => some .ptag
  | 0x87 => some .pcell
  | 0x88 => some .pdx
  | 0x89 => some .pdy
  | 0x8A => some .pdz
  | 0x8B => some .pdsq
  | 0x8C => some .preci
  | 0x8D => some .precj
  | 0x8E => some .preci2
  | 0x8F => some .precj2
  | 0x90 => some .pconOpp
  | 0x91 => some .pconSym
  | 0x92 => some .pconI
  | 0x93 => some .pconJ
  | 0x94 => some .pdrop
  | 0xA0 => some .pkq
  | 0xA1 => some .pkg
  | 0xA2 => some .pkstat
  | _ => none

/-- The XU cells of the opcode map, by OP6 and FN together (word bits [31:24]). -/
def xuRow : Nat → Option Op
  | 0x00 => some .frcp
  | 0x01 => some .frsq
  | 0x02 => some .fsqrt
  | 0x03 => some .fdiv
  | 0x04 => some .fexp2
  | 0x05 => some .flog2
  | 0x06 => some .fexp
  | 0x07 => some .ftanh
  | 0x08 => some .fsin
  | 0x09 => some .fcos
  | 0x0A => some .fsincos
  | 0x0C => some .qclr
  | 0x0D => some .qaddf
  | 0x0E => some .qdot2
  | 0x0F => some .qsubf
  | 0x10 => some .qrnd
  | 0x11 => some .qrndh
  | 0x12 => some .qwin
  | 0x13 => some .qred
  | 0x14 => some .swap1
  | 0x15 => some .shfl
  | 0x16 => some .shflx
  | 0x17 => some .scan
  | 0x18 => some .rankf
  | 0x19 => some .ranki
  | 0x1A => some .maxw
  | 0x1B => some .minw
  | 0x1C => some .rnd32
  | 0x1D => some .rndf
  | 0x20 => some .qsave
  | 0x21 => some .qload
  | 0x22 => some .qscan
  | _ => none

/-- The SYS cells of the opcode map, by OP6 and FN together (word bits [31:24]). -/
def sysRow : Nat → Option Op
  | 0x00 => some .trap
  | 0x04 => some .fwait
  | 0x08 => some .sysr
  | 0x09 => some .sysw
  | 0x0A => some .sysset
  | 0x0B => some .sysclr
  | 0x0C => some .commit
  | 0x0D => some .prot
  | 0x10 => some .fork
  | 0x11 => some .rdv
  | 0x12 => some .forkstat
  | 0x14 => some .spawn
  | 0x15 => some .spawni
  | 0x17 => some .launch
  | 0x18 => some .msgsend
  | 0x19 => some .msgrem
  | 0x1C => some .clk
  | 0x20 => some .waitev
  | 0x21 => some .brk
  | 0x24 => some .cancel
  | 0x25 => some .countr
  | 0x28 => some .frpt
  | 0x29 => some .freplay
  | 0x2A => some .fresume
  | 0x2B => some .fkill
  | 0x2C => some .ptew
  | 0x2D => some .tlbinv
  | _ => none

/-- The MAT cells of the opcode map, by OP6 and FN together (word bits [31:24]). -/
def matRow : Nat → Option Op
  | 0x00 => some .mwin
  | 0x01 => some .mzero
  | 0x02 => some .msave
  | 0x03 => some .mrst
  | 0x04 => some .mma
  | 0x05 => some .mmaTri
  | 0x06 => some .medge
  | 0x07 => some .mfmt
  | 0x08 => some .mdrain
  | 0x09 => some .mdrainh
  | 0x0A => some .mdrainb
  | 0x0C => some .msync
  | 0x0D => some .mbar
  | 0x0E => some .mwaitb
  | _ => none

/-- How an instruction is made from the fields of its word. -/
inductive Maker where
  | a (f : FmtA → Instr)
  | c (f : FmtC → Instr)
  | m (f : FmtM → Instr)
  | t (f : FmtT → Instr)
  | w (f : BitVec 24 → Instr)
  | sw (f : FmtSwitch → Instr)
  | sb (f : FmtSbegin → Instr)

/-- The instruction of an operation. (Lean's code generator builds no constructor beyond the 244th, so this one definition and those that
call it are marked noncomputable; the kernel evaluates them.) -/
noncomputable def Op.maker : Op → Maker
  | .iadd => .a .iadd
  | .iaddSatI => .a .iaddSatI
  | .iaddSatN => .a .iaddSatN
  | .isub => .a .isub
  | .isubSatI => .a .isubSatI
  | .isubSatN => .a .isubSatN
  | .imul => .a .imul
  | .imulHiI => .a .imulHiI
  | .imulHiN => .a .imulHiN
  | .imad => .a .imad
  | .iminI => .a .iminI
  | .iminN => .a .iminN
  | .imaxI => .a .imaxI
  | .imaxN => .a .imaxN
  | .and => .a .and
  | .or => .a .or
  | .xor => .a .xor
  | .andn => .a .andn
  | .shl => .a .shl
  | .shr => .a .shr
  | .sar => .a .sar
  | .rol => .a .rol
  | .popc => .a .popc
  | .clz => .a .clz
  | .brev => .a .brev
  | .ctz => .a .ctz
  | .bfxN => .a .bfxN
  | .bfxI => .a .bfxI
  | .bfi => .a .bfi
  | .icmpEq => .a .icmpEq
  | .icmpNe => .a .icmpNe
  | .icmpLtI => .a .icmpLtI
  | .icmpLtN => .a .icmpLtN
  | .icmpLeI => .a .icmpLeI
  | .icmpLeN => .a .icmpLeN
  | .icmpTst => .a .icmpTst
  | .sel0 => .a (.sel 0)
  | .sel1 => .a (.sel 1)
  | .sel2 => .a (.sel 2)
  | .sel3 => .a (.sel 3)
  | .mov => .a .mov
  | .xrd => .a .xrd
  | .xwr => .a .xwr
  | .xset => .a .xset
  | .pand => .a .pand
  | .por => .a .por
  | .pxor => .a .pxor
  | .pnot => .a .pnot
  | .smov => .a .smov
  | .sadd => .a .sadd
  | .sand => .a .sand
  | .sshl => .a .sshl
  | .adda => .a .adda
  | .addaX4 => .a .addaX4
  | .addaX16 => .a .addaX16
  | .suba => .a .suba
  | .rdl => .a .rdl
  | .br => .c .br
  | .brIfP => .c .brIfP
  | .brIfNotP => .c .brIfNotP
  | .call => .c .call
  | .callIndirect => .a .callIndirect
  | .ret => .a .ret
  | .switch => .sw .switch
  | .voteAny => .a .voteAny
  | .voteAll => .a .voteAll
  | .voteBallot => .a .voteBallot
  | .voteCnt => .a .voteCnt
  | .exit => .a .exit
  | .yield => .a .yield
  | .nop => .a .nop
  | .tryMark => .t .tryMark
  | .fail => .c .fail
  | .failIfP => .c .failIfP
  | .failIfNotP => .c .failIfNotP
  | .cut => .a .cut
  | .cutall => .a .cutall
  | .depth => .a .depth
  | .alts => .a .alts
  | .sbegin => .sb .sbegin
  | .send => .a .send
  | .glean => .c .glean
  | .fadd => .a .fadd
  | .faddRz => .a .faddRz
  | .faddRu => .a .faddRu
  | .faddRd => .a .faddRd
  | .fsub => .a .fsub
  | .fsubRz => .a .fsubRz
  | .fsubRu => .a .fsubRu
  | .fsubRd => .a .fsubRd
  | .fmul => .a .fmul
  | .fmulRz => .a .fmulRz
  | .fmulRu => .a .fmulRu
  | .fmulRd => .a .fmulRd
  | .ffma => .a .ffma
  | .ffmaRz => .a .ffmaRz
  | .ffmaRu => .a .ffmaRu
  | .ffmaRd => .a .ffmaRd
  | .fmin => .a .fmin
  | .fmax => .a .fmax
  | .fminnum => .a .fminnum
  | .fmaxnum => .a .fmaxnum
  | .fcmpEq => .a .fcmpEq
  | .fcmpLt => .a .fcmpLt
  | .fcmpLe => .a .fcmpLe
  | .fcmpUn => .a .fcmpUn
  | .hadd2 => .a .hadd2
  | .hsub2 => .a .hsub2
  | .hmul2 => .a .hmul2
  | .hfma2 => .a .hfma2
  | .fabs => .a .fabs
  | .fneg => .a .fneg
  | .fcpsgn => .a .fcpsgn
  | .fclass => .a .fclass
  | .cvtBf16F32 => .a .cvtBf16F32
  | .cvtBf16F32Sr => .a .cvtBf16F32Sr
  | .cvtF32Bf16 => .a .cvtF32Bf16
  | .cvtF32I32 => .a .cvtF32I32
  | .cvtI32F32RzSat => .a .cvtI32F32RzSat
  | .cvtI32F32Sat => .a .cvtI32F32Sat
  | .cvtF32N32 => .a .cvtF32N32
  | .cvtN32F32RzSat => .a .cvtN32F32RzSat
  | .cvtE4m3 => .a .cvtE4m3
  | .cvtE4m3Sr => .a .cvtE4m3Sr
  | .cvtE5m2 => .a .cvtE5m2
  | .cvtE5m2Sr => .a .cvtE5m2Sr
  | .cvtF32E4m3 => .a .cvtF32E4m3
  | .cvtF32E5m2 => .a .cvtF32E5m2
  | .pack2 => .a .pack2
  | .ld16 => .m .ld16
  | .ld32 => .m .ld32
  | .ld64 => .m .ld64
  | .ld128 => .m .ld128
  | .ld16S => .m .ld16S
  | .ldb => .m .ldb
  | .ldbs => .m .ldbs
  | .st8 => .m .st8
  | .st16 => .m .st16
  | .st32 => .m .st32
  | .st64 => .m .st64
  | .st128 => .m .st128
  | .ldeF32 => .a .ldeF32
  | .ldeBf16x2 => .a .ldeBf16x2
  | .ldexp => .a .ldexp
  | .steF32 => .a .steF32
  | .steBf16x2 => .a .steBf16x2
  | .lds32 => .m .lds32
  | .lds64 => .m .lds64
  | .lds128 => .m .lds128
  | .lds16 => .m .lds16
  | .sts32 => .m .sts32
  | .sts64 => .m .sts64
  | .sts128 => .m .sts128
  | .sts16 => .m .sts16
  | .ldc32 => .m .ldc32
  | .stc32 => .m .stc32
  | .gjoin => .a .gjoin
  | .gleave => .a .gleave
  | .silowait => .a .silowait
  | .silost => .a .silost
  | .pref => .m .pref
  | .spill => .m .spill
  | .fill => .m .fill
  | .eput => .a .eput
  | .ego => .a .ego
  | .epoll => .a .epoll
  | .alloc => .a .alloc
  | .free => .a .free
  | .atomAdd => .m .atomAdd
  | .atomMaxI => .m .atomMaxI
  | .atomMinI => .m .atomMinI
  | .atomExch => .m .atomExch
  | .atomCas => .m .atomCas
  | .atomOr => .m .atomOr
  | .atomAnd => .m .atomAnd
  | .atomFadd2 => .m .atomFadd2
  | .atomAdd64 => .m .atomAdd64
  | .atomCas64 => .m .atomCas64
  | .atomExch64 => .m .atomExch64
  | .redxF => .m .redxF
  | .redxI => .m .redxI
  | .binrd => .m .binrd
  | .binclr => .m .binclr
  | .bind => .a .bind
  | .acqX => .a .acqX
  | .acqS => .a .acqS
  | .rel => .a .rel
  | .acqtryX => .a .acqtryX
  | .unbind => .a .unbind
  | .fence => .a .fence
  | .bar => .a .bar
  | .arrive => .a .arrive
  | .arriveDrop => .a .arriveDrop
  | .arriveJoin => .a .arriveJoin
  | .barwait => .a .barwait
  | .bartest => .a .bartest
  | .gbar => .a .gbar
  | .swarm => .a .swarm
  | .swwait => .a .swwait
  | .swtest => .a .swtest
  | .tlwait => .a .tlwait
  | .tlread => .a .tlread
  | .tltest => .a .tltest
  | .pharr => .a .pharr
  | .phwait => .a .phwait
  | .phset => .a .phset
  | .phstat => .a .phstat
  | .plaunch => .a .plaunch
  | .pcancel => .a .pcancel
  | .pi => .a .pi
  | .pj => .a .pj
  | .ptag => .a .ptag
  | .pcell => .a .pcell
  | .pdx => .a .pdx
  | .pdy => .a .pdy
  | .pdz => .a .pdz
  | .pdsq => .a .pdsq
  | .preci => .a .preci
  | .precj => .a .precj
  | .preci2 => .a .preci2
  | .precj2 => .a .precj2
  | .pconOpp => .a .pconOpp
  | .pconSym => .a .pconSym
  | .pconI => .a .pconI
  | .pconJ => .a .pconJ
  | .pdrop => .a .pdrop
  | .pkq => .a .pkq
  | .pkg => .a .pkg
  | .pkstat => .a .pkstat
  | .frcp => .a .frcp
  | .frsq => .a .frsq
  | .fsqrt => .a .fsqrt
  | .fdiv => .a .fdiv
  | .fexp2 => .a .fexp2
  | .flog2 => .a .flog2
  | .fexp => .a .fexp
  | .ftanh => .a .ftanh
  | .fsin => .a .fsin
  | .fcos => .a .fcos
  | .fsincos => .a .fsincos
  | .qclr => .a .qclr
  | .qaddf => .a .qaddf
  | .qdot2 => .a .qdot2
  | .qsubf => .a .qsubf
  | .qrnd => .a .qrnd
  | .qrndh => .a .qrndh
  | .qwin => .a .qwin
  | .qred => .a .qred
  | .swap1 => .a .swap1
  | .shfl => .a .shfl
  | .shflx => .a .shflx
  | .scan => .a .scan
  | .rankf => .a .rankf
  | .ranki => .a .ranki
  | .maxw => .a .maxw
  | .minw => .a .minw
  | .rnd32 => .a .rnd32
  | .rndf => .a .rndf
  | .qsave => .a .qsave
  | .qload => .a .qload
  | .qscan => .a .qscan
  | .trap => .w .trap
  | .fwait => .a .fwait
  | .sysr => .a .sysr
  | .sysw => .a .sysw
  | .sysset => .a .sysset
  | .sysclr => .a .sysclr
  | .commit => .a .commit
  | .prot => .a .prot
  | .fork => .a .fork
  | .rdv => .a .rdv
  | .forkstat => .a .forkstat
  | .spawn => .a .spawn
  | .spawni => .a .spawni
  | .launch => .a .launch
  | .msgsend => .a .msgsend
  | .msgrem => .a .msgrem
  | .clk => .a .clk
  | .waitev => .a .waitev
  | .brk => .a .brk
  | .cancel => .a .cancel
  | .countr => .a .countr
  | .frpt => .a .frpt
  | .freplay => .a .freplay
  | .fresume => .a .fresume
  | .fkill => .a .fkill
  | .ptew => .a .ptew
  | .tlbinv => .a .tlbinv
  | .mwin => .a .mwin
  | .mzero => .a .mzero
  | .msave => .a .msave
  | .mrst => .a .mrst
  | .mma => .a .mma
  | .mmaTri => .a .mmaTri
  | .medge => .a .medge
  | .mfmt => .a .mfmt
  | .mdrain => .a .mdrain
  | .mdrainh => .a .mdrainh
  | .mdrainb => .a .mdrainb
  | .msync => .a .msync
  | .mbar => .a .mbar
  | .mwaitb => .a .mwaitb

/-- SEL by its FN field (R81). -/
def selOp (fn : BitVec 2) : Op := if fn = 0 then .sel0 else if fn = 1 then .sel1 else if fn = 2 then .sel2 else .sel3

/-- An instruction's operation and fields; an event row has none. -/
def Instr.parts : Instr → Option (Op × Shape)
  | .iadd f => some (.iadd, .a f)
  | .iaddSatI f => some (.iaddSatI, .a f)
  | .iaddSatN f => some (.iaddSatN, .a f)
  | .isub f => some (.isub, .a f)
  | .isubSatI f => some (.isubSatI, .a f)
  | .isubSatN f => some (.isubSatN, .a f)
  | .imul f => some (.imul, .a f)
  | .imulHiI f => some (.imulHiI, .a f)
  | .imulHiN f => some (.imulHiN, .a f)
  | .imad f => some (.imad, .a f)
  | .iminI f => some (.iminI, .a f)
  | .iminN f => some (.iminN, .a f)
  | .imaxI f => some (.imaxI, .a f)
  | .imaxN f => some (.imaxN, .a f)
  | .and f => some (.and, .a f)
  | .or f => some (.or, .a f)
  | .xor f => some (.xor, .a f)
  | .andn f => some (.andn, .a f)
  | .shl f => some (.shl, .a f)
  | .shr f => some (.shr, .a f)
  | .sar f => some (.sar, .a f)
  | .rol f => some (.rol, .a f)
  | .popc f => some (.popc, .a f)
  | .clz f => some (.clz, .a f)
  | .brev f => some (.brev, .a f)
  | .ctz f => some (.ctz, .a f)
  | .bfxN f => some (.bfxN, .a f)
  | .bfxI f => some (.bfxI, .a f)
  | .bfi f => some (.bfi, .a f)
  | .icmpEq f => some (.icmpEq, .a f)
  | .icmpNe f => some (.icmpNe, .a f)
  | .icmpLtI f => some (.icmpLtI, .a f)
  | .icmpLtN f => some (.icmpLtN, .a f)
  | .icmpLeI f => some (.icmpLeI, .a f)
  | .icmpLeN f => some (.icmpLeN, .a f)
  | .icmpTst f => some (.icmpTst, .a f)
  | .sel fn f => some (selOp fn, .a f)
  | .mov f => some (.mov, .a f)
  | .xrd f => some (.xrd, .a f)
  | .xwr f => some (.xwr, .a f)
  | .xset f => some (.xset, .a f)
  | .pand f => some (.pand, .a f)
  | .por f => some (.por, .a f)
  | .pxor f => some (.pxor, .a f)
  | .pnot f => some (.pnot, .a f)
  | .smov f => some (.smov, .a f)
  | .sadd f => some (.sadd, .a f)
  | .sand f => some (.sand, .a f)
  | .sshl f => some (.sshl, .a f)
  | .adda f => some (.adda, .a f)
  | .addaX4 f => some (.addaX4, .a f)
  | .addaX16 f => some (.addaX16, .a f)
  | .suba f => some (.suba, .a f)
  | .rdl f => some (.rdl, .a f)
  | .br f => some (.br, .c f)
  | .brIfP f => some (.brIfP, .c f)
  | .brIfNotP f => some (.brIfNotP, .c f)
  | .call f => some (.call, .c f)
  | .callIndirect f => some (.callIndirect, .a f)
  | .ret f => some (.ret, .a f)
  | .switch f => some (.switch, .sw f)
  | .voteAny f => some (.voteAny, .a f)
  | .voteAll f => some (.voteAll, .a f)
  | .voteBallot f => some (.voteBallot, .a f)
  | .voteCnt f => some (.voteCnt, .a f)
  | .exit f => some (.exit, .a f)
  | .yield f => some (.yield, .a f)
  | .nop f => some (.nop, .a f)
  | .tryMark f => some (.tryMark, .t f)
  | .fail f => some (.fail, .c f)
  | .failIfP f => some (.failIfP, .c f)
  | .failIfNotP f => some (.failIfNotP, .c f)
  | .cut f => some (.cut, .a f)
  | .cutall f => some (.cutall, .a f)
  | .depth f => some (.depth, .a f)
  | .alts f => some (.alts, .a f)
  | .sbegin f => some (.sbegin, .sb f)
  | .send f => some (.send, .a f)
  | .glean f => some (.glean, .c f)
  | .fadd f => some (.fadd, .a f)
  | .faddRz f => some (.faddRz, .a f)
  | .faddRu f => some (.faddRu, .a f)
  | .faddRd f => some (.faddRd, .a f)
  | .fsub f => some (.fsub, .a f)
  | .fsubRz f => some (.fsubRz, .a f)
  | .fsubRu f => some (.fsubRu, .a f)
  | .fsubRd f => some (.fsubRd, .a f)
  | .fmul f => some (.fmul, .a f)
  | .fmulRz f => some (.fmulRz, .a f)
  | .fmulRu f => some (.fmulRu, .a f)
  | .fmulRd f => some (.fmulRd, .a f)
  | .ffma f => some (.ffma, .a f)
  | .ffmaRz f => some (.ffmaRz, .a f)
  | .ffmaRu f => some (.ffmaRu, .a f)
  | .ffmaRd f => some (.ffmaRd, .a f)
  | .fmin f => some (.fmin, .a f)
  | .fmax f => some (.fmax, .a f)
  | .fminnum f => some (.fminnum, .a f)
  | .fmaxnum f => some (.fmaxnum, .a f)
  | .fcmpEq f => some (.fcmpEq, .a f)
  | .fcmpLt f => some (.fcmpLt, .a f)
  | .fcmpLe f => some (.fcmpLe, .a f)
  | .fcmpUn f => some (.fcmpUn, .a f)
  | .hadd2 f => some (.hadd2, .a f)
  | .hsub2 f => some (.hsub2, .a f)
  | .hmul2 f => some (.hmul2, .a f)
  | .hfma2 f => some (.hfma2, .a f)
  | .fabs f => some (.fabs, .a f)
  | .fneg f => some (.fneg, .a f)
  | .fcpsgn f => some (.fcpsgn, .a f)
  | .fclass f => some (.fclass, .a f)
  | .cvtBf16F32 f => some (.cvtBf16F32, .a f)
  | .cvtBf16F32Sr f => some (.cvtBf16F32Sr, .a f)
  | .cvtF32Bf16 f => some (.cvtF32Bf16, .a f)
  | .cvtF32I32 f => some (.cvtF32I32, .a f)
  | .cvtI32F32RzSat f => some (.cvtI32F32RzSat, .a f)
  | .cvtI32F32Sat f => some (.cvtI32F32Sat, .a f)
  | .cvtF32N32 f => some (.cvtF32N32, .a f)
  | .cvtN32F32RzSat f => some (.cvtN32F32RzSat, .a f)
  | .cvtE4m3 f => some (.cvtE4m3, .a f)
  | .cvtE4m3Sr f => some (.cvtE4m3Sr, .a f)
  | .cvtE5m2 f => some (.cvtE5m2, .a f)
  | .cvtE5m2Sr f => some (.cvtE5m2Sr, .a f)
  | .cvtF32E4m3 f => some (.cvtF32E4m3, .a f)
  | .cvtF32E5m2 f => some (.cvtF32E5m2, .a f)
  | .pack2 f => some (.pack2, .a f)
  | .ld16 f => some (.ld16, .m f)
  | .ld32 f => some (.ld32, .m f)
  | .ld64 f => some (.ld64, .m f)
  | .ld128 f => some (.ld128, .m f)
  | .ld16S f => some (.ld16S, .m f)
  | .ldb f => some (.ldb, .m f)
  | .ldbs f => some (.ldbs, .m f)
  | .st8 f => some (.st8, .m f)
  | .st16 f => some (.st16, .m f)
  | .st32 f => some (.st32, .m f)
  | .st64 f => some (.st64, .m f)
  | .st128 f => some (.st128, .m f)
  | .ldeF32 f => some (.ldeF32, .a f)
  | .ldeBf16x2 f => some (.ldeBf16x2, .a f)
  | .ldexp f => some (.ldexp, .a f)
  | .steF32 f => some (.steF32, .a f)
  | .steBf16x2 f => some (.steBf16x2, .a f)
  | .lds32 f => some (.lds32, .m f)
  | .lds64 f => some (.lds64, .m f)
  | .lds128 f => some (.lds128, .m f)
  | .lds16 f => some (.lds16, .m f)
  | .sts32 f => some (.sts32, .m f)
  | .sts64 f => some (.sts64, .m f)
  | .sts128 f => some (.sts128, .m f)
  | .sts16 f => some (.sts16, .m f)
  | .ldc32 f => some (.ldc32, .m f)
  | .stc32 f => some (.stc32, .m f)
  | .gjoin f => some (.gjoin, .a f)
  | .gleave f => some (.gleave, .a f)
  | .silowait f => some (.silowait, .a f)
  | .silost f => some (.silost, .a f)
  | .pref f => some (.pref, .m f)
  | .spill f => some (.spill, .m f)
  | .fill f => some (.fill, .m f)
  | .eput f => some (.eput, .a f)
  | .ego f => some (.ego, .a f)
  | .epoll f => some (.epoll, .a f)
  | .alloc f => some (.alloc, .a f)
  | .free f => some (.free, .a f)
  | .atomAdd f => some (.atomAdd, .m f)
  | .atomMaxI f => some (.atomMaxI, .m f)
  | .atomMinI f => some (.atomMinI, .m f)
  | .atomExch f => some (.atomExch, .m f)
  | .atomCas f => some (.atomCas, .m f)
  | .atomOr f => some (.atomOr, .m f)
  | .atomAnd f => some (.atomAnd, .m f)
  | .atomFadd2 f => some (.atomFadd2, .m f)
  | .atomAdd64 f => some (.atomAdd64, .m f)
  | .atomCas64 f => some (.atomCas64, .m f)
  | .atomExch64 f => some (.atomExch64, .m f)
  | .redxF f => some (.redxF, .m f)
  | .redxI f => some (.redxI, .m f)
  | .binrd f => some (.binrd, .m f)
  | .binclr f => some (.binclr, .m f)
  | .bind f => some (.bind, .a f)
  | .acqX f => some (.acqX, .a f)
  | .acqS f => some (.acqS, .a f)
  | .rel f => some (.rel, .a f)
  | .acqtryX f => some (.acqtryX, .a f)
  | .unbind f => some (.unbind, .a f)
  | .fence f => some (.fence, .a f)
  | .bar f => some (.bar, .a f)
  | .arrive f => some (.arrive, .a f)
  | .arriveDrop f => some (.arriveDrop, .a f)
  | .arriveJoin f => some (.arriveJoin, .a f)
  | .barwait f => some (.barwait, .a f)
  | .bartest f => some (.bartest, .a f)
  | .gbar f => some (.gbar, .a f)
  | .swarm f => some (.swarm, .a f)
  | .swwait f => some (.swwait, .a f)
  | .swtest f => some (.swtest, .a f)
  | .tlwait f => some (.tlwait, .a f)
  | .tlread f => some (.tlread, .a f)
  | .tltest f => some (.tltest, .a f)
  | .pharr f => some (.pharr, .a f)
  | .phwait f => some (.phwait, .a f)
  | .phset f => some (.phset, .a f)
  | .phstat f => some (.phstat, .a f)
  | .plaunch f => some (.plaunch, .a f)
  | .pcancel f => some (.pcancel, .a f)
  | .pi f => some (.pi, .a f)
  | .pj f => some (.pj, .a f)
  | .ptag f => some (.ptag, .a f)
  | .pcell f => some (.pcell, .a f)
  | .pdx f => some (.pdx, .a f)
  | .pdy f => some (.pdy, .a f)
  | .pdz f => some (.pdz, .a f)
  | .pdsq f => some (.pdsq, .a f)
  | .preci f => some (.preci, .a f)
  | .precj f => some (.precj, .a f)
  | .preci2 f => some (.preci2, .a f)
  | .precj2 f => some (.precj2, .a f)
  | .pconOpp f => some (.pconOpp, .a f)
  | .pconSym f => some (.pconSym, .a f)
  | .pconI f => some (.pconI, .a f)
  | .pconJ f => some (.pconJ, .a f)
  | .pdrop f => some (.pdrop, .a f)
  | .pkq f => some (.pkq, .a f)
  | .pkg f => some (.pkg, .a f)
  | .pkstat f => some (.pkstat, .a f)
  | .frcp f => some (.frcp, .a f)
  | .frsq f => some (.frsq, .a f)
  | .fsqrt f => some (.fsqrt, .a f)
  | .fdiv f => some (.fdiv, .a f)
  | .fexp2 f => some (.fexp2, .a f)
  | .flog2 f => some (.flog2, .a f)
  | .fexp f => some (.fexp, .a f)
  | .ftanh f => some (.ftanh, .a f)
  | .fsin f => some (.fsin, .a f)
  | .fcos f => some (.fcos, .a f)
  | .fsincos f => some (.fsincos, .a f)
  | .qclr f => some (.qclr, .a f)
  | .qaddf f => some (.qaddf, .a f)
  | .qdot2 f => some (.qdot2, .a f)
  | .qsubf f => some (.qsubf, .a f)
  | .qrnd f => some (.qrnd, .a f)
  | .qrndh f => some (.qrndh, .a f)
  | .qwin f => some (.qwin, .a f)
  | .qred f => some (.qred, .a f)
  | .swap1 f => some (.swap1, .a f)
  | .shfl f => some (.shfl, .a f)
  | .shflx f => some (.shflx, .a f)
  | .scan f => some (.scan, .a f)
  | .rankf f => some (.rankf, .a f)
  | .ranki f => some (.ranki, .a f)
  | .maxw f => some (.maxw, .a f)
  | .minw f => some (.minw, .a f)
  | .rnd32 f => some (.rnd32, .a f)
  | .rndf f => some (.rndf, .a f)
  | .qsave f => some (.qsave, .a f)
  | .qload f => some (.qload, .a f)
  | .qscan f => some (.qscan, .a f)
  | .trap imm => some (.trap, .w imm)
  | .fwait f => some (.fwait, .a f)
  | .sysr f => some (.sysr, .a f)
  | .sysw f => some (.sysw, .a f)
  | .sysset f => some (.sysset, .a f)
  | .sysclr f => some (.sysclr, .a f)
  | .commit f => some (.commit, .a f)
  | .prot f => some (.prot, .a f)
  | .fork f => some (.fork, .a f)
  | .rdv f => some (.rdv, .a f)
  | .forkstat f => some (.forkstat, .a f)
  | .spawn f => some (.spawn, .a f)
  | .spawni f => some (.spawni, .a f)
  | .launch f => some (.launch, .a f)
  | .msgsend f => some (.msgsend, .a f)
  | .msgrem f => some (.msgrem, .a f)
  | .clk f => some (.clk, .a f)
  | .waitev f => some (.waitev, .a f)
  | .brk f => some (.brk, .a f)
  | .cancel f => some (.cancel, .a f)
  | .countr f => some (.countr, .a f)
  | .frpt f => some (.frpt, .a f)
  | .freplay f => some (.freplay, .a f)
  | .fresume f => some (.fresume, .a f)
  | .fkill f => some (.fkill, .a f)
  | .ptew f => some (.ptew, .a f)
  | .tlbinv f => some (.tlbinv, .a f)
  | .mwin f => some (.mwin, .a f)
  | .mzero f => some (.mzero, .a f)
  | .msave f => some (.msave, .a f)
  | .mrst f => some (.mrst, .a f)
  | .mma f => some (.mma, .a f)
  | .mmaTri f => some (.mmaTri, .a f)
  | .medge f => some (.medge, .a f)
  | .mfmt f => some (.mfmt, .a f)
  | .mdrain f => some (.mdrain, .a f)
  | .mdrainh f => some (.mdrainh, .a f)
  | .mdrainb f => some (.mdrainb, .a f)
  | .msync f => some (.msync, .a f)
  | .mbar f => some (.mbar, .a f)
  | .mwaitb f => some (.mwaitb, .a f)
  | .issueVote _ _ => none
  | .loadComplete _ _ => none
  | .pageWalkComplete _ _ _ => none
  | .atomicService _ => none
  | .yieldTimeout _ => none
  | .copyCommandExecute _ => none
  | .copyCommandComplete _ => none
  | .pairLaunchStart _ => none
  | .pairTestingComplete _ => none
  | .pairBatchStart _ _ _ => none
  | .pairEntryApply _ => none
  | .pairLaunchSuspend _ => none
  | .pairLaunchDrain _ => none
  | .pairLaunchComplete _ => none
  | .tileProgramStart _ => none
  | .matrixUnitOperation _ => none
  | .tileProgramEnd _ => none
  | .granaryOperation _ => none
  | .granaryOperationDone _ => none
  | .itemGatherTimeout _ _ => none
  | .dispatch _ => none
  | .blockPlacement _ => none
  | .unitCompletion _ _ _ => none
  | .phaseEnd _ => none
  | .entryWindowWrite _ _ _ => none
  | .m0Arrival _ _ _ => none
  | .m1Arrival _ _ _ _ => none
  | .m1Acknowledgement _ _ _ _ => none
  | .phaseCompletionMessage _ _ _ => none
  | .m3Contribution _ _ _ _ _ _ => none
  | .reductionWindowExpiry _ _ => none
  | .reductionIncomplete _ _ => none
  | .reductionRoundComplete _ _ => none
  | .faultRecordPost _ => none
  | .eventRingDeferredWrite _ => none
  | .fwaitTimeout _ => none
  | .commitPoint _ => none
  | .rollback _ _ => none
  | .preemptionSave _ => none
  | .blockMove _ _ => none
  | .forwardingExpiry _ => none
  | .timerEvent _ => none
  | .timerDeadlineWrite _ _ _ => none
  | .errorBankLatch _ _ => none
  | .errorBankClear _ _ => none
  | .correctedError _ _ => none
  | .uncorrectableError _ _ _ => none
  | .siloRefreshWindow _ _ _ => none
  | .hbmScrubPass _ _ _ => none
  | .arrayScrubPass _ _ _ => none
  | .grantPeriod _ _ _ _ _ _ => none
  | .linkFailure _ => none
  | .contextCreate _ _ => none
  | .contextDestroy _ _ => none
  | .contextDestroyDone _ => none
  | .startHandler _ _ => none
  | .signalHost _ _ => none
  | .silogo => none
  | .siloLoadDone => none
  | .attgo _ => none
  | .rbcommit => none
  | .clusterFence _ _ => none
  | .hostRegisterWrite _ _ _ _ => none
  | .bar4Access _ _ _ => none
  | .pcieAtomicRequest _ => none
  | .configurationRequest _ => none
  | .deviceReset => none
  | .memoryOperationPerformed _ => none
  | .evtailWrite _ _ => none
  | .failingClusterFence _ => none

/-- The operation of a cell of a class. -/
def opOf : Cls → Nat → Option Op
  | .gen, k => genRow k
  | .mem, k => memRow k
  | .xu, k => xuRow k
  | .sys, k => sysRow k
  | .mat, k => matRow k

/-! ## Fields and trailing words -/

/-- Why a word does not decode: a reserved cell (R54), or a literal, table or operand word past the last word given (R45, R51). -/
inductive DecodeError where
  | reserved
  | truncated
  deriving DecidableEq, Repr

/-- The fields of a format A word (R41); literals are filled in afterwards. -/
def fmtAOf (w : Word) : FmtA :=
  ⟨w.getLsbD 23, w.extractLsb' 16 7, w.extractLsb' 8 8, w.extractLsb' 0 8, 0, 0⟩
def fmtCOf (w : Word) : FmtC := ⟨w.extractLsb' 21 3, w.extractLsb' 0 21⟩
def fmtMOf (w : Word) : FmtM :=
  ⟨w.getLsbD 23, w.extractLsb' 16 7, w.extractLsb' 8 8, w.extractLsb' 0 8, 0⟩
def fmtTOf (w : Word) : FmtT := ⟨w.extractLsb' 17 7, w.extractLsb' 13 4, w.extractLsb' 0 13⟩

/-- LIT, the selector that takes a literal word (R45). -/
def selLit : BitVec 8 := 0xCF

/-- A selector of this kind takes a literal word when it is LIT (R45, R49). -/
def SelKind.takesLit (k : SelKind) (sel : BitVec 8) : Bool := k == .val && sel == selLit

/-- The literal words of a format A instruction: A's first, B's second (R45). -/
def takeLits (o : OpInfo) (f : FmtA) (rest : List Word) : Except DecodeError (FmtA × List Word) :=
  match o.ak.takesLit f.a, o.bk.takesLit f.b, rest with
  | false, false, r => .ok (f, r)
  | true, false, x :: r => .ok ({ f with litA := x }, r)
  | false, true, x :: r => .ok ({ f with litB := x }, r)
  | true, true, x :: y :: r => .ok ({ f with litA := x, litB := y }, r)
  | _, _, _ => .error .truncated

/-- The base literal of a format M instruction (R47). -/
def takeLitM (o : OpInfo) (f : FmtM) (rest : List Word) : Except DecodeError (FmtM × List Word) :=
  match o.ak.takesLit f.base, rest with
  | false, r => .ok (f, r)
  | true, x :: r => .ok ({ f with lit := x }, r)
  | true, [] => .error .truncated

/-- The number of table words of a SWITCH, D[2:0] + 1 (R50). -/
def switchLen (f : FmtA) : Nat := (f.d.extractLsb' 0 3).toNat + 1

/-- The fields of an operation's word, with its trailing words, and the words after them. -/
def shapeOf (o : OpInfo) (w : Word) (rest : List Word) : Except DecodeError (Shape × List Word) :=
  match o.fmt with
  | .a =>
    match takeLits o (fmtAOf w) rest with
    | .ok (f, r) => .ok (.a f, r)
    | .error e => .error e
  | .m =>
    match takeLitM o (fmtMOf w) rest with
    | .ok (f, r) => .ok (.m f, r)
    | .error e => .error e
  | .c => .ok (.c (fmtCOf w), rest)
  | .t => .ok (.t (fmtTOf w), rest)
  | .w => .ok (.w (w.extractLsb' 0 24), rest)
  | .sw =>
    if switchLen (fmtAOf w) ≤ rest.length then
      .ok (.sw ⟨fmtAOf w, rest.take (switchLen (fmtAOf w))⟩, rest.drop (switchLen (fmtAOf w)))
    else .error .truncated
  | .sb =>
    match rest with
    | x :: r => .ok (.sb ⟨fmtCOf w, x⟩, r)
    | [] => .error .truncated

/-- The operation and the fields at the head of a class's words, and the words after them. -/
def readWord (c : Cls) : List Word → Except DecodeError (Op × Shape × List Word)
  | [] => .error .truncated
  | w :: rest =>
    match opOf c (w.extractLsb' 24 8).toNat with
    | none => .error .reserved
    | some op =>
      match shapeOf op.info w rest with
      | .ok (sh, r) => .ok (op, sh, r)
      | .error e => .error e

/-- The decoder: the instruction at the head of a class's words, and the words after it. -/
noncomputable def decode (c : Cls) (ws : List Word) : Except DecodeError (Instr × List Word) :=
  match readWord c ws with
  | .error e => .error e
  | .ok (op, sh, r) =>
    match op.maker, sh with
    | .a mk, .a f => .ok (mk f, r)
    | .m mk, .m f => .ok (mk f, r)
    | .c mk, .c f => .ok (mk f, r)
    | .t mk, .t f => .ok (mk f, r)
    | .w mk, .w f => .ok (mk f, r)
    | .sw mk, .sw f => .ok (mk f, r)
    | .sb mk, .sb f => .ok (mk f, r)
    | _, _ => .error .reserved

/-! ## The encoder -/

/-- The word of a format A instruction. -/
def wordA (key : BitVec 8) (f : FmtA) : Word := key ++ BitVec.ofBool f.wbs ++ f.d ++ f.b ++ f.a
def wordC (key : BitVec 8) (f : FmtC) : Word := key ++ f.p ++ f.off
def wordM (key : BitVec 8) (f : FmtM) : Word := key ++ BitVec.ofBool f.wbs ++ f.d ++ f.off ++ f.base
def wordT (key : BitVec 8) (f : FmtT) : Word := key ++ f.d ++ f.n ++ f.off

/-- The literal words that follow a format A word (R45). -/
def litsA (o : OpInfo) (f : FmtA) : List Word :=
  (if o.ak.takesLit f.a then [f.litA] else []) ++ (if o.bk.takesLit f.b then [f.litB] else [])

/-- The words of an operation with its fields. -/
def encodeOp (o : OpInfo) : Shape → List Word
  | .a f => wordA o.key f :: litsA o f
  | .c f => [wordC o.key f]
  | .m f => wordM o.key f :: (if o.ak.takesLit f.base then [f.lit] else [])
  | .t f => [wordT o.key f]
  | .w imm => [o.key ++ imm]
  | .sw f => wordA o.key f.f :: f.table
  | .sb f => [wordC o.key f.f, f.operand]

/-- The encoder: the words of an instruction, its own word first. An event row has no words. -/
def encode (i : Instr) : List Word :=
  match i.parts with
  | none => []
  | some (op, sh) => encodeOp op.info sh

/-- The class an instruction's clause must have, none for an event row. -/
def Instr.cls (i : Instr) : Option Cls := i.parts.map (fun p => p.1.info.cls)

/-- The number of words after an operation's own: its literals, table and operand words (R32). -/
def extraWords (o : OpInfo) (sh : Shape) : Nat := (encodeOp o sh).length - 1

/-! ## The operand checks of R51 -/

/-- What decoding a word for one thread depends on: the declared counts (R44), whether the tile sequencer runs it (R55), whether it is a
pair or an item thread (R225, R323), and how many latches are valid (R39). -/
structure DecodeCtx where
  regs : Nat
  unif : Nat
  tile : Bool
  solo : Bool
  pair : Bool
  yn   : Nat
  deriving DecidableEq, Repr

/-- The cell is not allowed for this kind of code (R55, R225, R323). -/
def OpInfo.barred (o : OpInfo) (k : DecodeCtx) : Bool :=
  (k.tile && !o.is .tile) || (!k.tile && o.cls == .mat) || (k.solo && o.is .noPair) || (!k.pair && o.is .pairOnly)

/-- The cause a selector that gives 32 bits raises: reserved (0x03), latch not valid (0x04), register index (0x05); 0 for none. -/
def checkVal (k : DecodeCtx) (lit : Bool) (sel : BitVec 8) : Nat :=
  let n := sel.toNat
  if k.tile && 0x40 ≤ n && n < 0xC0 then 0x03
  else if 0xC9 ≤ n && n < 0xCF then 0x03
  else if n = 0xCF && !lit then 0x03
  else if k.tile then (if 0xC0 ≤ n && n < 0xC4 && k.yn ≤ n - 0xC0 then 0x04 else 0)
  else if n < 0x80 then (if k.regs ≤ n then 0x05 else 0)
  else if n < 0xC0 then (if k.unif ≤ n - 0x80 then 0x05 else 0)
  else if n < 0xC4 && k.yn ≤ n - 0xC0 then 0x04
  else 0

/-- The cause an operand of `len` registers from register `n` raises, aligned to `al` and below the count `lim` (R44). -/
def checkRun (lim n len al : Nat) : Nat := if n % al ≠ 0 ∨ lim < n + len then 0x05 else 0

/-- The cause an even-pair selector raises (R44). -/
def checkPair (k : DecodeCtx) (sel : BitVec 8) : Nat :=
  let n := sel.toNat
  if k.tile then (if n < 0x40 then checkRun 64 n 2 2 else 0x03)
  else if n < 0x80 then checkRun k.regs n 2 2
  else if n < 0xC0 then checkRun k.unif (n - 0x80) 2 2
  else 0x03

/-- The cause a selector field raises; `src` tells that an MMA operand is held in registers (R261). -/
def checkSel (k : DecodeCtx) (kind : SelKind) (src : Bool) (sel : BitVec 8) : Nat :=
  let n := sel.toNat
  match kind with
  | .none => 0
  | .val => checkVal k true sel
  | .valNoLit => checkVal k false sel
  | .pair => checkPair k sel
  | .wpair => if n < 0x80 then checkRun k.regs n 2 2 else 0x03
  | .w4 => if n < 0x80 then checkRun k.regs n 4 4 else 0x03
  | .w3 => if n < 0x80 ∧ n % 4 = 0 then checkRun k.regs n 3 4 else 0x03
  | .pred => if 8 ≤ n then 0x03 else 0
  | .q => if 4 ≤ n then 0x03 else 0
  | .k2 => checkPair k sel
  | .kop => if src then (if n < 0x40 then 0 else 0x03) else checkPair k sel

/-- The cause a D field raises (R42, R44), with WBS set or not (log entry 7). -/
def checkD (k : DecodeCtx) (kind : DKind) (d : BitVec 7) : Nat :=
  let n := d.toNat
  match kind with
  | .none => 0
  | .w len _ _ =>
    if k.tile then (if 64 ≤ n then 0x03 else checkRun 64 n len len)
    else checkRun k.regs n len len
  | .p => if 8 ≤ n then 0x03 else 0
  | .x => if 8 ≤ n then 0x03 else 0
  | .s => if 64 ≤ n then 0x03 else if k.unif ≤ n then 0x05 else 0
  | .q => if 4 ≤ n then 0x03 else 0
  | .stage => if 4 ≤ n then 0x03 else 0
  | .swlen => if 8 ≤ n then 0x03 else 0
  | .mat used => if d &&& ~~~used ≠ 0 then 0x03 else 0

/-- In a MAT instruction every field it does not use must be 0 (R259). -/
def checkMatUnused (o : OpInfo) (f : FmtA) : Nat :=
  if o.cls = .mat ∧ (f.wbs ∨ (o.ak = .none ∧ f.a ≠ 0) ∨ (o.bk = .none ∧ f.b ≠ 0)) then 0x03 else 0

/-- The causes the used fields of a word raise, 0 for none. -/
def fieldCauses (k : DecodeCtx) (o : OpInfo) : Shape → List Nat
  | .a f => [checkMatUnused o f, checkD k o.dk f.d, checkSel k o.ak (f.d.getLsbD 5) f.a, checkSel k o.bk (f.d.getLsbD 6) f.b]
  | .m f => [checkD k o.dk f.d, checkSel k o.ak false f.base]
  | .t f => [checkD k o.dk f.d]
  | .sw f => [checkD k o.dk f.f.d, checkSel k o.ak false f.f.a]
  | .sb f => [checkVal k false (f.operand.extractLsb' 0 8), checkVal k false (f.operand.extractLsb' 8 8)]
  | .c _ => []
  | .w _ => []

/-- The decode fault of one word (R51): illegal opcode (0x02) first, then operand (0x03), latch invalid (0x04), register index (0x05). -/
def checkWord (k : DecodeCtx) (o : OpInfo) (sh : Shape) : Option Nat :=
  if o.barred k then some 0x02
  else [0x03, 0x04, 0x05].find? (fun c => (fieldCauses k o sh).contains c)

/-- The word needs a slot: it is long-latency and writes a register (R37). -/
def needsSlot (o : OpInfo) (sh : Shape) : Bool :=
  o.is .long &&
    (match o.dk, sh with
     | .w _ _ wr, .a f => wr && !f.wbs
     | .w _ _ wr, .m f => wr && !f.wbs
     | .p, .a f => !f.wbs
     | .q, .a f => !f.wbs
     | _, _ => false)

/-! ## Table words -/

/-- The words of a table row of `nbits` bits holding `w`, first word first; bits above are zero (operand words of zeros). -/
def tableWords (nbits w : Nat) : List Word :=
  (List.range (max 1 ((nbits + 31) / 32))).map (fun k => BitVec.ofNat 32 (w / 2 ^ (32 * k))) ++ List.replicate 9 0

/-- The first class, in the order GEN, MEM, XU, SYS, MAT, under which the words decode. The table gives a row's bits without its class,
and one word may stand in the maps of several classes (R35). -/
def classFirst (ws : List Word) : Option Cls :=
  [Cls.gen, .mem, .xu, .sys, .mat].find? fun c => (readWord c ws).toOption.isSome

/-- The instruction this decoder reads from a row's bits as the opcode table numbers them. -/
noncomputable def decodeTableWord (nbits w : Nat) : Option Instr :=
  match classFirst (tableWords nbits w) with
  | none => none
  | some c =>
    match decode c (tableWords nbits w) with
    | .ok (i, _) => some i
    | .error _ => none

end Sys2Proof
end

