-- ==== Sys2Proof/Config.lean ====
section
/-!
DEFINITION. What one EVZ-4840 fixes and the spec leaves open, as constants without a body: no proof can see their values. Also the counts
of Tables 1-1 to 1-5.
-/

namespace Sys2Proof.Config

/-- SHAKE256 with an output of `n` bytes (R378, R398). The spec names the standard and does not restate it (log entry 20). -/
opaque shake256 (n : Nat) (msg : List Byte) : List Byte

/-- Falcon-1024 verification of a signature under a public key (R398, log entry 20). -/
opaque falconVerify (key sig msg : List Byte) : Bool

/-- Falcon-1024 signing by the device's identity key; `k` makes each signature its own, since signing is randomised (R400, log entry 20). -/
opaque falconSign (k : Nat) (msg : List Byte) : List Byte

/-- The PUF response of this device (R399, R400). -/
opaque pufResponse : List Byte

/-- The PUF public value of this device (R399). -/
opaque pufPublic : List Byte

/-- The identity public key that the boot derives from the seed (R400). -/
opaque identityKey (seed : List Byte) : List Byte

/-- The Mersutur certificate of the identity key, stored in flash at manufacture (R400). -/
opaque certificate : List Byte

/-- The fused digest of the Mersutur root public key, 32 bytes (R398). -/
opaque rootDigest : List Byte

/-- Bytes of an HBM row, of which the spec gives no number (R373, log entry 33). -/
opaque hbmRowBytes : Nat

/-- PUFD in the body of a configuration block, whose layout the spec does not give (R399, log entry 34). -/
opaque cfgPufd (body : List Byte) : List Byte

/-- The other fields of that body: 0 LINKS, 1 FUNCS, 2 CAP, 4 to 7 TRIP and 8 to 11 STEPMIN of die 0 to 3. -/
opaque cfgField (k : Nat) (body : List Byte) : Nat

/-- An address of a context is resident in a core's instruction cache at a time: a cache of which the spec gives neither size nor policy (R324, log entry
75). -/
opaque resident (clk core ctx : Nat) (entry : BitVec 64) : Bool

/-- The payload of an M2 (0 an acknowledgement of an M1, 1 the delivery of an M0, 2 a phase result) of some values, and that of an M3 of a window and
bins, or of nothing for a withdrawal: the spec gives their content and no layout (R327, R394, log entry 78). -/
opaque m2Payload (kind : Nat) (vals : List Nat) : List Byte
opaque m3Payload (win : Int) (bins : List (BitVec 128)) : List Byte

/-- The fabric id under which a group's switch is reached (R333, R394, log entry 78). -/
opaque switchOf (gid : Nat) : BitVec 24

/-- What a read of a register gives of which the spec says only that it is written, or nothing (R389, log entry 79). -/
opaque hiddenReg (fn off : Nat) : BitVec 64

/-- The slot of flash, A or B, that takes a boot image written through BAR4 (R398, log entry 80). -/
opaque recoverySlot : Bool

/-- The links over which a device can be reached, of which the spec gives no map (R395, log entry 67). -/
opaque linksTo (fid : Nat) : BitVec 24

/-- Clusters per package (Table 1-1). -/
def clusters : Nat := 256
/-- Cores per package (Table 1-1); service core of cluster c takes number 1,024 + c in this model (log entry 12). -/
def cores : Nat := 1024
/-- Scratchpad bytes per core (Table 1-3). -/
def scratchBytes : Nat := 262144
/-- HBM bytes (R137). -/
def hbmBytes : Nat := 2 ^ 39
/-- Silo bytes of the package, four dies of 2 GiB (R137). -/
def siloBytes : Nat := 2 ^ 33
/-- Loft units of 64 KiB per die at most (R158). -/
def loftUnits : Nat := 384
/-- Bins of one cluster's bin store (Table 1-2). -/
def clusterBins : Nat := 65536

end Sys2Proof.Config
end

