-- ==== Sys2Proof/Machine/Tab.lean ====
section
/-!
DEFINITION. Sparse tables: a list of (key, value) pairs with rising keys. `Tab.put d` keeps the canonical form (no entry equal to the
value `d` that an unlisted key reads as), so equal tables are equal lists. Memory is such a table of bytes.
-/

namespace Sys2Proof.Machine

/-- A table of values by natural-number keys. -/
abbrev Tab (α : Type) := List (Nat × α)

/-- The entry of a key, if listed. -/
def Tab.find {α : Type} : Tab α → Nat → Option α
  | [], _ => none
  | (k, v) :: t, n => if k = n then some v else Tab.find t n

/-- The value of a key; an unlisted key reads as `d`. -/
def Tab.get {α : Type} (d : α) (t : Tab α) (n : Nat) : α := (Tab.find t n).getD d

/-- A table without a key. -/
def Tab.del {α : Type} : Tab α → Nat → Tab α
  | [], _ => []
  | (k, v) :: t, n => if k = n then Tab.del t n else (k, v) :: Tab.del t n

/-- A table with a key's entry set, keys kept rising. -/
def Tab.ins {α : Type} : Tab α → Nat → α → Tab α
  | [], n, x => [(n, x)]
  | (k, v) :: t, n, x =>
    if n < k then (n, x) :: (k, v) :: t
    else if n = k then (k, x) :: t
    else (k, v) :: Tab.ins t n x

/-- Set a key's value in the canonical form: writing `d`, what an unlisted key reads as, removes the entry. -/
def Tab.put {α : Type} [DecidableEq α] (d : α) (t : Tab α) (n : Nat) (x : α) : Tab α :=
  if x = d then Tab.del t n else Tab.ins t n x

/-- Change a listed entry; an unlisted key is left unlisted. -/
def Tab.upd {α : Type} : Tab α → Nat → (α → α) → Tab α
  | [], _, _ => []
  | (k, v) :: t, n, f => if k = n then (k, f v) :: t else (k, v) :: Tab.upd t n f

/-- The keys rise strictly. -/
def Tab.sorted {α : Type} : Tab α → Bool
  | [] => true
  | [_] => true
  | (a, _) :: (b, y) :: t => decide (a < b) && Tab.sorted ((b, y) :: t)

/-- The canonical form: rising keys and no entry equal to `d`. -/
def Tab.canonical {α : Type} [DecidableEq α] (d : α) (t : Tab α) : Bool :=
  Tab.sorted t && t.all (fun p => decide (p.2 ≠ d))

/-- One more than the largest listed key. -/
def Tab.fresh {α : Type} (t : Tab α) : Nat := t.foldl (fun n p => max n (p.1 + 1)) 1

end Sys2Proof.Machine
end

