-- ==== Sys2Proof/Machine/State.lean ====
section
/-!
DEFINITION. The state of the EVZ-4840 as plain data: the registers of every thread, warp, block and cluster, the memories, the engines
with their queues, the contexts with their fault queues, the host's registers, the links, and (marked MODEL) what the model adds to say
what moves next.
-/

namespace Sys2Proof.Machine

/-- A memory: bytes by key, canonical with respect to 0, what an unlisted byte reads as (R150, R401; host memory: log entry 4). -/
abbrev Memory := List Host.Cell

/-! ## One thread (Table 1-8) -/

/-- An index register (R84). -/
structure XReg where
  base  : BitVec 7
  count : BitVec 8
  deriving DecidableEq, Repr

/-- A q register: bin128 and its hidden window exponent, an i8 (R113). -/
structure QReg where
  bits : BinBits
  win  : BitVec 8
  deriving DecidableEq, Repr

/-- A choice point (Table 13-3). -/
structure Choice where
  resume : DWord
  n      : Nat
  next   : Nat
  mark   : Nat
  wd     : Nat
  deriving DecidableEq, Repr

/-- A trail entry (Table 13-2); `win` is KIND 1, a frame window word. -/
structure TrailE where
  old : Word
  loc : Nat
  win : Bool
  deriving DecidableEq, Repr

/-- Search state (Table 13-1); sheaf and trail are held newest first. -/
structure Search where
  mode  : Bool
  exit  : DWord
  frame : Word
  floor : Nat
  sheaf : List Choice
  trail : List TrailE
  deriving DecidableEq, Repr

/-- A register and the value written to it. -/
inductive RegVal where
  | w (n : Nat) (v : Word)
  | p (n : Nat) (v : Bool)
  | q (n : Nat) (v : QReg)
  deriving DecidableEq, Repr

/-- A long-latency result owed to a thread's registers (R37, R38): its slot (7: none), a tag by which the unit that owes it finds it,
whether it has been produced, and the registers it writes. -/
structure Owed where
  slot  : Nat
  tag   : Nat
  ready : Bool
  wr    : List RegVal
  deriving DecidableEq, Repr

/-- A store issued and not yet performed (R170, R181): the bytes by physical key. Bytes for peers stand with those of the whole issue, which go as one
message (R327): `peer` names the issue and its word, and the threads that store. -/
structure StoreOp where
  keys : List Nat
  data : List Byte
  peer : Option ((Nat × Nat) × List TRef)
  deriving DecidableEq, Repr

/-- A candidate pair of a pair launch (R215). -/
structure Cand where
  i    : Nat
  j    : Nat
  tag  : Nat
  cell : Nat
  deriving DecidableEq, Repr

/-- The item of a pair thread (R220, R222, R230). -/
structure PairItem where
  n    : Nat
  i    : Nat
  j    : Nat
  tag  : Nat
  cell : Nat
  dx   : Word
  dy   : Word
  dz   : Word
  d2   : Word
  deriving DecidableEq, Repr

/-- What a candidate comes to: removed by EXCL, or tested and accepted or not, as an item whose index is yet to come (R220, R221). -/
inductive Verdict where
  | excluded
  | rejected
  | accepted (it : PairItem)
  deriving DecidableEq, Repr

/-- A staged contribution (R232): the form of Table 8-9, the value and the bin. -/
structure PEntry where
  form : Nat
  v    : Word
  b    : Nat
  deriving DecidableEq, Repr

/-- Fault record contents (Table 16-1). `va` is the field at 0x10, whatever it holds. -/
structure FRec where
  cause  : Nat
  index  : Nat
  src    : Nat
  flags  : Nat
  tid    : Nat
  launch : Nat
  block  : Nat
  va     : DWord
  item   : Nat
  deriving DecidableEq, Repr

/-- The thread part of a fault (R340), with what a TRAP or a break resumes at: whether its word is the last of its clause, the clause that
follows, and whether H carries the latches there (R40, R341). -/
structure Stop where
  cause : Nat
  idx   : Nat
  dec   : Bool
  last  : Bool
  next  : DWord
  keep  : Bool
  deriving DecidableEq, Repr

/-- What an error bank showed a thread at its latch of word 0 (R372): the bank, word 1, the location, and whether the record still stands as
it was then. -/
structure BankLatch where
  u     : Nat
  w1    : Word
  loc   : DWord
  fresh : Bool
  deriving DecidableEq, Repr

/-- An issue to an engine that waits for queue room (R162, R249, R285, R321, R331): the engine, the operand address or words, and
where the number goes. -/
structure EngineWait where
  what : Nat
  a    : DWord
  b    : Word
  pay  : List Word
  d    : Nat
  slot : Nat
  wbs  : Bool
  deriving DecidableEq, Repr

/-- What a TLBINV waits for of a block (R352): the held operations of an interval, by their places there, that were translated through entries it has
removed. -/
structure TlbDue where
  blk    : Nat
  epoch  : Nat
  reexec : Bool
  ops    : List Nat
  deriving DecidableEq, Repr

/-- Why a thread is held (R65, R403), with what its instruction still has to do when the hold ends. -/
inductive Hold where
  | acq (obj : Nat) (excl : Bool)
  | bar (off : Nat) (ph : Bool) (isBar : Bool)
  | swwait (off : Nat) (gen : Word)
  | tlwait (cluster : Nat) (eng : Nat) (n : Nat)
  | phset (hdr : List Byte) (tab : List Byte) (ranks : List (Nat × Nat)) (me : Nat)
  | phwait (serial : Nat)
  | gbar (k : Nat)
  | fence (scope : Nat)
  | silowait (pa : Nat) (gap : Nat)
  | rdv (cluster : Nat) (n : Nat) (d : Nat) (slot : Nat) (wbs : Bool)
  | commit
  | fwait (a : DWord) (deadline : Nat) (pc : DWord) (idx : Nat) (d : Nat) (slot : Nat) (wbs : Bool)
  | waitev (mask : Word) (d : Nat) (slot : Nat) (wbs : Bool)
  | engine (e : EngineWait)
  | glean (pc : DWord) (idx : Nat)
  | frpt (seq : DWord) (d : Nat) (slot : Nat) (wbs : Bool)
  | resolve (seq : DWord) (kill : Bool) (d : Nat) (slot : Nat) (wbs : Bool)
  | tlbinv (due : List TlbDue)
  deriving DecidableEq, Repr

/-- A thread. `cont` is the continuation index (R403), 0 at a clause's start; `line` is the fetch line, as it was fetched, of a clause that the
thread is part way through or that holds it (R52), and empty otherwise. `yn` is the valid latch count (R39). `stack` is newest
first (R74). `gbars` counts its GBARs (R191). `yieldAt` is the program counter it stands at after YIELD (R94). `atoms` and
`clks` count its value-returning ATOMs and its CLK readings (R379). `badW` and `badRet` name the w registers and the return-stack entries, these counted
from the oldest, that hold an uncorrectable error (R369). -/
structure Thread where
  live    : Bool
  pc      : DWord
  cont    : Nat
  line    : List Word
  w       : Vector Word 128
  p       : BitVec 8
  x       : Vector XReg 8
  q       : Vector QReg 4
  y       : Vector Word 4
  yn      : Nat
  stack   : List DWord
  loftRs  : Bool
  stage   : Vector DWord 4
  search  : Search
  owed    : List Owed
  stq     : List StoreOp
  stop    : Option Stop
  hold    : Option Hold
  yieldAt : Option DWord
  age     : Nat
  gbars   : Nat
  item    : Option PairItem
  staged  : List PEntry
  latch   : Option BankLatch
  fixed   : Nat
  atoms   : Nat
  clks    : Nat
  badW    : List Nat
  badRet  : List Nat
  deriving DecidableEq, Repr

/-! ## Atomics and held operations -/

/-- The ATOM forms (Table 6-3). -/
inductive AtomOp where
  | add | maxI | minI | exch | cas | or | and | fadd2 | add64 | cas64 | exch64
  deriving DecidableEq, Repr

/-- A request kind at an owner (R182). -/
inductive ReqKind where
  | atom (op : AtomOp)
  | redxF
  | redxI
  | binrd
  | binclr
  deriving DecidableEq, Repr

/-- One participant's part of a merged request: the thread, the tag of its owed entry, its operand words, the address it named, and which of
its thread's value-returning ATOMs it is (R379), 0 for none. -/
structure ReqPart where
  t    : TRef
  tag  : Nat
  opnd : List Word
  va   : DWord
  nth  : Nat
  deriving DecidableEq, Repr

/-- One merged request to one address (R184). -/
structure AtomReq where
  kind  : ReqKind
  key   : Nat
  win   : Int
  ret   : Bool
  parts : List ReqPart
  deriving DecidableEq, Repr

/-- A message sent (R327), with the FID and function it goes to (Table 18-5), where it goes to one device. -/
inductive OutMsg where
  | m0 (fid fn : Nat) (tag : PhaseTag) (data : List Byte)
  | m0done (fid fn : Nat)
  | m1 (fid fn : Nat) (va : DWord) (tag : PhaseTag) (data : List Byte)
  | m1ack (fid fn : Nat) (cause : Nat) (va : DWord)
  | m2phase (fid fn : Nat) (id : Nat)
  | m3 (gid rank seq : Nat) (win : Int) (bins : List BinBits)
  | m3withdraw (gid rank seq : Nat)
  | ur (fn : Nat)
  | crs (fn : Nat)
  | readData (fn : Nat) (data : List Byte)
  deriving DecidableEq, Repr

/-- A flit on a Rameus link (Table 18-5): its header's fields, FID and function of source and destination among them, and its payload. -/
structure Flit where
  cls     : Nat
  first   : Bool
  last    : Bool
  cnt     : Bool
  src     : Nat × Nat
  dst     : Nat × Nat
  seq     : Nat
  addr    : DWord
  phase   : Nat
  dcore   : Nat
  payload : List Byte
  deriving DecidableEq, Repr

/-- What a commit does for one entry of the held list (R199, R361): a store, a request, or a release. -/
inductive HeldAct where
  | store (op : StoreOp)
  | req (r : AtomReq)
  | rel (obj : Nat)
  deriving DecidableEq, Repr

/-- A held operation of a protected interval (Table 16-7) with what its signature takes (R367). -/
structure HeldOp where
  kind : Nat
  size : Nat
  tid  : Nat
  va   : DWord
  data : List Byte
  act  : HeldAct
  deriving DecidableEq, Repr

/-- A journal entry (R360): the old value of a 4-byte word of scratchpad (key) or of the loft area. -/
structure JEntry where
  loft : Bool
  addr : Nat
  old  : Word
  deriving DecidableEq, Repr

/-- A fixing operation's results, for the twin's copy (R366): whose, which of its fixing operations, and the results, once they are there. -/
structure FixRec where
  tid   : Nat
  k     : Nat
  tag   : Nat
  ready : Bool
  wr    : List RegVal
  deriving DecidableEq, Repr

/-! ## Warps and blocks -/

/-- A warp: its s registers, its threads by index m, and its heap slice (R168). -/
structure Warp where
  s       : Vector Word 64
  threads : List Thread
  heapOff : Nat
  allocs  : List Nat
  deriving DecidableEq, Repr

inductive BlockKind where
  | kernel | task | item | pair | handler
  deriving DecidableEq, Repr

/-- A block (R25). `core` is physical, 1,024 + c for the service core of cluster c. `twin` names the other copy under P2 (R366) and
`primary` tells which one it is; `stopAt` holds the stops of the other copy's threads that this copy's threads take when they reach the
same index. `issued` records which cluster's timeline a number belongs to (R194). `rb` is the record of a rollback that is due, as the access that calls for it
gives it (R363). `saved` is where a pre-empted block's region stands in the save area (R374). `out` holds the stores that the block's
threads can see and that are not yet performed beyond it, in the order in which they became visible there (R170), and `epoch` counts its
commits. `spare` is the loft that its threads have given back in a protected interval and that a rollback would take again, and `badShadow` tells
that an uncorrectable error stands in its shadow bank (R369). -/
structure Block where
  ctx     : Nat
  lid     : Nat
  idx     : Nat
  kind    : BlockKind
  core    : Nat
  regs    : Nat
  unif    : Nat
  nthr    : Nat
  scrBase : Nat
  scrSize : Nat
  loftSize : Nat
  loft    : Memory
  prot    : Nat
  grid    : Bool
  heap    : DWord
  quota   : Nat
  warps   : List Warp
  evpend  : Word
  timer   : DWord
  held    : List HeldOp
  journal : List JEntry
  jcount  : Nat
  fixed   : Bool
  reexec  : Bool
  ckpt    : Option (List Warp)
  twin    : Option Nat
  primary : Bool
  fixlog  : List FixRec
  stopAt  : List (Nat × Nat × DWord × Stop)
  rb      : Option FRec
  group   : Option (Word × Nat)
  issued  : List (Nat × Nat × Nat)
  saved   : Option Nat
  out     : List (TRef × StoreOp)
  epoch   : Nat
  spare   : Nat
  badShadow : Bool
  deriving DecidableEq, Repr

/-- Who executes an issue (R66, R71). -/
inductive Agent where
  | lanes (blk : Nat) (wp : Nat) (parts : List Nat)
  | tile (c : Nat)
  deriving DecidableEq, Repr

/-- A clause being executed: its address, the 16 words of its fetch line as fetched (R52), and the index of the word whose pass is next. `id` tells which
issue it is a part of: the lanes of one issue go through their passes each on its own (R27, R68). -/
structure Issue where
  who  : Agent
  pc   : DWord
  line : List Word
  idx  : Nat
  id   : Nat
  deriving DecidableEq, Repr

/-! ## Engines of a cluster -/

/-- An engine timeline (R193): the numbers given out, the completed value, and completed numbers beyond it. -/
structure Timeline where
  issued : Nat
  done   : Nat
  late   : List Nat
  deriving DecidableEq, Repr

/-- A copy command (Tables 5-8 to 5-10) with its issuer. `dest` is what an all-or-nothing command has checked of its destination: where the version
stands, and for each row the key, length and leaf of its parts (R165). -/
structure CopyCmd where
  num  : Nat
  ctx  : Nat
  core : Nat
  t    : TRef
  w0  : DWord
  w1  : DWord
  w2  : DWord
  w3  : DWord
  dest : Option (Nat × List (List (Nat × Nat × DWord)))
  deriving DecidableEq, Repr

/-- What failed an engine operation: the cause, the failing address if there is one, and whether the access was a write. -/
structure Fail where
  cause : Nat
  va    : Option DWord
  wr    : Bool
  deriving DecidableEq, Repr

/-- How far the copy engine is with the command it executes (R165): its checks are next; it waits for an even version of its source and records it;
it copies under the version recorded; it reads the version again; it waits for an even version of its destination and makes it odd; it writes the
tile; it makes the version even again; or it has ended. `key` is where the version stands and `rows` the source as an all-or-nothing command has
read it. -/
inductive CopyStage where
  | start
  | wait
  | read (key : Nat) (v0 : DWord)
  | again (key : Nat) (v0 : DWord) (rows : List (List Byte))
  | lock (key : Nat) (rows : List (List Byte))
  | write (key : Nat) (v : DWord) (rows : List (List Byte))
  | unlock (key : Nat) (v : DWord)
  | done (fail : Option Fail)
  deriving DecidableEq, Repr

/-- A status kept by number: STATE, CAUSE and OVF of Tables 5-11, 10-2 and 11-2. -/
structure Stat where
  state : Nat
  cause : Nat
  ovf   : Bool
  deriving DecidableEq, Repr

/-- A queued tile program (R249). -/
structure TileReq where
  num   : Nat
  t     : TRef
  entry : DWord
  arg   : Word
  deriving DecidableEq, Repr

/-- The running tile program: the sequencer's registers stand in a thread record whose w0 to w63 are k0 to k63 (R246). -/
structure TileRun where
  num   : Nat
  t     : TRef
  th    : Thread
  ended : Bool
  ovf   : Bool
  deriving DecidableEq, Repr

/-- An accumulator: its window and its bins by row × 32 + column, unlisted ones empty (R253). -/
structure Acc where
  win  : Int
  bins : Tab BinBits
  deriving DecidableEq, Repr

/-- The extents, diagonal offset and fill that MEDGE and MFMT set (R263). -/
structure MatCfg where
  m    : Nat
  n    : Nat
  k    : Nat
  diag : Int
  fill : Nat
  fval : Word
  deriving DecidableEq, Repr

/-- An operand of MMA: a scratchpad specifier of a core, or rows held by a warp (Tables 10-3, 10-4). -/
inductive MatOpnd where
  | scr (core : Nat) (spec : DWord)
  | reg (blk : Nat) (wp : Nat) (wbase : Nat)
  deriving DecidableEq, Repr

/-- A queued MAT operation (R253) with the unit state in force at its issue. -/
inductive MatOp where
  | mwin (a : Nat) (win : Int)
  | mzero (a : Nat)
  | msave (a : Nat) (base : Nat)
  | mrst (a : Nat) (base : Nat)
  | mma (tri : Bool) (acc : Nat) (a b : MatOpnd) (cfg : MatCfg)
  | drain (kind : Nat) (a : Nat) (spec : DWord) (cfg : MatCfg)
  deriving DecidableEq, Repr

/-- A matrix unit (R253) with its queue of operations, each with the cluster and number of its program and its core field. -/
structure MatUnit where
  acc   : Tab Acc
  cfg   : MatCfg
  queue : List (MatOp × Nat × Nat × Nat)
  deriving DecidableEq, Repr

/-- A Granary descriptor (Table 11-1). -/
structure GDesc where
  qaddr  : DWord
  k1base : DWord
  k2base : DWord
  vbase  : DWord
  obase  : DWord
  iwbase : DWord
  rowdim : Nat
  qdim   : Nat
  c      : Nat
  k      : Nat
  h      : Nat
  tag    : Nat
  sw     : Int
  ow     : Int
  fmt    : Nat
  flags  : Nat
  deriving DecidableEq, Repr

/-- A Granary operation: its descriptor, whether it is PKG, and its issuer (R281). -/
structure GranOp where
  num  : Nat
  ctx  : Nat
  c    : Nat
  t    : TRef
  bwd  : Bool
  desc : GDesc
  deriving DecidableEq, Repr

/-- What a served Granary operation has ready to write (R282): bytes by virtual address, key and leaf; bin contributions by address and
key, with the window and the two factors; or the cause and address that failed it, and whether that was a write. -/
structure GranResult where
  writes : List (DWord × Nat × DWord × List Byte)
  adds   : List (DWord × Nat × Int × Word × Word)
  ovf    : Bool
  fail   : Option (Nat × Option DWord × Bool)
  deriving DecidableEq, Repr

/-- Resident half-key tables (R273), most recently used first in the unit. -/
structure GranTab where
  ctx  : Nat
  tag  : Nat
  h    : Nat
  c    : Nat
  d    : Nat
  keys : List Byte
  deriving DecidableEq, Repr

/-- A Granary unit (R272): queue, operation in service with its results, resident tables. -/
structure GranUnit where
  queue : List GranOp
  run   : Option (GranOp × GranResult)
  tabs  : List GranTab
  deriving DecidableEq, Repr

/-- A message-engine operation in flight (R331, R333): `kind` 0 an M0, 1 an M1, 2 a MSGREM with its group, this device's rank there, sequence, DST and
the copy of its bins. `va` is the remote address or DST; `dsts` are the fabric ids that it goes to, for a MSGREM those of the other ranks. -/
structure MsgOp where
  num   : Nat
  ctx   : Nat
  lid   : Nat
  t     : TRef
  kind  : Nat
  dsts  : List Nat
  gid   : Nat
  rank  : Nat
  seq   : Nat
  core  : Nat
  va    : DWord
  bins  : List BinBits
  win   : Int
  deriving DecidableEq, Repr

/-- Items of one launch gathered for one entry address, by payload in arrival order (R323), with when the first came. `seq` is the sequence
number that the item warp gets once it is formed. `after` names the commits that its start waits for, by block and epoch (R199, R321). -/
structure Gather where
  ctx   : Nat
  lid   : Nat
  entry : DWord
  items : List (List Word)
  start : Nat
  seq   : Nat
  after : List (Nat × Nat)
  deriving DecidableEq, Repr

/-- The shared hardware of a cluster (Table 1-2). `m1Due` holds the stores sent to peers and not yet acknowledged: threads, context,
core and the FID of the peer (R195). `tileK0` keeps the k0 that tile programs ended with (R250). `failed` marks a cluster that placement
has fenced off by itself (R22). -/
structure Cluster where
  ceQ      : List CopyCmd
  ceRun    : Option (CopyCmd × CopyStage)
  ceStat   : Tab Stat
  tls      : Vector Timeline 5
  tileQ    : List TileReq
  tile     : Option TileRun
  tileStat : Tab Stat
  tileK0   : Tab Word
  granStat : Tab Stat
  msgs     : List MsgOp
  gather   : List Gather
  formed   : List Gather
  itemSeq  : Nat
  atomQ    : List AtomReq
  m1Due    : List (List TRef × Nat × Nat × Nat)
  healthy  : Bool
  failed   : Bool
  deriving DecidableEq, Repr

/-! ## Contexts -/

/-- Which unit a fault record awaits or reports (R345): a thread, a tile program, a pair item, an access of a launch's logical cluster, an engine of a
cluster, the matrix unit of a core, the Thresher of a physical cluster, or the bins of a launch. `report` is one that holds nothing up. -/
inductive FUnit where
  | thread (t : TRef)
  | tile (c : Nat)
  | pairItem (l : Nat) (n : Nat)
  | pairAccess (l : Nat) (c : Nat)
  | engine (c : Nat) (eng : Nat)
  | mat (core : Nat)
  | thresher (k : Nat)
  | bins (l : Nat)
  | report
  deriving DecidableEq, Repr

/-- A fault record with the unit it concerns. -/
structure QRec where
  frec : FRec
  unit : FUnit
  deriving DecidableEq, Repr

/-- What the device keeps of a sequence number (R349): STATE 1 to 3 and FWD. -/
structure SeqState where
  state : Nat
  fwd   : Bool
  qrec  : QRec
  deriving DecidableEq, Repr

/-- A graph, phase or job level (Table 1-9). `cores` names, for a job, the logical clusters of R13 that another physical cluster than their own
holds, with that one. -/
structure Level where
  parent    : Nat
  complete  : Bool
  cancelled : Bool
  failed    : Bool
  cores     : Tab Nat
  deriving DecidableEq, Repr

/-- The four counters of one logical core under a phase (Table 6-6), signed (R196). -/
structure PhCount where
  msg   : Int
  task  : Int
  eng   : Int
  store : Int
  arr   : Int
  deriving DecidableEq, Repr

/-- The loaded phase of a context (R195, R196). `ranks` are the ranks of its group under SCOPE 2, by FID and function; `serial` counts loads; `me` is
this device's rank, and `sent` tells whether its package result has gone to the other ranks. -/
structure Phase where
  id        : Nat
  scope     : Nat
  next      : Nat
  group     : DWord
  ranks     : List (Nat × Nat)
  serial    : Nat
  ended     : Bool
  err       : Bool
  cancelled : Bool
  counts    : Tab PhCount
  pending   : Tab PhCount
  me        : Nat
  sent      : Bool
  deriving DecidableEq, Repr

/-- A context (R390) with its handler, fault queue, registers of Table 16-5 held per context, and levels. `m2s` holds the phase results that
have come from ranks: phase id and rank (R196). `recmap` names the launches of the log that this context's launches re-run (R379). -/
structure Ctx where
  fn        : Nat
  root      : Nat
  loft      : List Nat
  loftUsed  : List Nat
  hentry    : DWord
  harg      : DWord
  hcluster  : Nat
  save      : DWord
  peers     : DWord
  npeers    : Nat
  handler   : Option Nat
  queue     : List (Nat × QRec)
  waiting   : List QRec
  seq       : Nat
  seqs      : Tab SeqState
  bound     : List (Nat × Nat × Nat)
  debug     : Word
  recctl    : Word
  recbase   : DWord
  recsize   : Word
  recin     : DWord
  recpos    : Nat
  recmap    : List (Nat × Nat)
  graphs    : Tab Level
  phases    : Tab Level
  jobs      : Tab Level
  phase     : Option Phase
  m2s       : List (Nat × Nat)
  serial    : Nat
  drops     : Nat
  dying     : Bool
  deriving DecidableEq, Repr

/-! ## Launches -/

/-- A task record (Tables 15-1, 15-2). -/
structure TaskRec where
  entry : DWord
  arg   : DWord
  tx    : Word
  ty    : Word
  tz    : Word
  flags : Word
  succ  : DWord
  lid   : Nat
  graph : Nat
  phase : Nat
  job   : Nat
  deriving DecidableEq, Repr

/-- A launch descriptor (Table 15-4). -/
structure LDesc where
  entry   : DWord
  arg     : DWord
  gx      : Nat
  gy      : Nat
  gz      : Nat
  threads : Nat
  regs    : Nat
  unif    : Nat
  scratch : Nat
  loft    : Nat
  heap    : DWord
  quota   : Nat
  lflags  : Word
  group   : DWord
  deriving DecidableEq, Repr

/-- A launch-level unit (Table 1-9): a kernel launch or share, a task, or a pair launch. `count` is its counter. A kernel launch keeps the
placement cursor (z, d) along its Hilbert curves (R325) and its share [lo, hi). `placed` counts the blocks placed; `skips`, `cuts` and `bads` are the
blocks that a cancel abandoned, those it reached while they ran, and those reported failed (R337). `after` names the commit that its start waits
for, by block and epoch (R199, R321). `dies` are those on which a block of it has stood (R393). -/
structure Launch where
  ctx       : Nat
  graph     : Nat
  phase     : Nat
  job       : Nat
  prio      : Nat
  count     : Nat
  complete  : Bool
  cancelled : Bool
  failed    : Bool
  succ      : DWord
  desc      : LDesc
  lo        : Nat
  hi        : Nat
  curZ      : Nat
  curD      : Nat
  victim    : Bool
  placed    : Nat
  skips     : List Nat
  cuts      : List Nat
  bads      : List Nat
  after     : List (Nat × Nat)
  dies      : List Nat
  deriving DecidableEq, Repr

/-- A record in a die's ready queue (R324) with the levels that hold it, and the address or window offset it came from (R315). -/
structure ReadyRec where
  ctx   : Nat
  lid   : Nat
  addr  : DWord
  task  : TaskRec
  graph : Nat
  phase : Nat
  job   : Nat
  deriving DecidableEq, Repr

/-- A pair descriptor (Table 8-2). -/
structure PDesc where
  recA    : DWord
  countA  : Nat
  strideA : Nat
  recB    : DWord
  countB  : Nat
  strideB : Nat
  posA    : DWord
  posB    : DWord
  cut     : Word
  lx      : Word
  ly      : Word
  lz      : Word
  src     : DWord
  kind    : Word
  geo     : Word
  excl    : DWord
  outA    : DWord
  outB    : DWord
  win     : Int
  nclus   : Nat
  entry   : DWord
  arg     : DWord
  deriving DecidableEq, Repr

/-- A pair launch (R209 to R241). `phys` maps logical clusters to physical ones; `nextItem` and `nextBatch` count per logical cluster;
`again` holds failed items to replay; `apply` holds the entries of exited items; bins are kept by (set, record, bin). `stage` is the
state a suspended launch goes back to, `blk` the block that issued it, `pos` how far each logical cluster has written, `accFaults` the logical
clusters whose access has failed (their number stands for an access of the launch as a whole), and `final` whether it was the final status write.
`got` are the words of the candidate source read so far, and `tests` what each logical cluster's share of the candidates has come to so far (log entry
69). -/
structure PairLaunch where
  ctx       : Nat
  area      : DWord
  desc      : PDesc
  cluster   : Nat
  num       : Nat
  state     : Nat
  ovf       : Bool
  trunc     : Bool
  cancelled : Bool
  killed    : Bool
  cands     : Nat
  excluded  : Nat
  replayed  : Nat
  abandoned : Nat
  dropped   : Nat
  skipped   : Nat
  ovfbins   : Nat
  phys      : List Nat
  items     : List PairItem
  nextItem  : Tab Nat
  nextBatch : Tab Nat
  again     : List Nat
  running   : List Nat
  finished  : Nat
  failed    : List Nat
  apply     : List (PairItem × List PEntry)
  bins      : Tab BinBits
  reserved  : Bool
  got       : List Nat
  tests     : Tab (List Verdict)
  tested    : Bool
  pos       : Tab Nat
  accFaults : List Nat
  final     : Bool
  stage     : Nat
  blk       : Nat
  deriving DecidableEq, Repr

/-! ## Device-wide units -/

/-- The registers of one PCIe function (Table 18-3), its ring records that wait for room (R391), its MSI-X table bytes, and the vectors whose pending bits
are set (R388). -/
structure FnRegs where
  ctxArg   : DWord
  ctxRes   : Nat
  ctxCause : Nat
  evBase   : DWord
  evSize   : Nat
  evHead   : Nat
  evTail   : Nat
  evFull   : Bool
  attNonce : List DWord
  attDst   : DWord
  defer    : List (Nat × FRec)
  msix     : Memory
  pend     : List Nat
  destroying : Option Nat
  deriving DecidableEq, Repr

/-- An error bank (R370, R371). -/
structure Bank where
  valid : Bool
  ue    : Bool
  multi : Bool
  ce    : BitVec 16
  uec   : BitVec 16
  lost  : BitVec 16
  loc   : DWord
  deriving DecidableEq, Repr

/-- An interrupt sent to the host: a function's vector, with the address and the data that its MSI-X table has for it (R387, R388). -/
structure Irq where
  fn   : Nat
  vec  : Nat
  addr : DWord
  data : Word
  deriving DecidableEq, Repr

/-- A Silo load in progress (R393). -/
structure SiloLoad where
  src  : DWord
  die  : Nat
  off  : Nat
  len  : Nat
  deriving DecidableEq, Repr

/-- Per-die state: the dispatcher's ready queue (R324), the clock step and its counts (R396, R397), the refresh timer of its Silo in ns
(R155), and the FENCE word (Table 18-3). -/
structure Die where
  ready   : List ReadyRec
  step    : Nat
  stepMin : Nat
  grants  : List Nat
  temp    : Nat
  hot     : Nat
  trip    : Nat
  stepDn  : Word
  short   : Nat
  calm    : Nat
  silo    : Nat
  fence   : DWord
  deriving DecidableEq, Repr

/-- Package-wide registers: bring-up (R401), the bytes of the images in flash by 2 × KIND + slot, and fuses (R398), PF 0's registers, power (R396), what
the grant periods of the last 1 ms but one have granted (R397), links (R395), the fabric id, the count of arrivals (Table 16-13), and the count of
signatures made, which no reset takes back (R400). -/
structure Device where
  ready     : Bool
  recovery  : Bool
  cfgdef    : Bool
  bringUp   : Nat
  flash     : Tab (List Byte)
  bootSlot  : List Nat
  fuses     : Nat
  links     : BitVec 24
  linkDown  : BitVec 24
  vfs       : Nat
  siloSrc   : DWord
  siloDst   : DWord
  siloLen   : DWord
  siloLoad  : Option SiloLoad
  apBase    : DWord
  cap       : Nat
  draw      : Nat
  granted   : List Nat
  fid       : Nat
  arrivals  : Nat
  signed    : Nat
  deriving DecidableEq, Repr

/-- A TLB entry: context, first address, size, and the leaf entry (R140). -/
structure TlbE where
  ctx  : Nat
  base : Nat
  size : Nat
  pte  : DWord
  deriving DecidableEq, Repr

/-- A forwarding entry of a moved block (R376): the block, its old core and when it may lapse. -/
structure Forward where
  blk  : Nat
  core : Nat
  till : Nat
  ops  : List (Nat × Nat × Nat)
  deriving DecidableEq, Repr

/-- A switch sequence (R333, R334). -/
structure SwSeq where
  gid   : Nat
  seq   : Nat
  nrank : Nat
  start : Nat
  got   : List (Nat × Int × List BinBits)
  bad   : Bool
  aborted : Bool
  deriving DecidableEq, Repr

/-- MODEL: what moves next. An event row happens, the k-th clause in execution takes its next pass, the tile sequencer of a cluster takes
its program's next clause (R71), or the search controller puts the GLEANs of a thread off or takes them up again (R302). -/
inductive Cue where
  | event (i : Instr)
  | pass (k : Nat)
  | tile (c : Nat)
  | putOff (t : TRef)
  | takeUp (t : TRef)
  deriving DecidableEq, Repr

/-- The machine. `mem` holds HBM, Silo and host memory, keyed LOC × 2^52 + physical address; `scr` the scratchpads, keyed
core × 262,144 + offset; `poison` the 8-byte granules that hold an uncorrectable error (R369): 2 × (key / 8) for mem, one more for scr,
and keys of the other arrays above 2^100 (log entry 17). MODEL fields: `agenda`
(what moves next, then whatever the default order gives), `pace` (how many ns pass before each coming step), `lastVote` (which warp
voted last), `tags` (tags given out), `names` (launch and linear index of every block, by its key), `putOff` (threads whose GLEANs the search
controllers put off). `outbox` holds the messages sent, `flits` the flits of those that go over links, and `flitSeq` the SEQ last given, by source, destination
and class (R394). -/
structure State where
  agenda   : List Cue
  pace     : List Nat
  lastVote : Nat
  tags     : Nat
  names    : Tab (Nat × Nat)
  putOff   : List TRef
  issues   : List Issue
  clk      : DWord
  mem      : Memory
  scr      : Memory
  poison   : List Nat
  blocks   : Tab Block
  clusters : Tab Cluster
  tlbs     : Tab (List TlbE)
  mats     : Tab MatUnit
  grans    : Tab GranUnit
  dies     : Tab Die
  ctxs     : Tab Ctx
  launches : Tab Launch
  lidNext  : Nat
  pairs    : Tab PairLaunch
  syncs    : Tab (List (Nat × Bool) × List (Nat × Bool))
  fns      : Tab FnRegs
  irqs     : List Irq
  banks    : Tab Bank
  dev      : Device
  fwds     : List Forward
  switches : List SwSeq
  outbox   : List OutMsg
  flits    : List Flit
  flitSeq  : Tab Nat
  deriving DecidableEq, Repr

/-- Why the machine stops. -/
inductive Fault where
  /-- Raised by a lane, tile or MAT instruction's meaning when no clause is in execution, so no unit executes it. The device is then
  not executing that instruction at all. Safe: nothing is claimed of it. -/
  | noIssue
  deriving DecidableEq, Repr

/-- Why an instruction has no meaning. -/
inductive Refusal where
  /-- An instruction whose meaning is not written. Raised by exec's arm alone. Safe. -/
  | notModelled (mnemonic : String)
  deriving DecidableEq, Repr

/-! ## Values at reset -/

def XReg.zero : XReg := ⟨0, 0⟩
def QReg.zero : QReg := ⟨0, 0⟩
def Search.none : Search := ⟨false, 0, 0, 0, [], []⟩

/-- A new thread (R28, R84, R113, R162, R289): every register reads zero. -/
def Thread.new (pc : DWord) : Thread :=
  { live := true, pc := pc, cont := 0, line := [], w := Vector.replicate 128 0, p := 0, x := Vector.replicate 8 XReg.zero,
    q := Vector.replicate 4 QReg.zero, y := Vector.replicate 4 0, yn := 0, stack := [], loftRs := false,
    stage := Vector.replicate 4 0, search := Search.none, owed := [], stq := [], stop := none, hold := none, yieldAt := none,
    age := 0, gbars := 0, item := none, staged := [], latch := none, fixed := 0, atoms := 0, clks := 0, badW := [], badRet := [] }

/-- A new warp of `n` threads at `pc` with the given s registers. -/
def Warp.new (s : Vector Word 64) (n : Nat) (pc : DWord) : Warp :=
  ⟨s, List.replicate n (Thread.new pc), 0, []⟩

/-- A level at its start, under its parent. -/
def Level.new (parent : Nat) : Level := ⟨parent, false, false, false, []⟩

def Timeline.new : Timeline := ⟨0, 0, []⟩

def Cluster.new : Cluster :=
  { ceQ := [], ceRun := none, ceStat := [], tls := Vector.replicate 5 Timeline.new, tileQ := [], tile := none, tileStat := [], tileK0 := [],
    granStat := [], msgs := [], gather := [], formed := [], itemSeq := 0, atomQ := [], m1Due := [], healthy := true, failed := false }

/-- What a unit holds before MEDGE and MFMT have set it (log entry 5). -/
def MatCfg.new : MatCfg := ⟨32, 32, 32, 0, 0, 0⟩
def MatUnit.new : MatUnit := ⟨[], MatCfg.new, []⟩
def Acc.new : Acc := ⟨0, []⟩
def GranUnit.new : GranUnit := ⟨[], none, []⟩
def Bank.new : Bank := ⟨false, false, false, 0, 0, 0, 0⟩
def PhCount.zero : PhCount := ⟨0, 0, 0, 0, 0⟩

/-- A function's registers at reset (Table 18-3): EVSIZE 64, CTXRES 1 with cause 0; the four vectors masked, as PCI Express has them (log entry 76); the
others 0 (log entry 5). -/
def FnRegs.new : FnRegs :=
  { ctxArg := 0, ctxRes := 1, ctxCause := 0, evBase := 0, evSize := 64, evHead := 0, evTail := 0, evFull := false,
    attNonce := [0, 0, 0, 0], attDst := 0, defer := [], msix := [(12, 1), (28, 1), (44, 1), (60, 1)], pend := [], destroying := none }

/-- A die at reset: STEP 0, STEPMIN 0, TRIP 105 (R396, R399); the others 0 (log entry 5). -/
def Die.new : Die :=
  { ready := [], step := 0, stepMin := 0, grants := [], temp := 0, hot := 0, trip := 105, stepDn := 0, short := 0, calm := 0,
    silo := 0, fence := 0 }

/-- The package at reset, at bring-up step 1 (R401, log entry 6): flash empty, CAP 7,500 (R399). -/
def Device.new : Device :=
  { ready := false, recovery := false, cfgdef := false, bringUp := 1, flash := [], bootSlot := [], fuses := 0, links := 0,
    linkDown := 0, vfs := 0, siloSrc := 0, siloDst := 0, siloLen := 0, siloLoad := none, apBase := 0, cap := 7500, draw := 0, granted := [],
    fid := 0, arrivals := 0, signed := 0 }

/-- The machine right after reset (R401): no context, no work, memories reading zero, every register of Table 18-3 and 18-6 at its
reset value. -/
def State.reset : State :=
  { agenda := [], pace := [], lastVote := 0, tags := 0, names := [], putOff := [], issues := [], clk := 0, mem := [], scr := [], poison := [], blocks := [],
    clusters := [], tlbs := [], mats := [], grans := [], dies := [], ctxs := [], launches := [], lidNext := 1, pairs := [],
    syncs := [], fns := [], irqs := [], banks := [], dev := Device.new, fwds := [], switches := [], outbox := [], flits := [], flitSeq := [] }

end Sys2Proof.Machine
end

