-- ==== Sys2Proof/Machine/Operands.lean ====
section
/-!
DEFINITION. Operand forms: who executes a pass and what it can read (R43 to R48), how results reach registers (R42), and the bypass latches
(R39).
-/

namespace Sys2Proof.Machine

/-- A participant: a lane thread, or the tile sequencer of a cluster. -/
inductive Lane where
  | thr (t : TRef)
  | tile (c : Nat)
  deriving DecidableEq, Repr

/-- What one participant of a pass sees: its thread, its warp's uniform registers, its block and context, the core it stands on, what
decoding depends on, whether its code is .syskernel code, its index in the warp and its tid, the clause's slot (R37), its block's scratchpad
region, its block's protection mode, and where the word stands. -/
structure Env where
  lane    : Lane
  th      : Thread
  uni     : Vector Word 64
  blk     : Nat
  ctx     : Nat
  core    : Nat
  dec     : DecodeCtx
  sys     : Bool
  m       : Nat
  tid     : Nat
  slot    : Nat
  scrBase : Nat
  scrSize : Nat
  prot    : Nat
  pc      : DWord
  idx     : Nat
  deriving DecidableEq, Repr

/-! ## Reading registers -/

/-- w register n; out of the file reads 0. -/
def Thread.rw (t : Thread) (n : Nat) : Word := (t.w[n]?).getD 0
/-- p register n; p7 reads as true (Table 1-8). -/
def Thread.rp (t : Thread) (n : Nat) : Bool := n % 8 == 7 || t.p.getLsbD (n % 8)
def Thread.rq (t : Thread) (n : Nat) : QReg := (t.q[n]?).getD QReg.zero
def Thread.rx (t : Thread) (n : Nat) : XReg := (t.x[n]?).getD XReg.zero
def Thread.ry (t : Thread) (n : Nat) : Word := (t.y[n]?).getD 0
def uniAt (u : Vector Word 64) (n : Nat) : Word := (u[n]?).getD 0

/-- The constants of Table 2-6, from 0xD0 up. -/
def constSel (n : Nat) : Word :=
  if n < 0xF0 then BitVec.ofNat 32 (n - 0xD0)
  else ([0x3F000000, 0x3F800000, 0x40000000, 0x40800000, 0xBF000000, 0xBF800000, 0xC0000000, 0xC0800000,
         0x3FB8AA3B, 0x3F317218, 0x40490FDB, 0x3E22F983, 0x7F800000, 0xFF800000, 0x7FC00000, 0xFFFFFFFF] : List Word).getD (n - 0xF0) 0

/-- A 32-bit operand (Table 2-6). In tile code 0xC5 to 0xC8 read zero (R43). -/
def Env.val (e : Env) (sel : BitVec 8) (lit : Word) : Word :=
  let n := sel.toNat
  if n < 0x80 then e.th.rw n
  else if n < 0xC0 then uniAt e.uni (n - 0x80)
  else if n < 0xC4 then e.th.ry (n - 0xC0)
  else if n = 0xCF then lit
  else if 0xD0 ≤ n then constSel n
  else if e.dec.tile then 0
  else if n = 0xC5 then BitVec.ofNat 32 e.tid
  else if n = 0xC6 then BitVec.ofNat 32 (e.tid / 8)
  else if n = 0xC7 then BitVec.ofNat 32 (e.tid % 8)
  else if n = 0xC8 then BitVec.ofNat 32 (e.tid / 32)
  else 0

/-- Register n of the w or s file a selector names. -/
def Env.reg (e : Env) (n : Nat) : Word := if n < 0x80 then e.th.rw n else uniAt e.uni (n - 0x80)

/-- A 64-bit operand in an even pair: the low word in the even register. -/
def Env.pair (e : Env) (sel : BitVec 8) : DWord := e.reg (sel.toNat + 1) ++ e.reg sel.toNat

/-- Operands A and B of a format A word. -/
def Env.a (e : Env) (f : FmtA) : Word := e.val f.a f.litA
def Env.b (e : Env) (f : FmtA) : Word := e.val f.b f.litB
/-- The register D reads as a third input or data (R42). -/
def Env.d (e : Env) (d : BitVec 7) : Word := e.th.rw d.toNat
/-- D and D + 1 as a 64-bit value. -/
def Env.d64 (e : Env) (d : BitVec 7) : DWord := e.th.rw (d.toNat + 1) ++ e.th.rw d.toNat
/-- The predicate a selector names in its low three bits (R82). -/
def Env.pred (e : Env) (sel : BitVec 8) : Bool := e.th.rp (sel.extractLsb' 0 3).toNat

/-- The 64-bit address of a format M access of `size` bytes (R47). -/
def Env.addrM (e : Env) (f : FmtM) (size : Int) : DWord := e.pair f.base + BitVec.ofInt 64 (f.off.toInt * size)
/-- The 32-bit offset of a format M access (R47). -/
def Env.offM (e : Env) (f : FmtM) (size : Int) : Word := e.val f.base f.lit + BitVec.ofInt 32 (f.off.toInt * size)

/-- A PC-relative target: the word's own address plus 4 × offset (R46, R48). -/
def relTarget (pc : DWord) (idx : Nat) (off : Int) : DWord := pc + BitVec.ofNat 64 (4 * idx) + BitVec.ofInt 64 (4 * off)

/-! ## Writing registers -/

/-- One register write. Writes to p7 are ignored (Table 1-8). A w register that is written holds no error any more (R369). -/
def Thread.put (t : Thread) : RegVal → Thread
  | .w n v => { t with w := t.w.setIfInBounds n v, badW := t.badW.filter (fun k => k != n) }
  | .p n v => if n % 8 = 7 then t else { t with p := if v then t.p ||| BitVec.twoPow 8 (n % 8) else t.p &&& ~~~BitVec.twoPow 8 (n % 8) }
  | .q n v => { t with q := t.q.setIfInBounds n v }

/-- Several register writes, in order. -/
def Thread.puts (t : Thread) (rs : List RegVal) : Thread := rs.foldl Thread.put t

/-- A result enters y0 and the older latches shift (R39). -/
def Thread.pushY (t : Thread) (v : Word) : Thread :=
  { t with y := #v[v, t.ry 0, t.ry 1, t.ry 2], yn := min (t.yn + 1) 4 }

/-- A predicate result as pushed (R39). -/
def boolWord (b : Bool) : Word := if b then 1 else 0

/-- Words for D, D + 1, … ; none with WBS set (R42). -/
def toW (wbs : Bool) (d : BitVec 7) (vs : List Word) : List RegVal :=
  if wbs then [] else vs.zipIdx.map (fun p => RegVal.w (d.toNat + p.2) p.1)
/-- The predicate D[2:0] names (R42). -/
def toP (wbs : Bool) (d : BitVec 7) (v : Bool) : List RegVal := if wbs then [] else [RegVal.p (d.toNat % 8) v]
/-- The q register D[1:0] names (R42). -/
def toQ (wbs : Bool) (d : BitVec 7) (v : QReg) : List RegVal := if wbs then [] else [RegVal.q (d.toNat % 4) v]

/-- The two words of a 64-bit value, low first. -/
def lohi (v : DWord) : List Word := [v.extractLsb' 0 32, v.extractLsb' 32 32]

/-! ## The slot interlock (R38) -/

/-- A register, as the interlock sees it. -/
inductive Reg where
  | w (n : Nat)
  | p (n : Nat)
  | q (n : Nat)
  deriving DecidableEq, Repr

def RegVal.reg : RegVal → Reg
  | .w n _ => .w n
  | .p n _ => .p n
  | .q n _ => .q n

/-- n consecutive w registers. -/
def wRun (n len : Nat) : List Reg := (List.range len).map (fun k => Reg.w (n + k))

/-- The thread registers a selector of a kind reads. -/
def SelKind.regs (kind : SelKind) (sel : BitVec 8) : List Reg :=
  let n := sel.toNat
  match kind with
  | .none => []
  | .val | .valNoLit => if n < 0x80 then [.w n] else []
  | .pair | .wpair | .k2 | .kop => if n < 0x80 then wRun n 2 else []
  | .w4 => wRun n 4
  | .w3 => wRun n 3
  | .pred => [.p (n % 8)]
  | .q => [.q (n % 4)]

/-- The thread registers D reads or writes. -/
def DKind.regs (kind : DKind) (wbs : Bool) (d : BitVec 7) : List Reg :=
  match kind with
  | .w len rd _ => if wbs && !rd then [] else wRun d.toNat len
  | .p => if wbs then [] else [.p (d.toNat % 8)]
  | .q => [.q (d.toNat % 4)]
  | _ => []

/-- The registers a word reads or writes in a thread. XRD and XWR reach w[x.base + A] (R84); conditional control and SEL read a predicate. -/
def touched (e : Env) (op : Op) (sh : Shape) : List Reg :=
  let o := op.info
  match sh with
  | .a f =>
    let more : List Reg :=
      match op with
      | .xrd | .xwr => [.w ((e.th.rx (f.b.toNat % 8)).base.toNat + (e.a f).toNat)]
      | .sel0 => [.p 0] | .sel1 => [.p 1] | .sel2 => [.p 2] | .sel3 => [.p 3]
      | _ => []
    DKind.regs o.dk f.wbs f.d ++ SelKind.regs o.ak f.a ++ SelKind.regs o.bk f.b ++ more
  | .m f => DKind.regs o.dk f.wbs f.d ++ SelKind.regs o.ak f.base
  | .c f =>
    match op with
    | .brIfP | .brIfNotP | .failIfP | .failIfNotP => [.p f.p.toNat]
    | _ => []
  | .t f => [.w f.d.toNat]
  | .w _ => []
  | .sw f => SelKind.regs o.ak f.f.a
  | .sb f => SelKind.regs .val (f.operand.extractLsb' 0 8) ++ SelKind.regs .val (f.operand.extractLsb' 8 8)

/-- The w registers a word reads in a thread (R42, R43, R84). -/
def readW (e : Env) (op : Op) (sh : Shape) : List Reg :=
  let o := op.info
  let data (d : BitVec 7) : List Reg := match o.dk with
    | .w n true _ => wRun d.toNat n
    | _ => []
  match sh with
  | .a f =>
    data f.d ++ SelKind.regs o.ak f.a ++ SelKind.regs o.bk f.b ++
      (match op with | .xrd => [.w ((e.th.rx (f.b.toNat % 8)).base.toNat + (e.a f).toNat)] | _ => [])
  | .m f => data f.d ++ SelKind.regs o.ak f.base
  | .c _ | .t _ | .w _ => []
  | .sw f => SelKind.regs o.ak f.f.a
  | .sb f => SelKind.regs .val (f.operand.extractLsb' 0 8) ++ SelKind.regs .val (f.operand.extractLsb' 8 8)

/-- The word reads a register or a return-stack entry of its thread that holds an uncorrectable error (R369). -/
def Env.badRead (e : Env) (op : Op) (sh : Shape) : Bool :=
  e.th.badW.any (fun n => (readW e op sh).contains (.w n)) ||
    (op == .ret && e.th.stack != [] && e.th.badRet.contains (e.th.stack.length - 1))

/-- A register the word touches is still owed by an undrained slot. -/
def Thread.owes (t : Thread) (rs : List Reg) : Bool :=
  t.owed.any (fun o => o.wr.any (fun r => rs.contains r.reg))

/-- The thread owes something to one of the slots of a mask. -/
def Thread.undrained (t : Thread) (mask : BitVec 6) : Bool := t.owed.any (fun o => o.slot < 6 && mask.getLsbD o.slot)

end Sys2Proof.Machine
end

