-- ==== Sys2Proof/Machine/Ops.lean ====
section
/-!
DEFINITION. The named operations over the state: threads and blocks, memory bytes, translation and the access checks (R136 to R142), the
threads' own view of memory (R144, R171), stores and requests in flight, and taking a fault and returning from one (R340 to R344).
-/

namespace Sys2Proof.Machine

/-! ## Threads, warps and blocks -/

def State.block? (s : State) (b : Nat) : Option Block := Tab.find s.blocks b

def Block.thread? (b : Block) (wp m : Nat) : Option Thread := (b.warps[wp]?).bind (fun w => w.threads[m]?)

def State.thread? (s : State) (t : TRef) : Option Thread := (s.block? t.blk).bind (fun b => b.thread? t.wp t.m)

def Block.updWarp (b : Block) (wp : Nat) (f : Warp → Warp) : Block := { b with warps := b.warps.modify wp f }

def Block.updThread (b : Block) (wp m : Nat) (f : Thread → Thread) : Block :=
  b.updWarp wp (fun w => { w with threads := w.threads.modify m f })

def State.updBlock (s : State) (b : Nat) (f : Block → Block) : State := { s with blocks := Tab.upd s.blocks b f }

def State.updThread (s : State) (t : TRef) (f : Thread → Thread) : State :=
  s.updBlock t.blk (fun b => b.updThread t.wp t.m f)

def State.updUni (s : State) (t : TRef) (f : Vector Word 64 → Vector Word 64) : State :=
  s.updBlock t.blk (fun b => b.updWarp t.wp (fun w => { w with s := f w.s }))

def State.cluster (s : State) (c : Nat) : Cluster := Tab.get Cluster.new s.clusters c

def State.updCluster (s : State) (c : Nat) (f : Cluster → Cluster) : State :=
  { s with clusters := Tab.put Cluster.new s.clusters c (f (s.cluster c)) }

def State.updCtx (s : State) (c : Nat) (f : Ctx → Ctx) : State := { s with ctxs := Tab.upd s.ctxs c f }

def State.updTile (s : State) (c : Nat) (f : TileRun → TileRun) : State :=
  s.updCluster c (fun k => { k with tile := k.tile.map f })

/-- The thread of a participant. -/
def State.lane? (s : State) : Lane → Option Thread
  | .thr t => s.thread? t
  | .tile c => (s.cluster c).tile.map TileRun.th

/-- Change a participant's thread. -/
def State.updLane (s : State) (l : Lane) (f : Thread → Thread) : State :=
  match l with
  | .thr t => s.updThread t f
  | .tile c => s.updTile c (fun r => { r with th := f r.th })

/-- Set a participant's thread. -/
def State.setLane (s : State) (l : Lane) (th : Thread) : State := s.updLane l (fun _ => th)

/-- The cluster of a core; a service core is numbered 1,024 + cluster (log entry 12). -/
def coreCluster (core : Nat) : Nat := if core < 1024 then core / 4 else core - 1024
/-- The die of a core (R11). -/
def coreDie (core : Nat) : Nat := coreCluster core / 64

/-- The slot and the class of a clause header (Table 2-1). -/
def hdrN (h : Word) : Nat := (h.extractLsb' 0 4).toNat
def hdrEC (h : Word) : Nat := (h.extractLsb' 4 2).toNat
def hdrWM (h : Word) : BitVec 6 := h.extractLsb' 6 6
def hdrSS (h : Word) : Nat := (h.extractLsb' 12 3).toNat
def hdrWB (h : Word) (i : Nat) : Bool := (1 ≤ i && i ≤ 15) && h.getLsbD (15 + i)
def hdrH (h : Word) : Bool := h.getLsbD 31

/-- The engine class by header field; in tile code class 2 is MAT (R34, R35). -/
def clsOf (tile : Bool) (ec : Nat) : Cls :=
  if ec = 0 then .gen else if ec = 1 then .mem else if ec = 3 then .sys else if tile then .mat else .xu

/-- The place of an address in its fetch line, in words (R33). -/
def linePos (pc : DWord) : Nat := (pc.toNat % 64) / 4

/-- The header of the clause an issue executes. -/
def Issue.hdr (i : Issue) : Word := i.line.getD (linePos i.pc) 0

/-- The address of the clause that follows (R33). -/
def nextClause (pc : DWord) (line : List Word) : DWord :=
  let p := linePos pc + 1 + hdrN (line.getD (linePos pc) 0)
  if p < 16 ∧ line.getD p 0 ≠ 0 then pc + BitVec.ofNat 64 (4 * (p - linePos pc))
  else BitVec.ofNat 64 (pc.toNat / 64 * 64 + 64)

/-- What a thread of a block sees (R26, R44, R149, R225, R323). -/
def envOf (b : Block) (w : Warp) (th : Thread) (t : TRef) (slot : Nat) (pc : DWord) (idx : Nat) : Env :=
  { lane := .thr t, th := th, uni := w.s, blk := t.blk, ctx := b.ctx, core := b.core,
    dec := { regs := b.regs, unif := b.unif, tile := false, solo := b.kind == .pair || b.kind == .item, pair := b.kind == .pair,
             yn := th.yn },
    sys := b.kind == .handler, m := t.m, tid := 32 * t.wp + t.m, slot := slot, scrBase := b.scrBase, scrSize := b.scrSize,
    prot := b.prot, pc := pc, idx := idx }

/-- What a participant sees at word `idx` of the clause at `pc`; none if it is gone. A tile program stands on its forking block (R247). -/
def State.env? (s : State) (l : Lane) (slot : Nat) (pc : DWord) (idx : Nat) : Option Env :=
  match l with
  | .thr t =>
    (s.block? t.blk).bind fun b => (b.warps[t.wp]?).bind fun w => (w.threads[t.m]?).map fun th => envOf b w th t slot pc idx
  | .tile c =>
    (s.cluster c).tile.bind fun r => (s.block? r.t.blk).map fun b =>
      { lane := l, th := r.th, uni := Vector.replicate 64 0, blk := r.t.blk, ctx := b.ctx, core := b.core,
        dec := { regs := 64, unif := 0, tile := true, solo := false, pair := false, yn := r.th.yn },
        sys := false, m := 0, tid := 32 * r.t.wp + r.t.m, slot := slot, scrBase := b.scrBase, scrSize := b.scrSize,
        prot := b.prot, pc := pc, idx := idx }

/-- The thread behind a participant: its own, or the one that forked the tile program. -/
def State.who (s : State) : Lane → TRef
  | .thr t => t
  | .tile c =>
    match (s.cluster c).tile with
    | some r => r.t
    | none => ⟨0, 0, 0⟩

/-- The block whose holdings count for an access: a twin's are its primary's (R366). -/
def State.holder (s : State) (b : Nat) : Nat :=
  match s.block? b with
  | some k => if k.primary then b else k.twin.getD b
  | none => b

/-- The blocks on a core. -/
def State.onCore (s : State) (core : Nat) : List Block := (s.blocks.filter (fun p => p.2.core == core && p.2.saved.isNone)).map (fun p => p.2)

/-! ## Orders of placement (R325) -/

/-- One level of the Hilbert map: the point, and what is left of the index. -/
def hilbertStep (s x y t : Nat) : Nat × Nat × Nat :=
  let rx := t / 2 % 2
  let ry := (t + rx) % 2
  let p : Nat × Nat := if ry = 0 then (if rx = 1 then (s - 1 - y, s - 1 - x) else (y, x)) else (x, y)
  (p.1 + s * rx, p.2 + s * ry, t / 4)

/-- hilbert(n, d) for n = 2^k. -/
def hilbert (k d : Nat) : Nat × Nat :=
  let r := (List.range k).foldl (fun (a : Nat × Nat × Nat) i => hilbertStep (2 ^ i) a.1 a.2.1 a.2.2) (0, 0, d)
  (r.1, r.2.1)

/-- The clusters in the package Hilbert order. -/
def packageOrder : List Nat :=
  (List.range 256).map (fun i => let p := hilbert 3 (i % 64); 64 * (i / 64) + 8 * p.2 + p.1)

/-- The next healthy cluster after a fenced one in package order, wrapping (R13); itself when there is none. -/
def State.standIn (s : State) (c : Nat) : Nat :=
  let p := packageOrder.idxOf c
  ((packageOrder.drop (p + 1) ++ packageOrder.take p).find? (fun k => (s.cluster k).healthy)).getD c

/-- What a job's logical clusters are held by when it starts: a cluster that is fenced then counts as fenced at once (R13, log entry 71). -/
def State.startCores (s : State) : Tab Nat := (s.clusters.filter (fun p => !p.2.healthy)).map (fun p => (p.1, s.standIn p.1))

/-- The job of a context's loaded phase. -/
def Ctx.phaseJob (c : Ctx) : Option Level :=
  (c.phase.bind (fun p => Tab.find c.phases p.id)).bind (fun l => Tab.find c.jobs l.parent)

/-- Which clusters other than their own hold logical clusters, for the job of a context's loaded phase (R13). -/
def State.heldCores (s : State) (ctx : Nat) : Tab Nat :=
  match (Tab.find s.ctxs ctx).bind Ctx.phaseJob with
  | some j => j.cores
  | none => s.startCores

/-- The physical core that holds a logical core (R13). -/
def State.physCore (s : State) (ctx k : Nat) : Nat := 4 * Tab.get (k / 4) (s.heldCores ctx) (k / 4) + k % 4

/-- The logical core on which work of a physical core counts (R13): the one with its own number where it holds that one, else the lowest that it holds
(log entry 66). A cluster that holds none keeps its own number. -/
def State.hereCore (s : State) (ctx core : Nat) : Nat :=
  if 1024 ≤ core then core
  else
    let held := s.heldCores ctx
    let mine (k : Nat) : Bool := Tab.get k held k == core / 4
    if mine (core / 4) then core
    else match (List.range 256).find? mine with
      | some k => 4 * k + core % 4
      | none => core

/-- A fenced cluster's logical cores go to the next healthy cluster in a job that lasts, whichever they are (R13). -/
def Level.refence (l : Level) (c heir : Nat) : Level :=
  if l.complete then l
  else { l with cores := (List.range 256).foldl (fun t k => if Tab.get k t k = c then Tab.put k t k heir else t) l.cores }

/-! ## Memory bytes -/

/-- The key of a physical byte: LOC × 2^52 + address. -/
def memKey (loc pa : Nat) : Nat := loc * 2 ^ 52 + pa

/-- One byte of a memory; an unlisted byte reads 0. -/
def Memory.byte (m : Memory) (k : Nat) : Byte := Tab.get 0 m k

/-- n bytes of a memory. -/
def Memory.bytes (m : Memory) (k n : Nat) : List Byte := (List.range n).map (fun i => m.byte (k + i))

/-- A memory with one byte written, in canonical form. -/
def Memory.set (m : Memory) (k : Nat) (v : Byte) : Memory := Tab.put 0 m k v

/-- A memory with several bytes written, in order. -/
def Memory.setAll (m : Memory) (kvs : List (Nat × Byte)) : Memory := kvs.foldl (fun m p => m.set p.1 p.2) m

/-- The canonical form of a memory: keys rising, no byte equal to what an unlisted one reads as. -/
def Memory.wf (m : Memory) : Bool := Tab.canonical (0 : Byte) m

/-- Granules that a write of these keys overwrites wholly lose their poison (R369, Table 16-9). -/
def clearPoison (odd : Nat) (kvs : List (Nat × Byte)) (ps : List Nat) : List Nat :=
  ps.filter (fun g => g % 2 ≠ odd || !(List.range 8).all (fun i => kvs.any (fun p => p.1 == g / 2 * 8 + i)))

/-- Bytes written to memory. -/
def State.memWrite (s : State) (kvs : List (Nat × Byte)) : State :=
  { s with mem := s.mem.setAll kvs, poison := clearPoison 0 kvs s.poison }

/-- Bytes written to scratchpad. -/
def State.scrWrite (s : State) (kvs : List (Nat × Byte)) : State :=
  { s with scr := s.scr.setAll kvs, poison := clearPoison 1 kvs s.poison }

/-- A byte of memory holds an uncorrectable error. -/
def State.memBad (s : State) (keys : List Nat) : Bool := keys.any (fun k => s.poison.contains (2 * (k / 8)))
def State.scrBad (s : State) (keys : List Nat) : Bool := keys.any (fun k => s.poison.contains (2 * (k / 8) + 1))

/-- The key of a scratchpad byte of a core (R134). -/
def scrKey (core off : Nat) : Nat := core * 262144 + off

/-- Bytes paired with consecutive keys. -/
def atKeys (k : Nat) (bs : List Byte) : List (Nat × Byte) := bs.zipIdx.map (fun p => (k + p.2, p.1))

/-- Little-endian words of bytes. -/
def bytesToWords : List Byte → List Word
  | a :: b :: c :: d :: t => (d ++ c ++ b ++ a : Word) :: bytesToWords t
  | _ => []

/-- Bytes of words. -/
def wordsToBytes (ws : List Word) : List Byte := (ws.map (fun w => leBytes 4 w.toNat)).flatten

/-! ## Page tables (R136, R137) -/

def pteV (p : DWord) : Bool := p.getLsbD 0
def pteW (p : DWord) : Bool := p.getLsbD 1
def pteX (p : DWord) : Bool := p.getLsbD 2
def pteLoc (p : DWord) : Nat := (p.extractLsb' 3 2).toNat
def pteFmt (p : DWord) : Nat := (p.extractLsb' 5 4).toNat
def pteGeo (p : DWord) : Nat := (p.extractLsb' 9 2).toNat
def pteSr (p : DWord) : Bool := p.getLsbD 11
def pteKind (p : DWord) : Nat := (p.extractLsb' 12 2).toNat
def pteBase (p : DWord) : Nat := (p.extractLsb' 16 36).toNat * 65536
def pteWin (p : DWord) : Int := (p.extractLsb' 52 8).toInt
def pteReserved (p : DWord) : Bool := p.extractLsb' 14 2 != 0 || p.extractLsb' 60 4 != 0

/-- The size of a leaf by its KIND. -/
def leafSize (kind : Nat) : Nat := if kind = 0 then 65536 else if kind = 1 then 2097152 else 536870912

/-- An entry of a page table at a physical address. -/
def entryAt (m : Memory) (pa : Nat) : DWord := BitVec.ofNat 64 (leVal (m.bytes pa 8))

/-- A leaf that passes its own checks, with the first address of its page. -/
def leafOk (va : Nat) (e : DWord) : Option TlbE :=
  let size := leafSize (pteKind e)
  if pteBase e % size ≠ 0 || pteReserved e then none else some ⟨0, va / size * size, size, e⟩

/-- The walk of R137 from a root; none is a translation fault. -/
def walk (m : Memory) (root : Nat) (va : DWord) : Option TlbE :=
  if va.extractLsb' 52 12 ≠ 0 then none
  else
    let e0 := entryAt m (root + 8 * (va.extractLsb' 42 10).toNat)
    if !pteV e0 || pteKind e0 ≠ 3 || pteReserved e0 then none
    else
      let e1 := entryAt m (pteBase e0 + 8 * (va.extractLsb' 29 13).toNat)
      if !pteV e1 || pteKind e1 < 2 || pteReserved e1 then none
      else if pteKind e1 = 2 then leafOk va.toNat e1
      else
        let e2 := entryAt m (pteBase e1 + 8 * (va.extractLsb' 16 13).toNat)
        if !pteV e2 || 1 < pteKind e2 then none else leafOk va.toNat e2

/-- Where the entries stand that the walk of R137 reads, in order. -/
def walkKeys (m : Memory) (root : Nat) (va : DWord) : List Nat :=
  if va.extractLsb' 52 12 ≠ 0 then []
  else
    let a0 := root + 8 * (va.extractLsb' 42 10).toNat
    let e0 := entryAt m a0
    if !pteV e0 || pteKind e0 ≠ 3 || pteReserved e0 then [a0]
    else
      let a1 := pteBase e0 + 8 * (va.extractLsb' 29 13).toNat
      let e1 := entryAt m a1
      if !pteV e1 || pteKind e1 < 3 || pteReserved e1 then [a0, a1] else [a0, a1, pteBase e1 + 8 * (va.extractLsb' 16 13).toNat]

/-- The peer table entry that a LOC 3 address names: FID, function and base (R392); none past NPEERS. -/
def peerOf (m : Memory) (c : Ctx) (pa : Nat) : Option (Nat × Nat × DWord) :=
  let i := pa / 2 ^ 40
  if c.npeers ≤ i then none
  else
    let e := m.bytes (c.peers.toNat + 16 * i) 16
    some (leVal (e.take 3), (e.getD 3 0).toNat % 16, BitVec.ofNat 64 (leVal (e.drop 8)))

/-- The entry of the peer table that a LOC 3 address names holds an uncorrectable error (R369). -/
def State.peerBad (s : State) (ctx pa : Nat) : Bool :=
  match Tab.find s.ctxs ctx with
  | none => false
  | some c => s.memBad ((List.range 16).map (fun j => c.peers.toNat + 16 * (pa / 2 ^ 40) + j))

/-- A physical address within the range that LOC selects (R137, R392). -/
def inRange (m : Memory) (c : Ctx) (loc pa : Nat) : Bool :=
  match loc with
  | 0 => decide (pa < Config.hbmBytes)
  | 1 => decide (pa < Config.siloBytes)
  | 2 => true
  | _ => (peerOf m c pa).isSome

/-- The TLB entry of a core for an address, if it holds one (R140). -/
def State.tlbHit (s : State) (core ctx : Nat) (va : DWord) : Option TlbE :=
  (Tab.get [] s.tlbs core).find? (fun e => e.ctx == ctx && decide (e.base ≤ va.toNat) && decide (va.toNat < e.base + e.size))

/-- A core's TLB with an entry filled; it keeps 256, the newest first (R140, log entry 13). -/
def State.tlbFill (s : State) (core : Nat) (e : TlbE) : State :=
  { s with tlbs := Tab.put [] s.tlbs core ((e :: Tab.get [] s.tlbs core).take 256) }

/-- An entry that a translation walks through holds an uncorrectable error (R369, log entry 17). -/
def State.walkBad (s : State) (ctx : Nat) (va : DWord) : Bool :=
  match Tab.find s.ctxs ctx with
  | none => false
  | some c => s.memBad (walkKeys s.mem c.root va)

/-- Translation at a core: its TLB, or a walk that fills it (R137, R140). The key of the byte and the leaf entry. -/
def State.translate (s : State) (core ctx : Nat) (va : DWord) : State × Option (Nat × DWord) :=
  match Tab.find s.ctxs ctx with
  | none => (s, none)
  | some c =>
    let hit := s.tlbHit core ctx va
    match (hit.orElse fun _ => (walk s.mem c.root va).map (fun e => { e with ctx := ctx })) with
    | none => (s, none)
    | some e =>
      let s' := if hit.isSome then s else s.tlbFill core e
      let pa := pteBase e.pte + (va.toNat - e.base)
      if va.extractLsb' 52 12 = 0 ∧ inRange s.mem c (pteLoc e.pte) pa then (s', some (memKey (pteLoc e.pte) pa, e.pte)) else (s', none)

/-! ## Access checks (R139) -/

/-- What an instruction wants of an access. -/
inductive Access where
  | read | write | rw | fetch
  deriving DecidableEq, Repr

/-- The access stores bytes. -/
def Access.writes (a : Access) : Bool := a == .write || a == .rw

/-- The detail of a fault (Tables 16-1, 16-2): its cause, failing address, TRAP immediate, and whether the access was a write or a fetch. -/
structure FInfo where
  cause : Nat
  va    : Option DWord
  imm   : Option (BitVec 24)
  wr    : Bool
  fetch : Bool
  deriving DecidableEq, Repr

/-- A fault without an address. -/
def FInfo.of (cause : Nat) : FInfo := ⟨cause, none, none, false, false⟩
/-- A fault of an access. -/
def FInfo.acc (cause : Nat) (va : DWord) (a : Access) : FInfo := ⟨cause, some va, none, a.writes, a == .fetch⟩

/-- Permission of an access to a leaf (R139, R392); `atom` for the accesses that reach HBM only (R173, R182). One that reads and writes needs both (log
entry 70). -/
def permitted (pte : DWord) (a : Access) (atom : Bool) : Bool :=
  let hbm := !(atom && pteLoc pte != 0)
  match a with
  | .fetch => pteX pte && pteLoc pte != 3
  | .read => hbm && pteLoc pte != 3
  | .write => pteW pte && pteLoc pte != 1 && hbm
  | .rw => pteW pte && pteLoc pte != 1 && pteLoc pte != 3 && hbm

/-- Two byte ranges overlap. -/
def overlaps (a la b lb : Nat) : Bool := decide (a < b + lb) && decide (b < a + la) && decide (0 < la) && decide (0 < lb)

/-- Holders and waiters of a sync object by its key: (block, exclusive). -/
def State.sync (s : State) (obj : Nat) : List (Nat × Bool) × List (Nat × Bool) := Tab.get ([], []) s.syncs obj

/-- The block holds the object exclusively. -/
def State.holdsX (s : State) (blk obj : Nat) : Bool := (s.sync obj).1.contains (s.holder blk, true)

/-- A write to a bound region whose object the block does not hold exclusively (R179). -/
def State.unheld (s : State) (ctx blk : Nat) (va : DWord) (n : Nat) : Bool :=
  match Tab.find s.ctxs ctx with
  | none => false
  | some c => c.bound.any (fun r => overlaps r.2.1 r.2.2 va.toNat n && !s.holdsX blk r.1)

/-- An address range cut at 64 KiB frames, in ascending order. -/
def frames : Nat → DWord → Nat → List (DWord × Nat)
  | 0, _, _ => []
  | k + 1, va, n =>
    let room := 65536 - va.toNat % 65536
    if n ≤ room then [(va, n)] else (va, room) :: frames k (va + BitVec.ofNat 64 room) (n - room)

/-- What an access asks of its pages: its kind, whether it reaches HBM only, which leaf formats it may reach (R138), and whether bound regions
are checked with it (R179). -/
structure Want where
  acc   : Access
  atom  : Bool
  fmt   : DWord → Bool
  bound : Bool

/-- One page part of an access checked in the order of R139: translation, permission, format, unheld write. An uncorrectable error that the walk meets is
consumed by the access, and so is one in the peer table's entry (R369). -/
def State.checkPart (s : State) (core ctx blk : Nat) (w : Want) (va : DWord) (n : Nat) : State × Except FInfo (Nat × DWord) :=
  if (s.tlbHit core ctx va).isNone && s.walkBad ctx va then (s, .error (.acc 0x10 va w.acc)) else
  match s.translate core ctx va with
  | (s', none) => (s', .error (.acc 0x07 va w.acc))
  | (s', some (k, pte)) =>
    if !permitted pte w.acc w.atom then (s', .error (.acc 0x08 va w.acc))
    else if !w.fmt pte then (s', .error (.acc 0x09 va w.acc))
    else if w.bound && w.acc.writes && s'.unheld ctx blk va n then (s', .error (.acc 0x0B va w.acc))
    else if pteLoc pte == 3 && s'.peerBad ctx (k - memKey 3 0) then (s', .error (.acc 0x10 va w.acc))
    else (s', .ok (k, pte))

/-- The parts of an access checked in ascending order: the keys of its bytes and the leaf entry of each part. -/
def State.checkParts (s : State) (core ctx blk : Nat) (w : Want) : List (DWord × Nat) → State × Except FInfo (List Nat × List DWord)
  | [] => (s, .ok ([], []))
  | (va, n) :: ps =>
    match s.checkPart core ctx blk w va n with
    | (s', .error e) => (s', .error e)
    | (s', .ok (k, pte)) =>
      match s'.checkParts core ctx blk w ps with
      | (s'', .error e) => (s'', .error e)
      | (s'', .ok (ks, es)) => (s'', .ok ((List.range n).map (fun i => k + i) ++ ks, pte :: es))

/-- An access of n bytes by a core for a block, alignment first (R139): the keys of its bytes and the leaf entries. -/
def State.access (s : State) (core ctx blk : Nat) (w : Want) (align : Nat) (va : DWord) (n : Nat) :
    State × Except FInfo (List Nat × List DWord) :=
  if va.toNat % align ≠ 0 then (s, .error (.acc 0x06 va w.acc))
  else s.checkParts core ctx blk w (frames (n / 65536 + 2) va n)

/-- RAW pages only (Table 5-3). -/
def fmtRaw (pte : DWord) : Bool := pteFmt pte == 0

/-! ## Recording for re-runs (R377 to R379) -/

/-- The launch records or re-runs: it carries the RECORD flag (Table 15-4). -/
def Launch.records (l : Launch) : Bool := l.desc.lflags.getLsbD 3

/-- The context and the launch of a block whose launch carries the flag. -/
def State.recorder (s : State) (blk : Nat) : Option (Block × Ctx × Launch) :=
  (s.block? blk).bind fun b => (Tab.find s.launches b.lid).bind fun l =>
    if l.records then (Tab.find s.ctxs b.ctx).map (fun c => (b, c, l)) else none

/-- RECCTL.MODE: a re-run. -/
def Ctx.rerun (c : Ctx) : Bool := c.recctl.getLsbD 0

/-- Bytes of the log. -/
def Ctx.recBytes (c : Ctx) : Nat := c.recsize.toNat * 65536

/-- The log has room for n bytes more. -/
def Ctx.recRoom (c : Ctx) (n : Nat) : Bool := decide (c.recpos + n ≤ c.recBytes)

/-- The key of a byte of a context's memory on a RAW page. -/
def State.rawKey (s : State) (c : Ctx) (va : DWord) : Option Nat :=
  match walk s.mem c.root va with
  | some e => if pteFmt e.pte = 0 then some (memKey (pteLoc e.pte) (pteBase e.pte + (va.toNat - e.base))) else none
  | none => none

/-- The bytes of n bytes from an address, those of no RAW page reading 0. -/
def State.rawBytes (s : State) (c : Ctx) (va : DWord) (n : Nat) : List Byte :=
  ((frames (n / 65536 + 2) va n).map (fun p => match s.rawKey c p.1 with
    | some k => s.mem.bytes k p.2
    | none => List.replicate p.2 0)).flatten

/-- 64 bytes go to the log where it stands (log entry 27). -/
def State.recPut (s : State) (ctx : Nat) (bs : List Byte) : State :=
  match Tab.find s.ctxs ctx with
  | none => s
  | some c =>
    let s := (frames (bs.length / 65536 + 2) (c.recbase + BitVec.ofNat 64 c.recpos) bs.length).foldl (fun (a : State × List Byte) p =>
      ((match s.rawKey c p.1 with | some k => a.1.memWrite (atKeys k (a.2.take p.2)) | none => a.1), a.2.drop p.2)) (s, bs)
    s.1.updCtx ctx (fun c => { c with recpos := c.recpos + bs.length })

/-- Content padded to a multiple of 64 bytes. -/
def pad64 (bs : List Byte) : List Byte := bs ++ List.replicate ((64 - bs.length % 64) % 64) 0

/-- A log entry (Table 16-13) of type 1 to 3 with its content. -/
def recContent (type lid order : Nat) (addr : DWord) (content : List Byte) : List Byte :=
  leBytes 4 type ++ leBytes 4 content.length ++ leBytes 8 (lid % 2 ^ 48) ++ leBytes 8 order ++ leBytes 8 addr.toNat ++
    (Config.shake256 32 content ++ List.replicate 32 0).take 32 ++ pad64 content

/-- A log entry of type 4 or 5: a value that a thread of a block took. -/
def recValue (type lid idx tid : Nat) (addr v : DWord) : List Byte :=
  leBytes 4 type ++ leBytes 4 0 ++ leBytes 8 (lid % 2 ^ 48) ++ leBytes 8 (idx % 2 ^ 32 + tid * 2 ^ 32) ++ leBytes 8 addr.toNat ++
    leBytes 8 v.toNat ++ List.replicate 24 0

/-- An entry as a re-run reads it. -/
structure RecEntry where
  type    : Nat
  launch  : Nat
  order   : Nat
  addr    : DWord
  tail    : List Byte
  content : List Byte

/-- The entries of a log from a place on, up to the first that is none. -/
def State.recEntries (s : State) (c : Ctx) : Nat → Nat → List RecEntry
  | 0, _ => []
  | fuel + 1, off =>
    let h := s.rawBytes c (c.recbase + BitVec.ofNat 64 off) 64
    let n (o k : Nat) : Nat := leVal ((h.drop o).take k)
    if c.recBytes < off + 64 ∨ n 0 1 = 0 ∨ 5 < n 0 1 then []
    else
      let len := if n 0 1 ≤ 3 then n 4 4 else 0
      ⟨n 0 1, n 8 6, n 0x10 8, BitVec.ofNat 64 (n 0x18 8), h.drop 0x20, s.rawBytes c (c.recbase + BitVec.ofNat 64 (off + 64)) len⟩ ::
        s.recEntries c fuel (off + 64 + (len + 63) / 64 * 64)

/-- The log of a context. -/
def State.recLog (s : State) (c : Ctx) : List RecEntry := s.recEntries c (c.recBytes / 64) 0

/-- The k-th value of a type that the log holds for a thread of a logged launch, k from 1. -/
def State.recNth (s : State) (c : Ctx) (type launch idx tid k : Nat) : Option DWord :=
  (((s.recLog c).filter (fun r => r.type == type && r.launch == launch && r.order == idx % 2 ^ 32 + tid * 2 ^ 32))[k - 1]?).map
    (fun r => BitVec.ofNat 64 (leVal (r.tail.take 8)))

/-- The launches of the log, by the LAUNCH of their descriptor entries, in log order. -/
def recLaunches (log : List RecEntry) : List Nat := (log.filter (fun r => r.type == 1)).map (fun r => r.launch)

/-- The launch of the log that a launch re-runs. -/
def Ctx.logged (c : Ctx) (lid : Nat) : Option Nat := (c.recmap.find? (fun p => p.1 == lid)).map (fun p => p.2)

/-- A value that a thread's launch logs, or takes from the log on a re-run (R379). -/
def State.recTake (s : State) (t : TRef) (type k : Nat) (addr v : DWord) : State × DWord :=
  match s.recorder t.blk with
  | none => (s, v)
  | some (b, c, _) =>
    let tid := 32 * t.wp + t.m
    if c.rerun then (s, ((c.logged b.lid).bind (fun l => s.recNth c type l b.idx tid k)).getD v)
    else if !b.primary then (s, v)
    else (s.recPut b.ctx (recValue type b.lid b.idx tid addr v), v)

/-- Value-returning ATOMs of a context's recording launches that are on their way. -/
def State.recDue (s : State) (ctx : Nat) : Nat :=
  (s.clusters.map (fun p => (p.2.atomQ.map (fun r => (r.parts.filter (fun q => q.nth != 0 && (match s.recorder q.t.blk with
    | some (b, _, _) => b.ctx == ctx
    | none => false))).length)).sum)).sum

/-- The log is full for n values more of a block's threads (R377). -/
def State.recFull (s : State) (blk n : Nat) : Bool :=
  match s.recorder blk with
  | none => false
  | some (b, c, _) => !c.rerun && !c.recRoom (64 * (s.recDue b.ctx + n))

/-! ## The service warp's merged requests (R184 to R187) -/

/-- The request is an ATOM's. -/
def ReqKind.isAtom : ReqKind → Bool
  | .atom _ => true
  | _ => false

/-- Bytes of a request's location by its kind (R182). -/
def ReqKind.size : ReqKind → Nat
  | .atom .add64 | .atom .cas64 | .atom .exch64 => 8
  | .atom _ => 4
  | _ => 16

/-- The new value at the address for one participant of an ATOM other than FADD2 (Table 6-3). Operands come as words. -/
def atomApply (op : AtomOp) (old : Nat) (x : List Word) : Nat :=
  let d := x.getD 0 0
  let d64 := (x.getD 1 0).toNat * 2 ^ 32 + d.toNat
  let o : Word := BitVec.ofNat 32 old
  match op with
  | .add => (o + d).toNat
  | .maxI => if sx o < sx d then d.toNat else old
  | .minI => if sx d < sx o then d.toNat else old
  | .exch => d.toNat
  | .cas => if o = d then (x.getD 1 0).toNat else old
  | .or => (o ||| d).toNat
  | .and => (o &&& d).toNat
  | .fadd2 => old
  | .add64 => (old + d64) % 2 ^ 64
  | .cas64 => if old = d64 then (x.getD 3 0).toNat * 2 ^ 32 + (x.getD 2 0).toNat else old
  | .exch64 => d64

/-- One half of ATOM.FADD2: old plus the exact sum of the operands, rounded once (R185). -/
def fadd2Half (old : Word) (xs : List Word) (h : Nat) : Nat :=
  let sum := xs.foldl (fun acc x => NumVal.add false acc (bf16 x h)) (.fin false 0 0)
  match NumVal.add false (bf16 old h) sum with
  | .fin _ 0 _ => 0
  | r => fmtBf16.round .rn r

/-- A merged request performed on a memory (R184): the memory after it and each participant's returned words. A bin whose bits 127 to 124 raw writes have
made nonzero keeps them, and BINRD shows them (R113 says only that they are 0; log entry 82). -/
def serve (m : Memory) (r : AtomReq) : Memory × List (TRef × Nat × List Word) :=
  let size := r.kind.size
  let old := leVal (m.bytes r.key size)
  let bin : BinBits := BitVec.ofNat 128 old
  let wordsOf (v : Nat) : List Word := if size = 8 then lohi (BitVec.ofNat 64 v) else [BitVec.ofNat 32 v]
  match r.kind with
  | .atom .fadd2 =>
    let w : Word := BitVec.ofNat 32 old
    let xs := r.parts.map (fun p => p.opnd.getD 0 0)
    let new := packHalves (fadd2Half w xs 0) (fadd2Half w xs 1)
    (m.setAll (atKeys r.key (leBytes 4 new.toNat)), r.parts.map (fun p => (p.t, p.tag, [w])))
  | .atom op =>
    let step := r.parts.foldl (fun (acc : Nat × List (TRef × Nat × List Word)) p =>
      (atomApply op acc.1 p.opnd, acc.2 ++ [(p.t, p.tag, wordsOf acc.1)])) (old, [])
    (m.setAll (atKeys r.key (leBytes size step.1)), step.2)
  | .redxF =>
    let b := r.parts.foldl (fun b p => contribute b r.win (f32 (p.opnd.getD 0 0))) bin
    (m.setAll (atKeys r.key (leBytes 16 b.toNat)), [])
  | .redxI =>
    let b := r.parts.foldl (fun b p => binSetValue b (binValue b + sx (p.opnd.getD 0 0))) bin
    (m.setAll (atKeys r.key (leBytes 16 b.toNat)), [])
  | .binrd => (m, r.parts.map (fun p => (p.t, p.tag, [drainF32 bin r.win, (bin.extractLsb' 120 8).setWidth 32])))
  | .binclr => (m.setAll (atKeys r.key (leBytes 16 0)), [])

/-! ## A thread's own view of memory -/

/-- The bytes of a store that stay on the device, by key. -/
def StoreOp.cells (o : StoreOp) : List (Nat × Byte) :=
  if o.peer.isSome then (o.keys.zip o.data).filter (fun p => decide (p.1 < memKey 3 0)) else o.keys.zip o.data

/-- Cells as runs of consecutive keys, in order. -/
def runsOf : List (Nat × Byte) → List (Nat × List Byte)
  | [] => []
  | (k, b) :: t =>
    match runsOf t with
    | (k', bs) :: rs => if k' = k + 1 then (k, b :: bs) :: rs else (k, [b]) :: (k', bs) :: rs
    | [] => [(k, [b])]

/-- The bytes of a store that go to peers: one message for each run of consecutive addresses; of two bytes for one place the later stands (R144, R327,
R392, log entry 58). -/
def StoreOp.away (o : StoreOp) : List (Nat × List Byte) :=
  if o.peer.isSome then runsOf (((o.keys.zip o.data).filter (fun p => decide (memKey 3 0 ≤ p.1))).foldl (fun (m : Tab Byte) (p : Nat × Byte) => Tab.ins m p.1 p.2) []) else []

/-- The part of a store at some bytes. -/
def StoreOp.only (o : StoreOp) (pick : Nat → Bool) : StoreOp :=
  let ps := (o.keys.zip o.data).filter (fun p => pick p.1)
  { o with keys := ps.map (fun p => p.1), data := ps.map (fun p => p.2) }

/-- A store of a thread, alone or with others of its issue. -/
def StoreOp.by (o : StoreOp) (u t : TRef) : Bool := u == t || (match o.peer with | some p => p.2.contains t | none => false)

/-- The threads of a store. -/
def StoreOp.threads (o : StoreOp) (u : TRef) : List TRef := match o.peer with | some p => p.2 | none => [u]

/-- One bin of memory takes an engine's addition (R114). -/
def Memory.addBin (m : Memory) (key : Nat) (win : Int) (x y : Word) : Memory :=
  m.setAll (atKeys key (leBytes 16 (contribute (BitVec.ofNat 128 (leVal (m.bytes key 16))) win (NumVal.mul (f32 x) (f32 y))).toNat))

/-- What an entry of the held list does to memory (R199). -/
def HeldAct.apply (m : Memory) : HeldAct → Memory
  | .store op => m.setAll op.cells
  | .req r => (serve m r).1
  | .rel _ => m

/-- The block whose held operations are in force for a block: for one of a pair launch, which is an engine's work, the block that issued the launch
(R199, R200, R212). -/
def State.origin (s : State) (blk : Nat) : Nat :=
  match s.block? blk with
  | none => blk
  | some b => match b.kind, Tab.find s.pairs b.lid with
    | .pair, some p => p.blk
    | _, _ => blk

/-- Memory as the engines and tile programs of a block see it: they observe what was kept before their issue, the block's held operations
included (R199, R200). -/
def State.heldView (s : State) (blk : Nat) : Memory :=
  match s.block? (s.origin blk) with
  | none => s.mem
  | some b => b.held.foldl (fun m h => HeldAct.apply m h.act) s.mem

/-- Memory as the threads of a block see it: its held operations, then the stores that have become visible in it (R170, R199). -/
def State.blockView (s : State) (blk : Nat) : Memory :=
  match s.block? blk with
  | none => s.heldView blk
  | some b => b.out.foldl (fun m p => m.setAll p.2.cells) (s.heldView blk)

/-- Memory as a thread sees it: its block's, then its own stores that no other thread sees yet (R144, R171). -/
def State.view (s : State) (t : TRef) : Memory :=
  let m := s.blockView t.blk
  match s.thread? t with
  | none => m
  | some th => th.stq.foldl (fun m o => m.setAll o.cells) m

/-! ## Records of faults, and arrivals under a phase -/

/-- A record waits in its context for room in the fault queue (R346). -/
def State.report (s : State) (ctx : Nat) (r : FRec) (u : FUnit) : State :=
  s.updCtx ctx (fun c => { c with waiting := c.waiting ++ [⟨r, u⟩] })

/-- The launch id and the linear index of a block, running or ended, for records. -/
def State.nameOf (s : State) (blk : Nat) : Nat × Nat := (Tab.find s.names blk).getD (0, 0)

/-- A failed engine operation's record: cause, address, the issuing thread and the operation's number (R345). -/
def State.engineReport (s : State) (ctx src : Nat) (t : TRef) (cause : Nat) (va : Option DWord) (wr : Bool) (item : Nat) (u : FUnit) : State :=
  let r := s.nameOf t.blk
  s.report ctx ⟨cause, 0, src, (if va.isSome then 1 else 0) + (if wr then 64 else 0), 32 * t.wp + t.m, r.1, r.2, va.getD 0, item⟩ u

/-- A 32-bit signed counter. -/
def wrap32 (v : Int) : Int := (BitVec.ofInt 32 v).toInt

def PhCount.add (a b : PhCount) : PhCount :=
  ⟨wrap32 (a.msg + b.msg), wrap32 (a.task + b.task), wrap32 (a.eng + b.eng), wrap32 (a.store + b.store), wrap32 (a.arr + b.arr)⟩
/-- Every counter is 0 or less: the line is high. -/
def PhCount.high (c : PhCount) : Bool :=
  decide (c.msg ≤ 0) && decide (c.task ≤ 0) && decide (c.eng ≤ 0) && decide (c.store ≤ 0) && decide (c.arr ≤ 0)
/-- A counter is below 0. -/
def PhCount.under (c : PhCount) : Bool :=
  decide (c.msg < 0) || decide (c.task < 0) || decide (c.eng < 0) || decide (c.store < 0) || decide (c.arr < 0)

/-- A counter below 0 sets ERR. -/
def Phase.mark (p : Phase) : Phase := { p with err := p.err || p.counts.any (fun x => x.2.under) }

/-- One more count for a core. -/
def addCount (t : Tab PhCount) (core : Nat) (d : PhCount) : Tab PhCount :=
  Tab.put PhCount.zero t core ((Tab.get PhCount.zero t core).add d)

/-- An arrival tagged with a phase id lowers counters of a logical core (R196). -/
def Phase.arrive (p : Phase) (id core : Nat) (d : PhCount) : Phase :=
  if id = p.id then { p with counts := addCount p.counts core d }.mark
  else if id = p.next ∧ p.next ≠ 0 then { p with pending := addCount p.pending core d }
  else { p with err := true }

/-- An arrival in a context; with no phase loaded it is dropped. -/
def State.phArrive (s : State) (ctx id core : Nat) (d : PhCount) : State :=
  s.updCtx ctx (fun c => { c with phase := c.phase.map (fun p => p.arrive id core d) })

/-- An arrival made on the device counts in the phase current at that moment (log entry 19), on a logical core that its physical one holds (R13, log
entry 66). -/
def State.phHere (s : State) (ctx core : Nat) (d : PhCount) : State :=
  match (Tab.find s.ctxs ctx).bind (fun c => c.phase) with
  | none => s
  | some p => s.phArrive ctx p.id (s.hereCore ctx core) d

/-! ## Stores on their way (R170, R181) -/

/-- The links that still carry traffic towards a device (R395, R399, log entry 67). -/
def State.routeTo (s : State) (fid : Nat) : Bool := (s.dev.links &&& ~~~s.dev.linkDown &&& Config.linksTo fid) != 0

/-- The device itself, or one that a link still leads to. -/
def State.reaches (s : State) (fid : Nat) : Bool := fid == s.dev.fid || s.routeTo fid

/-- The function of a context. -/
def State.fnOf (s : State) (ctx : Nat) : Nat := match Tab.find s.ctxs ctx with | some c => c.fn | none => 0

/-- What a message puts into its flits (Table 18-5): class, destination, ADDR, tag and payload. -/
structure Packet where
  cls  : Nat
  dst  : Nat × Nat
  addr : DWord
  tag  : PhaseTag
  data : List Byte

/-- What goes over the links of a message (R327, R394). -/
def OutMsg.packet : OutMsg → Option Packet
  | .m0 fid fn tag data => some ⟨0, (fid, fn), 0, tag, data⟩
  | .m0done fid fn => some ⟨2, (fid, fn), 0, ⟨false, 0, 0⟩, Config.m2Payload 1 []⟩
  | .m1 fid fn va tag data => some ⟨1, (fid, fn), va, tag, data⟩
  | .m1ack fid fn cause va => some ⟨2, (fid, fn), 0, ⟨false, 0, 0⟩, Config.m2Payload 0 [cause, va.toNat]⟩
  | .m2phase fid fn id => some ⟨2, (fid, fn), 0, ⟨false, 0, 0⟩, Config.m2Payload 2 [id]⟩
  | .m3 gid _ seq win bins =>
    some ⟨3, ((Config.switchOf gid).toNat, 0), BitVec.ofNat 64 (gid * 2 ^ 32 + seq), ⟨false, 0, 0⟩, Config.m3Payload win bins⟩
  | .m3withdraw gid _ seq =>
    some ⟨3, ((Config.switchOf gid).toNat, 0), BitVec.ofNat 64 (gid * 2 ^ 32 + seq), ⟨false, 0, 0⟩, Config.m3Payload 0 []⟩
  | .ur _ | .crs _ | .readData _ _ => none

/-- Payload bytes of a flit at most. -/
def flitBytes : Nat := 224

/-- Data cut into the payloads of flits, one at least (R327). -/
def cutPayload : Nat → List Byte → List (List Byte)
  | 0, bs => [bs.take flitBytes]
  | n + 1, bs => if bs.length ≤ flitBytes then [bs] else bs.take flitBytes :: cutPayload n (bs.drop flitBytes)

/-- The flits of a packet from a source, numbered on from the SEQ given last. -/
def Packet.flits (p : Packet) (src : Nat × Nat) (seq : Nat) : List Flit :=
  let ps := cutPayload (p.data.length / flitBytes) p.data
  ps.zipIdx.map (fun x =>
    { cls := p.cls, first := x.2 == 0, last := x.2 + 1 == ps.length, cnt := p.tag.cnt, src := src, dst := p.dst, seq := (seq + 1 + x.2) % 2 ^ 32,
      addr := p.addr, phase := if p.tag.cnt then p.tag.phase else 0, dcore := if p.tag.cnt then p.tag.dcore else 0, payload := x.1 })

/-- The 256 bytes of a flit (Table 18-5). -/
def Flit.bytes (f : Flit) : List Byte :=
  leBytes 1 f.cls ++ leBytes 1 ((if f.first then 1 else 0) + (if f.last then 2 else 0) + (if f.cnt then 4 else 0)) ++ leBytes 2 f.payload.length ++
    leBytes 4 (f.src.1 + f.src.2 * 2 ^ 24) ++ leBytes 4 (f.dst.1 + f.dst.2 * 2 ^ 24) ++ leBytes 4 f.seq ++ leBytes 8 f.addr.toNat ++
    leBytes 6 f.phase ++ leBytes 2 f.dcore ++ f.payload ++ List.replicate (flitBytes - f.payload.length) 0

/-- Where the SEQ of a source function, destination and class stands. -/
def seqKey (fn : Nat) (dst : Nat × Nat) (cls : Nat) : Nat := cls + 4 * (fn + 32 * (dst.2 + 32 * dst.1))

/-- A message of a function goes out: over the links in flits, numbered for its source, destination and class (R394). -/
def State.send (s : State) (fn : Nat) (m : OutMsg) : State :=
  let s := { s with outbox := s.outbox ++ [m] }
  match m.packet with
  | none => s
  | some p =>
    let key := seqKey fn p.dst p.cls
    let last := Tab.get 0 s.flitSeq key
    let fs := p.flits (s.dev.fid, fn) last
    { s with flits := s.flits ++ fs, flitSeq := Tab.put 0 s.flitSeq key ((last + fs.length) % 2 ^ 32) }

/-- A held operation without what has been performed of it at some bytes: a store writes the others, a request none. -/
def HeldAct.under (keys : List Nat) : HeldAct → HeldAct
  | .store o => .store (o.only (fun k => !keys.contains k))
  | .req r => if keys.contains r.key then .store ⟨[], [], none⟩ else .req r
  | .rel obj => .rel obj

/-- The bytes of this device that a held operation writes. -/
def HeldAct.keys : HeldAct → List Nat
  | .store o => o.cells.map (fun p => p.1)
  | .req r => (List.range r.kind.size).map (fun i => r.key + i)
  | .rel _ => []

/-- Some bytes with those of the held requests at them. -/
def Block.spread (b : Block) (keys : List Nat) : List Nat :=
  keys ++ b.held.flatMap (fun h => match h.act with
    | .req r => if h.act.keys.any (fun k => keys.contains k) then (List.range r.kind.size).map (fun i => r.key + i) else []
    | _ => [])

/-- The bytes that a block's held operations at some bytes write there: requests to places of 4, 8 and 16 bytes may overlap. -/
def Block.heldAt (b : Block) (keys : List Nat) : List Nat :=
  let all := b.spread (b.spread keys)
  ((b.held.flatMap (fun h => h.act.keys)).filter (fun k => all.contains k)).eraseDups

/-- A block and its twin change. -/
def State.updBoth (s : State) (blk : Nat) (f : Block → Block) : State :=
  match (s.block? blk).bind (fun b => b.twin) with
  | none => s.updBlock blk f
  | some k => (s.updBlock blk f).updBlock k f

/-- What a block's held operations do at some bytes is done ahead of the commit, in both copies of a twinned block, since an operation that is not held
comes after it (R171, R199, R200, log entry 58). -/
def State.heldFirst (s : State) (blk : Nat) (keys : List Nat) : State :=
  match s.block? blk with
  | none => s
  | some b =>
    let ks := b.heldAt keys
    if ks = [] then s
    else
      let m := s.heldView blk
      (s.memWrite (ks.map (fun k => (k, m.byte k)))).updBoth blk (fun b => { b with held := b.held.map (fun h => { h with act := h.act.under ks }) })

/-- Bytes that a thread of a block, an engine of it or a thread of its pair launch writes to memory. What is held there comes before the effect of an
operation performed at once in the interval, which can no longer be taken back (R360); what an interval that can be taken back holds comes after (R199). -/
def State.putMem (s : State) (blk : Nat) (kvs : List (Nat × Byte)) : State :=
  let o := s.origin blk
  let s := match s.block? o with
    | none => s
    | some b => if b.fixed then s.heldFirst o (kvs.map (fun (p : Nat × Byte) => p.1)) else s
  s.memWrite kvs

/-- An M1 goes to the peer that a LOC 3 address names, and its acknowledgement is awaited (R392). With no route to the peer, or
where the peer table's entry holds an uncorrectable error, the store fails with cause 0x10 (R369, R395). -/
def State.sendPeer (s : State) (ctx core : Nat) (ts : List TRef) (pa : Nat) (data : List Byte) : State :=
  match (Tab.find s.ctxs ctx).bind (fun c => peerOf s.mem c pa) with
  | none => s
  | some (fid, fn, base) =>
    let va := base + BitVec.ofNat 64 (pa % 2 ^ 40)
    if s.reaches fid && !s.peerBad ctx pa then
      (s.updCluster (coreCluster core) (fun k => { k with m1Due := k.m1Due ++ [(ts, ctx, core, fid)] })).send (s.fnOf ctx)
        (.m1 fid fn va ⟨false, 0, 0⟩ data)
    else (s.phHere ctx core ⟨0, 0, 0, -1, 0⟩).engineReport ctx 6 (ts.headD ⟨0, 0, 0⟩) 0x10 (some va) true 0 .report

/-- A store is performed: its bytes reach memory, or go to peers, one message for each run of consecutive addresses (R181, R327, R392). -/
def State.perform (s : State) (t : TRef) (o : StoreOp) : State :=
  let s := if o.cells = [] then s else s.putMem t.blk o.cells
  match s.block? t.blk with
  | none => s
  | some b => o.away.foldl (fun s r => s.sendPeer b.ctx b.core (o.threads t) (r.1 - memKey 3 0) r.2) s

/-- The devices that the bytes of a store go to. -/
def State.peersOf (s : State) (ctx : Nat) (o : StoreOp) : List Nat :=
  o.away.filterMap (fun r => ((Tab.find s.ctxs ctx).bind (fun c => peerOf s.mem c (r.1 - memKey 3 0))).map (fun p => p.1))

/-- Of two stores of a block the first must be performed before the second: they write one byte (R171), or one thread sends both to one device (Table
6-10). -/
def State.ordered (s : State) (ctx : Nat) (a b : TRef × StoreOp) : Bool :=
  a.2.keys.any (fun k => b.2.keys.contains k) ||
    ((a.2.threads a.1).any (b.2.by b.1) && (s.peersOf ctx a.2).any (fun d => (s.peersOf ctx b.2).contains d))

/-- Stores, newest first, parted into those that leave, oldest first, and those that stay, oldest first: the ones that a test picks leave, and those
that must be performed before one that leaves. `go` are later ones that leave. -/
def leaving (before : TRef × StoreOp → TRef × StoreOp → Bool) (test : TRef × StoreOp → Bool) (go : List (TRef × StoreOp)) :
    List (TRef × StoreOp) → List (TRef × StoreOp) × List (TRef × StoreOp)
  | [] => ([], [])
  | p :: ps =>
    if test p || go.any (before p) then
      let r := leaving before test (p :: go) ps
      (r.1 ++ [p], r.2)
    else
      let r := leaving before test go ps
      (r.1, r.2 ++ [p])

/-- The stores of a block that a test picks are performed beyond the block, with those that must come before them; `go` are others that leave after
them, and `rest` those that stay behind. -/
def State.release (s : State) (blk : Nat) (test : TRef × StoreOp → Bool) (out go rest : List (TRef × StoreOp)) : State :=
  match s.block? blk with
  | none => s
  | some b =>
    let r := leaving (s.ordered b.ctx) test go out.reverse
    (r.1 ++ go).foldl (fun s p => s.perform p.1 p.2) (s.updBlock blk (fun b => { b with out := r.2 ++ rest }))

/-- The stores of a block that are visible in it. -/
def State.outOf (s : State) (blk : Nat) : List (TRef × StoreOp) := match s.block? blk with | some b => b.out | none => []

/-- The first n stores that only a thread sees become visible in its block (R170). -/
def State.showStores (s : State) (t : TRef) (n : Nat) : State :=
  match s.thread? t with
  | none => s
  | some th =>
    (s.updBlock t.blk (fun b => { b with out := b.out ++ (th.stq.take n).map (fun o => (t, o)) })).updThread t (fun th =>
      { th with stq := th.stq.drop n })

/-- All of a thread's stores become visible in its block. -/
def State.flushBlk (s : State) (t : TRef) : State :=
  match s.thread? t with
  | none => s
  | some th => if th.stq = [] then s else s.showStores t th.stq.length

/-- All of a thread's stores are performed. -/
def State.flush (s : State) (t : TRef) : State :=
  let s := s.flushBlk t
  let mine (p : TRef × StoreOp) : Bool := p.2.by p.1 t
  if (s.outOf t.blk).any mine then s.release t.blk mine (s.outOf t.blk) [] [] else s

/-- The stores of a block to some bytes that are visible in it are performed. -/
def State.flushKeys (s : State) (blk : Nat) (keys : List Nat) : State :=
  let hit (p : TRef × StoreOp) : Bool := p.2.keys.any (fun k => keys.contains k)
  if (s.outOf blk).any hit then s.release blk hit (s.outOf blk) [] [] else s

/-- Bytes that an engine of a block writes to memory, after what the block has stored there (R287). -/
def State.engMem (s : State) (blk : Nat) (kvs : List (Nat × Byte)) : State :=
  (s.flushKeys (s.origin blk) (kvs.map (fun p => p.1))).putMem blk kvs

/-- An engine's addition to a bin, after what the block has stored there. -/
def State.engAdd (s : State) (blk key : Nat) (win : Int) (x y : Word) : State :=
  let ks := (List.range 16).map (fun i => key + i)
  let s := s.flushKeys (s.origin blk) ks
  let s := match s.block? (s.origin blk) with
    | some b => if b.fixed then s.heldFirst (s.origin blk) ks else s
    | none => s
  s.memWrite (atKeys key ((s.mem.addBin key win x y).bytes key 16))

/-- The bytes of a store that go to a device. -/
def State.keysTo (s : State) (ctx fid : Nat) (o : StoreOp) : List Nat :=
  (o.away.filter (fun r => ((Tab.find s.ctxs ctx).bind (fun c => peerOf s.mem c (r.1 - memKey 3 0))).map (fun p => p.1) == some fid)).flatMap
    (fun r => (List.range r.2.length).map (fun i => r.1 + i))

/-- Held stores of a block to some bytes of peers go out ahead of the commit, in both copies of a twinned block. -/
def State.awayFirst (s : State) (blk : Nat) (keys : List Nat) : State :=
  match s.block? blk with
  | none => s
  | some b =>
    if keys = [] then s
    else
      (b.held.foldl (fun s h => match h.act with
        | .store o => s.perform ⟨blk, h.tid / 32, h.tid % 32⟩ (o.only (fun k => keys.contains k))
        | _ => s) s).updBoth blk (fun b => { b with held := b.held.map (fun h => { h with act := h.act.under keys }) })

/-- The stores of a block that go to a device leave ahead of a message to it, the held ones too: a barrier may have ordered their issuers (R199, R328, log
entry 58). -/
def State.peerFirst (s : State) (blk fid : Nat) : State :=
  match s.block? blk with
  | none => s
  | some b =>
    let goes (p : TRef × StoreOp) : Bool := (s.peersOf b.ctx p.2).contains fid
    let s := if b.out.any goes then s.release blk goes b.out [] [] else s
    s.awayFirst blk (b.held.flatMap (fun h => match h.act with | .store o => s.keysTo b.ctx fid o | _ => []))

/-- A held operation of a thread, alone or with others of its issue. -/
def HeldOp.by (h : HeldOp) (t : TRef) : Bool :=
  h.tid == 32 * t.wp + t.m || (match h.act with
    | .store o => o.by ⟨t.blk, h.tid / 32, h.tid % 32⟩ t
    | .req r => r.parts.any (fun p => p.t == t)
    | .rel _ => false)

/-- A held operation has still to be performed. -/
def HeldOp.acts (h : HeldOp) : Bool := match h.act with | .store o => !o.keys.isEmpty | _ => true

/-- What a thread's block holds of it is performed ahead of the commit (R199, log entry 58); releases stay. -/
def State.threadFirst (s : State) (t : TRef) : State :=
  match s.block? t.blk with
  | none => s
  | some b =>
    let mine := b.held.filter (fun h => h.by t)
    (s.heldFirst t.blk (mine.flatMap (fun h => h.act.keys))).awayFirst t.blk
      (mine.flatMap (fun h => match h.act with | .store o => o.keys.filter (fun k => decide (memKey 3 0 ≤ k)) | _ => []))

/-- A thread's k-th store on its way is performed, counted from its oldest: those before it that only the thread sees become visible in the block
first (Table 6-8), but may be performed beyond it later (Table 6-9). -/
def State.performStore (s : State) (t : TRef) (k : Nat) : State :=
  let mine (p : TRef × StoreOp) : Bool := p.2.by p.1 t
  let n := ((s.outOf t.blk).filter mine).length
  let s := if k < n then s else s.showStores t (k + 1 - n)
  let out := s.outOf t.blk
  match ((List.range out.length).filter (fun i => (out.map mine).getD i false))[k]? with
  | none => s
  | some i => s.release t.blk (fun _ => false) (out.take i) ((out.drop i).take 1) (out.drop (i + 1))

/-- The words of a served request reach the owed entries they were tagged for (R183), and the twin's log (R366). -/
def State.fillTag (s : State) (t : TRef) (tag : Nat) (ws : List Word) : State :=
  let fill (rs : List RegVal) : List RegVal := rs.zipIdx.map (fun p => match p.1 with
    | .w n v => .w n (ws.getD p.2 v)
    | r => r)
  let s := s.updThread t (fun th =>
    { th with owed := th.owed.map (fun o => if o.tag = tag then { o with ready := true, wr := fill o.wr } else o) })
  s.updBlock t.blk (fun b => { b with fixlog := b.fixlog.map (fun r => if r.tag = tag then { r with ready := true, wr := fill r.wr } else r) })

/-- A returned value is logged, or taken from the log, when the thread's launch records (R377, R379). -/
def State.recAtom (s : State) (r : AtomReq) (t : TRef) (tag : Nat) (ws : List Word) : State × List Word :=
  match r.parts.find? (fun p => p.tag == tag) with
  | none => (s, ws)
  | some p =>
    if p.nth = 0 then (s, ws)
    else
      let x := s.recTake t 4 p.nth p.va (BitVec.ofNat 64 (leVal (wordsToBytes ws)))
      (x.1, (lohi x.2).take ws.length)

/-- The block whose held operations come before a request's effect: its threads', or that of their launch, once its interval is fixed (R199, R360). -/
def State.heldFor (s : State) (r : AtomReq) : Option Nat :=
  r.parts.head?.bind fun p => (s.block? (s.origin p.t.blk)).bind fun b => if b.fixed then some (s.origin p.t.blk) else none

/-- One merged request performed at its owner (R184). What the threads' block holds at the place comes before: BINRD reads it so, the others' effect
follows it (R171, R199, R200). -/
def State.serveReq (s : State) (r : AtomReq) : State :=
  let s := if r.kind = .binrd then s
    else match s.heldFor r with
      | some o => s.heldFirst o ((List.range r.kind.size).map (fun i => r.key + i))
      | none => s
  let res := serve (if r.kind = .binrd then (match r.parts with | p :: _ => s.heldView p.t.blk | [] => s.mem) else s.mem) r
  let kvs := if r.kind = .binrd then [] else atKeys r.key (res.1.bytes r.key r.kind.size)
  let logged := res.2.foldl (fun (a : State × List (TRef × Nat × List Word)) p =>
    let x := a.1.recAtom r p.1 p.2.1 p.2.2
    (x.1, a.2 ++ [(p.1, p.2.1, x.2)])) (s, [])
  logged.2.foldl (fun s p => s.fillTag p.1 p.2.1 p.2.2) (logged.1.memWrite kvs)

/-- The owner cluster of an HBM key: pa[14:7] (R182). -/
def ownerOf (key : Nat) : Nat := key / 128 % 256

/-- The requests of a cluster's queue that satisfy a test are performed, in order, and leave the queue. -/
def State.serveIf (s : State) (c : Nat) (test : AtomReq → Bool) : State :=
  let q := (s.cluster c).atomQ
  let s := s.updCluster c (fun k => { k with atomQ := q.filter (fun r => !test r) })
  (q.filter test).foldl (fun s r => s.serveReq r) s

/-- Every request of every owner that satisfies a test is performed. -/
def State.serveAll (s : State) (test : AtomReq → Bool) : State :=
  s.clusters.foldl (fun s p => s.serveIf p.1 test) s

/-- A request in which a thread takes part. -/
def AtomReq.of (r : AtomReq) (t : TRef) : Bool := r.parts.any (fun p => p.t == t)

/-- Before a thread reaches bytes again, requests at them in which it takes part, and those queued before them at the same place, are
performed (R171). -/
def State.settleBytes (s : State) (t : TRef) (keys : List Nat) : State :=
  let hit (r : AtomReq) : Bool := keys.any (fun k => decide (r.key ≤ k) && decide (k < r.key + r.kind.size))
  if (s.clusters.any (fun p => p.2.atomQ.any (fun r => r.of t && hit r))) then s.serveAll hit else s

/-- A thread's requests are performed, with those queued at the same places. -/
def State.serveOf (s : State) (t : TRef) : State :=
  if s.clusters.any (fun p => p.2.atomQ.any (fun r => r.of t)) then
    s.serveAll (fun r => s.clusters.any (fun p => p.2.atomQ.any (fun q => q.of t && q.key == r.key)))
  else s

/-- A thread's earlier memory operations are performed at device scope: what a release, an engine issue, a phase arrival or a commit keeps
(Table 6-9). -/
def State.settle (s : State) (t : TRef) : State := (s.flush t).serveOf t

/-- A thread's earlier memory operations are performed at block scope: what a barrier and an arrival keep (Table 6-8). -/
def State.settleBlk (s : State) (t : TRef) : State := (s.flushBlk t).serveOf t

/-- What an engine issue, a grid barrier or a commit of a participant keeps (Table 6-9). -/
def State.settleLane (s : State) (e : Env) : State :=
  match e.lane with
  | .thr t => s.settle t
  | .tile _ => s

/-- The threads of a block. -/
def Block.trefs (b : Block) (key : Nat) : List TRef :=
  (b.warps.zipIdx.map (fun p => (List.range p.1.threads.length).map (fun m => TRef.mk key p.2 m))).flatten

/-- Every earlier memory operation of a block is performed: a release publishes them (R177). -/
def State.settleBlock (s : State) (key : Nat) : State :=
  match s.block? key with
  | none => s
  | some b => (b.trefs key).foldl State.settle s

/-! ## The loft (R158) -/

/-- Loft bytes SBEGIN reserves (R294). -/
def searchLoft : Nat := 12288

/-- Bytes of a context's loft on a die that are free. -/
def Ctx.loftFree (c : Ctx) (die : Nat) : Nat := c.loft.getD die 0 * 65536 - c.loftUsed.getD die 0

/-- Bytes reserved from a context's loft on a die, if they fit. -/
def State.loftTake (s : State) (ctx die n : Nat) : Option State :=
  match Tab.find s.ctxs ctx with
  | none => none
  | some c =>
    if n ≤ c.loftFree die then some (s.updCtx ctx (fun c => { c with loftUsed := c.loftUsed.modify die (fun u => u + n) })) else none

/-- Bytes given back. -/
def State.loftGive (s : State) (ctx die n : Nat) : State :=
  s.updCtx ctx (fun c => { c with loftUsed := c.loftUsed.modify die (fun u => u - n) })

/-- Bytes that a thread of a block gives back: at once, or in a protected block at its next commit, since a rollback takes them again (R307, R363, log
entry 68). -/
def State.loftBack (s : State) (blk n : Nat) : State :=
  match s.block? blk with
  | none => s
  | some b => if b.prot = 0 then s.loftGive b.ctx (coreDie b.core) n else s.updBlock blk (fun b => { b with spare := b.spare + n })

/-- Loft that threads hold: return-stack parts and search state (R74, R294). -/
def warpsLoft (ws : List Warp) : Nat :=
  (ws.map (fun w => (w.threads.map (fun th => (if th.loftRs then 192 else 0) + (if th.search.mode then searchLoft else 0))).sum)).sum

/-! ## Protected intervals (R360, R365) -/

/-- Journal entries a protected interval may hold (R361). -/
def journalMax : Nat := 4096

/-- The 4-byte words that n bytes from an address touch. -/
def wordsOf (a n : Nat) : List Nat := if n = 0 then [] else (List.range ((a + n - 1) / 4 - a / 4 + 1)).map (fun i => 4 * (a / 4 + i))

/-- Old values of words about to be written are journalled under P1 and P2; none when the interval would grow too long (R365). -/
def State.journal (s : State) (blk : Nat) (loft : Bool) (ws : List Nat) : Option State :=
  match s.block? blk with
  | none => some s
  | some b =>
    if b.prot = 0 then some s
    else if journalMax < b.jcount + ws.length then none
    else
      let old (a : Nat) : Word := BitVec.ofNat 32 (leVal (if loft then b.loft.bytes a 4 else s.scr.bytes a 4))
      some (s.updBlock blk (fun b => { b with jcount := b.jcount + ws.length, journal := b.journal ++ ws.map (fun a => ⟨loft, a, old a⟩) }))

/-- Bytes stored to the scratchpad of a core by a block's thread, journalled (Table 16-7). -/
def State.scrStore (s : State) (blk core off : Nat) (bs : List Byte) : Option State :=
  (s.journal blk false (wordsOf (scrKey core off) bs.length)).map (fun s => s.scrWrite (atKeys (scrKey core off) bs))

/-- A word of a core's scratchpad. -/
def State.scrWord (s : State) (core off : Nat) : Word := BitVec.ofNat 32 (leVal (s.scr.bytes (scrKey core off) 4))

/-- A range of a core's scratchpad lies in a block's region. -/
def Block.ownsRange (b : Block) (core off n : Nat) : Bool :=
  b.core == core && decide (b.scrBase ≤ off) && decide (off + n ≤ b.scrBase + b.scrSize)

/-- Where a byte of a saved block's region stands in the save area (R374). -/
def State.savedKey (s : State) (b : Block) (off : Nat) : Option Nat :=
  b.saved.bind fun at_ => (Tab.find s.ctxs b.ctx).map fun c => c.save.toNat + at_ + (off - b.scrBase)

/-- Bytes that an engine writes to a block's region, which stands in the save area while the block is saved (R374, R376). -/
def State.regionWrite (s : State) (b : Block) (core off : Nat) (bs : List Byte) : State :=
  match s.savedKey b off with
  | some k => s.memWrite (atKeys k bs)
  | none => s.scrWrite (atKeys (scrKey core off) bs)

/-- Bytes written to scratchpad by an engine: the region of its block is followed where the block has gone (R376), and the twin's region gets the bytes
at the same offsets (R366). -/
def State.engScr (s : State) (blk core off : Nat) (bs : List Byte) : State :=
  match s.block? blk with
  | none => s.scrWrite (atKeys (scrKey core off) bs)
  | some b =>
    if b.ownsRange core off bs.length then
      let s' := s.regionWrite b core off bs
      match b.twin.bind s.block? with
      | some o => s'.regionWrite o o.core off bs
      | none => s'
    else s.scrWrite (atKeys (scrKey core off) bs)

/-- n bytes of scratchpad that an engine reads for a block; none where they hold an uncorrectable error (R369). -/
def State.engScrBytes (s : State) (blk core off n : Nat) : Option (List Byte) :=
  let here : Option (List Byte) :=
    if s.scrBad ((List.range n).map (fun i => scrKey core off + i)) then none else some (s.scr.bytes (scrKey core off) n)
  match s.block? blk with
  | none => here
  | some b =>
    match if b.ownsRange core off n then s.savedKey b off else none with
    | none => here
    | some k => if s.memBad ((List.range n).map (fun i => k + i)) then none else some (s.mem.bytes k n)

/-! ## Taking a fault -/

/-- The flags of a record (Table 16-2). -/
def faultFlags (f : FInfo) (dec : Bool) (own : Nat) : Nat :=
  (if f.va.isSome then 1 else 0) + (if f.imm.isSome then 2 else 0) + (if f.wr then 64 else 0) + (if f.fetch then 128 else 0) +
    (if dec then 256 else 0) + own

/-- The VA field of a record (Table 16-1). -/
def FInfo.field (f : FInfo) : DWord :=
  match f.imm with
  | some i => i.setWidth 64
  | none => f.va.getD 0

/-- The 32 bytes of a record (Table 16-1); the slot byte is 0 in a fault queue (R344). -/
def FRec.bytes (r : FRec) (slot : Nat) : List Byte :=
  leBytes 1 r.cause ++ leBytes 1 (r.index % 16 + 16 * r.src) ++ leBytes 2 r.flags ++ leBytes 1 r.tid ++ leBytes 1 slot ++
    leBytes 6 r.launch ++ leBytes 4 r.block ++ leBytes 8 r.va.toNat ++ leBytes 8 r.item

def State.fn (s : State) (f : Nat) : FnRegs := Tab.get FnRegs.new s.fns f
/-- A function that exists and can be reached: bring-up is over, and it is PF 0 or an enabled VF (Table 18-1). -/
def State.hasFn (s : State) (fn : Nat) : Bool := s.dev.ready && decide (fn ≤ s.dev.vfs)
def State.updFn (s : State) (f : Nat) (g : FnRegs → FnRegs) : State := { s with fns := Tab.put FnRegs.new s.fns f (g (s.fn f)) }

/-- A vector's table entry: address, data, and whether it is masked (R387, log entry 76). -/
def FnRegs.vector (g : FnRegs) (v : Nat) : DWord × Word × Bool :=
  (BitVec.ofNat 64 (leVal (g.msix.bytes (16 * v) 8)), BitVec.ofNat 32 (leVal (g.msix.bytes (16 * v + 8) 4)), (g.msix.byte (16 * v + 12)).getLsbD 0)

/-- A vector of a function is raised: an interrupt, or its pending bit while it is masked. -/
def State.raise (s : State) (f v : Nat) : State :=
  let e := (s.fn f).vector v
  if e.2.2 then s.updFn f (fun g => { g with pend := if g.pend.contains v then g.pend else g.pend ++ [v] })
  else { s with irqs := s.irqs ++ [⟨f, v, e.1, e.2.1⟩] }

/-- Room in a function's event ring (R391). -/
def FnRegs.room (r : FnRegs) : Bool := !r.evFull

/-- EVSIZE is written: EVHEAD and EVTAIL read modulo the new size (Table 18-3). A smaller ring that has no place for entries which the host has not
consumed where they stand counts as full until the host writes EVTAIL, so that none is overwritten (R391, log entry 54). -/
def FnRegs.resize (g : FnRegs) (n : Nat) : FnRegs :=
  let none_ := g.evHead == g.evTail && !g.evFull
  let fits := decide (g.evSize ≤ n) || (decide (g.evTail < g.evHead) && decide (g.evHead ≤ n) && decide (g.evHead - g.evTail < n))
  { g with evSize := n, evHead := g.evHead % n, evTail := g.evTail % n, evFull := g.evFull || !(none_ || fits) }

/-- An entry is written to a function's event ring: EVHEAD advances and vector 0 is raised (R391). -/
def State.ringWrite (s : State) (f slot : Nat) (r : FRec) : State :=
  let g := s.fn f
  let s := s.memWrite (atKeys (memKey 2 (g.evBase.toNat % 2 ^ 52 + 32 * g.evHead)) (r.bytes slot))
  let head := (g.evHead + 1) % g.evSize
  (s.updFn f (fun g => { g with evHead := head, evFull := head == g.evTail })).raise f 0

/-- A handler's own record goes to the ring, or waits in the device for room, in order (R391). -/
def State.ringOrDefer (s : State) (f slot : Nat) (r : FRec) : State :=
  let g := s.fn f
  if g.room && g.defer.isEmpty then s.ringWrite f slot r
  else s.updFn f (fun g => { g with defer := g.defer ++ [(slot, r)] })

/-- The threads of a block leave every clause in execution. -/
def dropBlock (key : Nat) (is : List Issue) : List Issue :=
  is.filter (fun i => match i.who with | .lanes b _ _ => b != key | .tile _ => true)

/-- A handler's fault kills it: its threads are gone and the host gets the record with KILLED set (R347). What its block still holds is given up with
the end of the step (State.reap). -/
def State.killHandler (s : State) (key : Nat) (b : Block) (r : FRec) : State :=
  let f := match Tab.find s.ctxs b.ctx with | some c => c.fn | none => 0
  let s := { s.updBlock key (fun b => { b with warps := [], out := [] }) with issues := dropBlock key s.issues }
  let s := (s.loftGive b.ctx (coreDie b.core) (warpsLoft b.warps)).updCtx b.ctx (fun c => { c with handler := none })
  s.ringOrDefer f b.ctx { r with flags := r.flags + 32 }

/-- A pair thread's fault ends it: its item is failed and its staged entries are discarded (R238). -/
def State.failItem (s : State) (t : TRef) (b : Block) (n : Nat) (r : FRec) : State :=
  let rs := match s.thread? t with | some th => th.loftRs | none => false
  let s := if rs then s.loftGive b.ctx (coreDie b.core) 192 else s
  let s := s.updThread t (fun th => { th with live := false, staged := [], loftRs := false })
  let s := { s with pairs := Tab.upd s.pairs b.lid (fun p =>
    { p with failed := p.failed ++ [n], running := p.running.erase n }) }
  s.report b.ctx { r with src := 1, flags := r.flags + 8, item := n } (.pairItem b.lid n)

/-- The other copy of a twinned block will stop the same thread at the same index (R366). -/
def State.mirrorStop (s : State) (b : Block) (t : TRef) (pc : DWord) (st : Stop) : State :=
  match b.twin with
  | none => s
  | some k => s.updBlock k (fun o => { o with stopAt := o.stopAt ++ [(t.wp, t.m, pc, st)] })

/-- The thread part of a fault at word `idx` of the clause at `pc`, whose fetch line is `line`, empty for a line that cannot be fetched. A TRAP or BRK
takes one word. -/
def stopOf (pc : DWord) (line : List Word) (dec : Bool) (idx cause : Nat) : Stop :=
  let h := line.getD (linePos pc) 0
  ⟨cause, idx, dec, decide (hdrN h ≤ idx), nextClause pc line, hdrH h⟩

/-- A thread that a fault stops keeps the clause address and the index where it may go on, with the line it executes (R52, R340, R403). -/
def Thread.stopped (th : Thread) (pc : DWord) (line : List Word) (st : Stop) : Thread :=
  { th with stop := some st, pc := pc, cont := if st.dec then 0 else st.idx, line := if st.dec then [] else line }

/-- A stop that the other copy has made is made here too; its record stands for both (R366). -/
def State.takeDue (s : State) (e : Env) (line : List Word) (st : Stop) : State :=
  match e.lane with
  | .tile _ => s
  | .thr t => (s.updThread t (fun th => th.stopped e.pc line st)).updBlock t.blk (fun b => { b with stopAt := b.stopAt.erase (t.wp, t.m, e.pc, st) })

/-- TAKING A FAULT in a participant at word `idx` of its clause (R340): the thread keeps the clause address, the index, whether it arose at
decode and its latches, takes part in no vote, and its context gets a record. A pair thread's item fails (R238), a handler is killed
(R347), a tile program stops (R252), and in a protected block a consumed error calls for a rollback (R363). -/
def State.takeFault (s : State) (e : Env) (line : List Word) (dec : Bool) (idx : Nat) (f : FInfo) : State :=
  let st := stopOf e.pc line dec idx f.cause
  match e.lane with
  | .tile c =>
    match (s.cluster c).tile, s.block? e.blk with
    | some r, some b =>
      let s := s.updTile c (fun r => { r with th := r.th.stopped e.pc line st })
      s.report e.ctx ⟨f.cause, idx, 4, faultFlags f dec 4, e.tid, b.lid, b.idx, f.field, r.num⟩ (.tile c)
    | _, _ => s
  | .thr t =>
    match s.block? t.blk with
    | none => s
    | some b =>
      let rec0 : FRec := ⟨f.cause, idx, 0, faultFlags f dec 0, e.tid, b.lid, b.idx, f.field, 0⟩
      match b.kind, (s.thread? t).bind (fun th => th.item) with
      | .handler, _ => s.killHandler t.blk b rec0
      | .pair, some it => s.failItem t b it.n rec0
      | _, _ =>
        let s := s.updThread t (fun th => th.stopped e.pc line st)
        if f.cause = 0x10 ∧ b.prot ≠ 0 then s.updBlock t.blk (fun b => { b with rb := some rec0 })
        else if b.stopAt.contains (t.wp, t.m, e.pc, st) then
          s.updBlock t.blk (fun b => { b with stopAt := b.stopAt.erase (t.wp, t.m, e.pc, st) })
        else (s.report b.ctx { rec0 with flags := rec0.flags + 4 } (.thread t)).mirrorStop b t e.pc st

/-- A hold ends. The line stays with a thread that is part way through its clause. -/
def Thread.unheld (th : Thread) : Thread := { th with hold := none, line := if th.cont = 0 then [] else th.line }

/-- RETURNING FROM A FAULT (R341): the thread goes on at its index; at the header after a decode fault or at index 0; after a TRAP or a
break at the next word, or at the clause that follows when that word was the last. -/
def Thread.resume (th : Thread) : Thread :=
  match th.stop with
  | none => th
  | some st =>
    let th := { th with stop := none }
    if st.dec ∨ st.idx = 0 then { th with cont := 0, line := [] }
    else if st.cause = 0x17 ∨ st.cause = 0x1D then
      if st.last then { th with pc := st.next, cont := 0, line := [], yn := if st.keep then th.yn else 0 } else { th with cont := st.idx + 1 }
    else { th with cont := st.idx }

end Sys2Proof.Machine
end

