-- ==== Sys2Proof/Machine/Pass.lean ====
section
/-!
DEFINITION. Clauses and passes: fetch lines (R33), the decoding of a clause for one thread (R51), the start of a clause, and what one pass
of an instruction word does to its participants (R27, R36 to R40, R340, R403).
-/

namespace Sys2Proof.Machine

/-! ## Fetch lines -/

/-- Walking the headers of a line from word `p`: does a clause start at word `t`? (R33) -/
def startsAt (line : List Word) (t : Nat) : Nat → Nat → Bool
  | 0, _ => false
  | fuel + 1, p =>
    let h := line.getD p 0
    if 16 ≤ p ∨ h = 0 then false
    else if p = t then true
    else if hdrN h = 0 then false
    else startsAt line t fuel (p + 1 + hdrN h)

/-- A fetch line as a core reads it: a failure is a fault at index 0 (R33). A line that holds an uncorrectable error is consumed by its
fetch (R369, log entry 14). -/
def State.fetchLine (s : State) (core ctx blk : Nat) (pc : DWord) : State × Except FInfo (List Word) :=
  let base := BitVec.ofNat 64 (pc.toNat / 64 * 64)
  match s.access core ctx blk ⟨.fetch, false, fmtRaw, true⟩ 64 base 64 with
  | (s', .error f) => (s', .error f)
  | (s', .ok (keys, _)) =>
    if s'.memBad keys then (s', .error (.acc 0x10 base .fetch))
    else (s', .ok (bytesToWords (keys.map s'.mem.byte)))

/-- A control target: 0x0C when it is not word-aligned or no clause starts there (R33). A line that cannot be fetched is left to the fetch,
which faults at index 0 there (log entry 8). -/
def State.targetOk (s : State) (e : Env) (pc : DWord) : State × Bool :=
  if pc.toNat % 4 ≠ 0 then (s, false)
  else
    match s.fetchLine e.core e.ctx e.blk pc with
    | (s', .error _) => (s', true)
    | (s', .ok line) => (s', startsAt line (linePos pc) 16 0)

/-! ## Decoding a clause (R51) -/

/-- The words of a clause from word `i` on, decoded one by one: the first fault and its index. -/
def wordsFault (cls : Cls) (h : Word) : Nat → Nat → DecodeCtx → List Word → Option (Nat × Nat)
  | 0, _, _, _ => none
  | fuel + 1, i, k, ws =>
    if hdrN h < i then none
    else
      match readWord cls (ws ++ List.replicate 9 0) with
      | .error _ => some (0x02, i)
      | .ok (op, sh, _) =>
        let o := op.info
        let x := extraWords o sh
        match checkWord k o sh with
        | some c => some (c, i)
        | none =>
          if hdrN h < i + x then some (0x01, i)
          else if (List.range x).any (fun j => hdrWB h (i + 1 + j)) then some (0x01, i)
          else if needsSlot o sh && hdrSS h == 7 then some (0x01, i)
          else if o.is .ctl && decide (i + x < hdrN h) then some (0x0D, i)
          else wordsFault cls h fuel (i + 1 + x) { k with yn := if o.is .push then min (k.yn + 1) 4 else k.yn } (ws.drop (1 + x))

/-- The operations of a clause with their indexes. -/
def clauseOps (cls : Cls) (n : Nat) : Nat → Nat → List Word → List (Nat × Op)
  | 0, _, _ => []
  | fuel + 1, i, ws =>
    if n < i then []
    else
      match readWord cls (ws ++ List.replicate 9 0) with
      | .error _ => []
      | .ok (op, sh, _) => (i, op) :: clauseOps cls n fuel (i + 1 + extraWords op.info sh) (ws.drop (1 + extraWords op.info sh))

/-- The instructions that forbid H when they close a clause (R40). -/
def forbidsHold : Op → Bool
  | .call | .callIndirect | .ret | .switch | .exit | .yield => true
  | .tryMark | .fail | .failIfP | .failIfNotP | .cut | .cutall | .sbegin | .send | .glean => true
  | _ => false

/-- The operations of the clause at a place of a line. -/
def lineOps (tile : Bool) (pc : DWord) (line : List Word) : List (Nat × Op) :=
  let h := line.getD (linePos pc) 0
  clauseOps (clsOf tile (hdrEC h)) (hdrN h) 16 1 (line.drop (linePos pc + 1))

/-- The decode of R51 for one thread: the cause and the index of the first failure. -/
def clauseFault (k : DecodeCtx) (pc : DWord) (line : List Word) : Option (Nat × Nat) :=
  let p := linePos pc
  let h := line.getD p 0
  let n := hdrN h
  if n = 0 ∨ h.getLsbD 15 ∨ hdrSS h = 6 then some (0x01, 0)
  else if hdrSS h ≤ 5 ∧ (hdrWM h).getLsbD (hdrSS h) then some (0x01, 0)
  else if (List.range 16).any (fun i => decide (n < i) && hdrWB h i) then some (0x01, 0)
  else if 16 < p + 1 + n then some (0x01, 0)
  else
    match wordsFault (clsOf k.tile (hdrEC h)) h 16 1 k (line.drop (p + 1)) with
    | some r => some r
    | none =>
      if hdrH h && (match (lineOps k.tile pc line).getLast? with | some (_, op) => forbidsHold op | none => false) then some (0x01, 0)
      else none

/-! ## Starting a clause -/

/-- A clause address of a participant changes; the valid latches pass on only under H (R39, R40). -/
def Thread.moveTo (th : Thread) (pc : DWord) (keep : Bool) : Thread :=
  { th with pc := pc, cont := 0, line := [], yn := if keep then th.yn else 0 }

/-- The other copy has stopped here: this copy's thread stops at the same index (R366). -/
def State.stopDue (s : State) (e : Env) : Option Stop :=
  match e.lane with
  | .tile _ => none
  | .thr t =>
    (s.block? e.blk).bind fun b => (b.stopAt.find? (fun x => x.1 == t.wp && x.2.1 == t.m && x.2.2.1 == e.pc && x.2.2.2.idx == e.idx)).map
      (fun x => x.2.2.2)

/-- A participant whose clause is issued to it decodes it (R51); at a nonzero continuation index it goes on there (R403). One
whose other copy has stopped at index 0 stops there (R366). -/
def State.letIn (s : State) (l : Lane) (pc : DWord) (line : List Word) : State × Bool :=
  match s.env? l (hdrSS (line.getD (linePos pc) 0)) pc 0 with
  | none => (s, false)
  | some e =>
    if e.th.cont ≠ 0 then (s, true)
    else match s.stopDue e with
    | some st => (s.takeDue e (if st.dec then line else []) st, false)
    | none =>
      match clauseFault e.dec pc line with
      | some (c, i) => (s.takeFault e line true i (.of c), false)
      | none => (s, true)

/-- The line that a participant executes at its clause: fetched at the clause's start, and the line it kept when it goes on part way through, so
that a clause is executed as one version of its words (R52, R403): the one that memory holds when it issues (log entry 87). -/
def State.lineOf (s : State) (core ctx blk : Nat) (pc : DWord) (th : Thread) : State × Except FInfo (List Word) :=
  if th.cont = 0 then s.fetchLine core ctx blk pc else (s, .ok th.line)

/-- A clause issues to threads of a warp that stand at one address, one continuation word and one line (R66, R403): each decodes it at its start,
and those that pass take part, in the issue `id`. A thread that yielded and stands elsewhere is in the votes again (R94). -/
def State.startWarp (s : State) (blk wp : Nat) (ms : List Nat) (pc : DWord) (id : Nat) : State × Option Issue :=
  match s.block? blk with
  | none => (s, none)
  | some b =>
    let lead := (ms.head?.bind (fun m => b.thread? wp m)).getD (Thread.new pc)
    let cont := lead.cont
    match s.lineOf b.core b.ctx blk pc lead with
    | (s, .error f) =>
      (ms.foldl (fun s m => match s.env? (.thr ⟨blk, wp, m⟩) 7 pc 0 with
        | none => s
        | some e => match s.stopDue e with
          | some st => s.takeDue e [] st
          | none => s.takeFault e [] false 0 f) s, none)
    | (s, .ok line) =>
      let s := s.updBlock blk (fun b => b.updWarp wp (fun w => { w with
        threads := w.threads.map (fun th => if th.yieldAt = some pc then th else { th with yieldAt := none }) }))
      let r := ms.foldl (fun (acc : State × List Nat) m =>
        let a := acc.1.letIn (.thr ⟨blk, wp, m⟩) pc line
        (a.1.updThread ⟨blk, wp, m⟩ (fun th => { th with age := 0, yieldAt := none }), if a.2 then acc.2 ++ [m] else acc.2)) (s, [])
      if r.2 = [] then (r.1, none) else (r.1, some ⟨.lanes blk wp r.2, pc, line, if cont = 0 then 1 else cont, id⟩)

/-- The tile sequencer of a cluster takes its program's next clause, in program order (R71). -/
def State.startTile (s : State) (c : Nat) : State × Option Issue :=
  match s.env? (.tile c) 7 0 0 with
  | none => (s, none)
  | some e =>
    let pc := e.th.pc
    let cont := e.th.cont
    let e := { e with pc := pc }
    match s.lineOf e.core e.ctx e.blk pc e.th with
    | (s, .error f) => (s.takeFault e [] false 0 f, none)
    | (s, .ok line) =>
      let a := s.letIn (.tile c) pc line
      (a.1, if a.2 then some ⟨.tile c, pc, line, if cont = 0 then 1 else cont, 0⟩ else none)

/-- An operation that no participant of another lane has a part in: neither a collective, nor one that executes once per issue, merges the requests
of an issue, acts in tid order across the issue, or stores, where the highest tid's value stays (R73, R86, R144, R162, R173, R184, R189, R192, R227, R249,
R280, R321, R331, R335, R348, R354). -/
def laneLocal (op : Op) : Bool :=
  let o := op.info
  match o.cls with
  | .gen => !o.is .coll && o.dk != .s
  | .xu => !o.is .coll
  | .mem =>
    o.is .pairOnly || (match op with
     | .ld16 | .ld32 | .ld64 | .ld128 | .ld16S | .ldb | .ldbs | .ldeF32 | .ldeBf16x2 | .ldexp | .lds32 | .lds64 | .lds128 | .lds16 | .ldc32
     | .silowait | .silost | .pref | .spill | .fill | .eput | .epoll | .fence | .gbar | .tlwait | .tlread | .tltest | .phwait | .phstat => true
     | _ => false)
  | .sys => (match op with
     | .trap | .brk | .clk | .prot | .waitev | .commit | .ptew | .tlbinv | .frpt | .freplay | .fresume | .fkill => true
     | _ => false)
  | .mat => false

/-- The lanes of an issue, each of which goes through its passes on its own (R27, R68). -/
def Issue.byLane (i : Issue) : List Issue :=
  match i.who with
  | .tile _ => [i]
  | .lanes b w ms => (ms.map (fun m => m / 8)).eraseDups.map (fun k => { i with who := .lanes b w (ms.filter (fun m => m / 8 == k)) })

/-- Two clauses in execution need one lane: the later one waits until the earlier has ended (R40, R68). -/
def Issue.shares (i j : Issue) : Bool :=
  match i.who, j.who with
  | .lanes b w ms, .lanes b' w' ms' => b == b' && w == w' && ms.any (fun m => ms'.any (fun n => m / 8 == n / 8))
  | .tile c, .tile c' => c == c'
  | _, _ => false

/-- The clause at an address is a collective one (R72). -/
def State.collAt (s : State) (core ctx blk : Nat) (pc : DWord) : Bool :=
  match (s.fetchLine core ctx blk pc).2 with
  | .ok line => (lineOps false pc line).any (fun p => p.2.info.is .coll)
  | .error _ => false

/-- After a clause with H, each address its threads stand at issues without a vote, the lowest first, behind what its lanes still have to
execute (R40). A collective clause is left to the vote, which gathers every live thread (R72, log entry 57). -/
def State.chain (s : State) (who : Agent) (ms : List Nat) : State :=
  match who with
  | .tile c =>
    match s.startTile c with
    | (s, some i) => { s with issues := i :: s.issues }
    | (s, none) => s
  | .lanes blk wp _ =>
    let at? (s : State) (m : Nat) : Option DWord := (s.thread? ⟨blk, wp, m⟩).bind (fun th => if th.live ∧ th.stop.isNone then some th.pc else none)
    let pcs := ((ms.filterMap (at? s)).eraseDups.mergeSort (fun a b => decide (a.toNat ≤ b.toNat)))
    let coll (pc : DWord) : Bool := match s.block? blk with
      | some b => s.collAt b.core b.ctx blk pc
      | none => false
    let r := pcs.foldl (fun (acc : State × List Issue) pc =>
      if coll pc then acc
      else match ({ acc.1 with tags := acc.1.tags + 1 } : State).startWarp blk wp (ms.filter (fun m => at? acc.1 m == some pc)) pc (acc.1.tags + 1) with
      | (s, some i) => (s, acc.2 ++ i.byLane)
      | (s, none) => (s, acc.2)) (s, [])
    { r.1 with issues := r.1.issues ++ r.2 }

/-! ## One pass -/

/-- How a participant leaves an instruction: it goes on, takes a control transfer, is held until an event (R403), has left the issue, waits
at the word (the tile sequencer, R253), or faults before any effect (R340). -/
inductive Disp where
  | stay
  | jump (pc : DWord)
  | hold (h : Hold)
  | gone
  | wait
  | fault (f : FInfo)
  deriving DecidableEq, Repr

/-- What an instruction does in one participant. -/
abbrev Act := State → Env → State × Disp

/-- The participants of an issue, in ascending order (R27). -/
def Agent.parts : Agent → List (Nat × Lane)
  | .lanes blk wp ms => ms.map (fun m => (m, .thr ⟨blk, wp, m⟩))
  | .tile c => [(0, .tile c)]

/-- The lane that a number of a pass stands for. -/
def Agent.lane (a : Agent) (m : Nat) : Lane :=
  match a with
  | .lanes blk wp _ => .thr ⟨blk, wp, m⟩
  | .tile c => .tile c

/-- The same unit with other threads taking part. -/
def Agent.with (a : Agent) (ms : List Nat) : Agent :=
  match a with
  | .lanes blk wp _ => .lanes blk wp ms
  | .tile c => .tile c

/-- A word waits for the slots named in WM: it or a word before it has its WB bit set, or none has (R36). -/
def waitsOnSlots (h : Word) (i : Nat) : Bool :=
  hdrWM h != 0 && (!(List.range 16).any (hdrWB h) || (List.range (i + 1)).any (hdrWB h))

/-- A fixing operation of a twin waits for its primary's result (R366). -/
def State.twinRec (s : State) (e : Env) : Option FixRec :=
  (s.block? e.blk).bind fun b => (b.twin.bind s.block?).bind fun o => o.fixlog.find? (fun r => r.tid == e.tid && r.k == e.th.fixed)

/-- The block is the second copy of a twinned block (R366). -/
def State.isTwin (s : State) (b : Nat) : Bool :=
  match s.block? b with
  | some k => k.twin.isSome && !k.primary
  | none => false

/-- The registers a FAIL may restore or set (R297). -/
def unwound (e : Env) (op : Op) : List Reg :=
  match op with
  | .fail | .failIfP | .failIfNotP =>
    (e.th.search.trail.filter (fun t => !t.win)).map (fun t => Reg.w t.loc) ++ e.th.search.sheaf.map (fun c => Reg.w c.wd)
  | _ => []

/-- A fixing operation (Table 16-7): an ATOM is one only when it returns a value. -/
def fixes (op : Op) (sh : Shape) : Bool :=
  op.info.is .fixing && (match sh with | .m f => !f.wbs | _ => true)

/-- A participant must wait at a word: a slot named in WM has not drained (R36), a register is still owed (R38), its slot holds 63
operations (R37), or the primary's copy of a fixing operation has no result yet (R366). -/
def State.laneWaits (s : State) (h : Word) (e : Env) (op : Op) (sh : Shape) : Bool :=
  (waitsOnSlots h e.idx && e.th.undrained (hdrWM h)) ||
  e.th.owes (touched e op sh ++ unwound e op) ||
  (op.info.is .long && e.slot < 6 && decide (63 ≤ (e.th.owed.filter (fun o => o.slot == e.slot)).length)) ||
  (fixes op sh && s.isTwin e.blk && (s.stopDue e).isNone && (match s.twinRec e with | some r => !r.ready | none => true))

/-- A value that a recording launch logs: a value-returning ATOM's or a CLK reading (R377). -/
def logsValue (op : Op) (sh : Shape) : Bool :=
  match op, sh with
  | .clk, _ => true
  | _, .m f => op.info.is .fixing && !f.wbs
  | _, _ => false

/-- The pass of a word waits for one of its participants, or for room in the log. -/
def State.passWaits (s : State) (iss : Issue) (op : Op) (sh : Shape) : Bool :=
  (logsValue op sh && (match iss.who with | .lanes blk _ ms => s.recFull blk ms.length | .tile _ => false)) ||
  iss.who.parts.any (fun p => match s.env? p.2 (hdrSS iss.hdr) iss.pc iss.idx with
    | none => false
    | some e => s.laneWaits iss.hdr e op sh)

/-- The state while a pass goes through its participants: who goes on with the clause, who has moved to another clause, and whether the
tile sequencer waits. -/
structure PassOut where
  s      : State
  stay   : List Nat
  moved  : List Nat
  waited : Bool

/-- What follows the word: the index of the next word, and where the clause's threads go at its end. -/
structure PassPos where
  nextIdx : Nat
  last    : Bool
  follow  : DWord
  hold    : Bool

/-- Where a word stands in its clause. -/
def Issue.after (i : Issue) (op : Op) (sh : Shape) : PassPos :=
  let n := i.idx + 1 + extraWords op.info sh
  ⟨n, decide (hdrN i.hdr < n), nextClause i.pc i.line, hdrH i.hdr⟩

/-- A held thread keeps its clause, its line and the index of the next word; at the clause's end it stands at the clause that follows (R403). Until
the hold ends it keeps the line of the word that holds it. -/
def Thread.holdAt (th : Thread) (p : PassPos) (line : List Word) (h : Hold) : Thread :=
  if p.last then { th.moveTo p.follow p.hold with hold := some h, line := line } else { th with hold := some h, cont := p.nextIdx, line := line }

/-- A fixing operation makes a protected interval fixed (R360). -/
def State.markFixed (s : State) (e : Env) : State :=
  if e.prot = 0 then s else s.updBlock e.blk (fun b => { b with fixed := true })

/-- A fixing operation makes a protected interval fixed (R360), and under P2 its results are kept for the twin (R366). -/
def State.noteFixing (s : State) (e : Env) : State :=
  match e.lane with
  | .tile _ => s
  | .thr t =>
    if e.prot = 0 then s
    else
      let s := s.markFixed e
      if e.prot ≠ 2 then s
      else
        let r : FixRec := match (s.thread? t).bind (fun th => if th.owed.length > e.th.owed.length then th.owed.getLast? else none) with
          | some o => ⟨e.tid, e.th.fixed, o.tag, o.ready, o.wr⟩
          | none => ⟨e.tid, e.th.fixed, 0, true, []⟩
        (s.updBlock e.blk (fun b => { b with fixlog := b.fixlog ++ [r] })).updThread t (fun th => { th with fixed := th.fixed + 1 })

/-- The twin's copy of a fixing operation receives the primary's results (R366). -/
def takeTwin : Act := fun s e =>
  match s.twinRec e with
  | none => (s, .stay)
  | some r => (s.updLane e.lane (fun th => { th.puts r.wr with fixed := th.fixed + 1 }), .stay)

/-! ## The trail (R290 to R292) -/

/-- The w registers an instruction writes in a thread. The CAS forms return one word for 32 bits and two for 64 (R183); XWR writes the
register it reaches (R84). -/
def writtenW (e : Env) (op : Op) (sh : Shape) : List Nat :=
  match sh with
  | .a f =>
    match op, op.info.dk with
    | .xwr, _ => if f.wbs then [] else [(e.th.rx (f.b.toNat % 8)).base.toNat + (e.a f).toNat]
    | .tryMark, _ => []
    | _, .w n _ true => if f.wbs then [] else (List.range n).map (fun i => f.d.toNat + i)
    | _, _ => []
  | .m f =>
    match op, op.info.dk with
    | .atomCas, _ => if f.wbs then [] else [f.d.toNat]
    | .atomCas64, _ => if f.wbs then [] else [f.d.toNat, f.d.toNat + 1]
    | _, .w n _ true => if f.wbs then [] else (List.range n).map (fun i => f.d.toNat + i)
    | _, _ => []
  | _ => []

/-- The bytes an STS writes: its offset and size. -/
def stsSpan (e : Env) (op : Op) (sh : Shape) : Option (Nat × Nat) :=
  match op, sh with
  | .sts32, .m f => some ((e.offM f 4).toNat, 4)
  | .sts64, .m f => some ((e.offM f 8).toNat, 8)
  | .sts128, .m f => some ((e.offM f 16).toNat, 16)
  | .sts16, .m f => some ((e.offM f 2).toNat, 2)
  | _, _ => none

/-- The entries an instruction appends to a searching thread's trail, oldest first: registers at or above FLOOR, then words of the frame
window (R290). -/
def State.trailOf (s : State) (e : Env) (op : Op) (sh : Shape) : List TrailE :=
  let q := e.th.search
  if !q.mode then []
  else
    let frame := q.frame.toNat
    ((writtenW e op sh).filter (fun n => decide (q.floor ≤ n))).map (fun n => ⟨e.th.rw n, n, false⟩) ++
      (match stsSpan e op sh with
       | none => []
       | some (off, n) => ((wordsOf off n).filter (fun a => decide (frame ≤ a) && decide (a < frame + 256))).map
           (fun a => ⟨s.scrWord e.core a, (a - frame) / 4, true⟩))

/-- The entries a trail holds at most (R291). -/
def trailMax : Nat := 1024

/-- Entries are appended; the trail is held newest first. -/
def Thread.trailAdd (th : Thread) (es : List TrailE) : Thread :=
  if es = [] then th else { th with search := { th.search with trail := es.reverse ++ th.search.trail } }

/-- An instruction in a participant that may be searching: with no room on the trail it has no effect and raises trail overflow (R292). -/
def trailed (op : Op) (sh : Shape) (act : Act) : Act := fun s e =>
  let es := s.trailOf e op sh
  match act s e with
  | (s', .fault f) => (s', .fault f)
  | (s', d) =>
    if trailMax < e.th.search.trail.length + es.length then (s, .fault (.of 0x0E))
    else (s'.updLane e.lane (fun th => th.trailAdd es), d)

/-- One participant passes through a word: a due stop, the decode checks, the privilege check (R54), an uncorrectable error in what it reads (R369), then
the instruction. -/
def passOne (op : Op) (sh : Shape) (act : Act) (iss : Issue) (o : PassOut) (p : Nat × Lane) : PassOut :=
  let pos := iss.after op sh
  match o.s.env? p.2 (hdrSS iss.hdr) iss.pc iss.idx with
  | none => o
  | some e =>
    match o.s.stopDue e with
    | some st => { o with s := o.s.takeDue e iss.line st }
    | none =>
      match checkWord e.dec op.info sh with
      | some c => { o with s := o.s.takeFault e iss.line true iss.idx (.of c) }
      | none =>
        if op.info.is .priv && !e.sys then { o with s := o.s.takeFault e iss.line false iss.idx (.of 0x18) }
        else if e.badRead op sh then { o with s := o.s.takeFault e iss.line false iss.idx (.of 0x10) }
        else
          let twin := fixes op sh && o.s.isTwin e.blk
          match trailed op sh (if twin then takeTwin else act) o.s e with
          | (s, .stay) => { o with s := if fixes op sh && !twin then s.noteFixing e else s, stay := o.stay ++ [p.1] }
          | (s, .jump pc) => { o with s := s.updLane p.2 (fun th => th.moveTo pc pos.hold), moved := o.moved ++ [p.1] }
          | (s, .hold h) => { o with s := (if fixes op sh then s.markFixed e else s).updLane p.2 (fun th => th.holdAt pos iss.line h) }
          | (s, .gone) => { o with s := s }
          | (s, .wait) => { o with s := s, waited := true }
          | (s, .fault f) => { o with s := s.takeFault e iss.line false iss.idx f }

/-- The participants that go on with the clause and are still live. -/
def PassOut.staying (o : PassOut) (a : Agent) : List Nat :=
  o.stay.filter (fun m => match o.s.lane? (a.lane m) with | some th => th.live | none => false)

/-- After a pass: the clause goes on with its next word, or ends and its threads stand at the clause that follows (R33), at once issued
under H (R40). -/
def finishPass (iss : Issue) (rest : List Issue) (op : Op) (sh : Shape) (o : PassOut) : State :=
  let pos := iss.after op sh
  let stay := o.staying iss.who
  let who := iss.who.with stay
  let live (s : State) : List Issue := rest.filter (fun i => s.issues.contains i)
  if !pos.last && stay != [] then { o.s with issues := ({ iss with who := who, idx := pos.nextIdx } : Issue).byLane ++ live o.s }
  else
    let s := stay.foldl (fun s m => s.updLane (iss.who.lane m) (fun th => th.moveTo pos.follow pos.hold)) o.s
    let s := { s with issues := live s }
    let on := (iss.who.parts.map (fun p => p.1)).filter (fun m => stay.contains m || o.moved.contains m)
    if pos.hold && on != [] then s.chain who on else s

/-- An instruction word executed by the clause at the head of those in execution: one pass through its participants, unless one of them
must wait. -/
def laneStep (op : Op) (sh : Shape) (act : Act) (s : State) : Host.Outcome State Fault Refusal :=
  match s.issues with
  | [] => .fault .noIssue
  | iss :: rest =>
    if s.passWaits iss op sh then .next s
    else
      let o := iss.who.parts.foldl (passOne op sh act iss) ⟨s, [], [], false⟩
      if o.waited then .next s else .next (finishPass iss rest op sh o)

/-! ## Results -/

/-- A result produced in the pass: pushed into y0, then written (R39, R42). -/
def Thread.result (th : Thread) (y : Word) (wr : List RegVal) : Thread := (th.pushY y).puts wr

/-- A GEN instruction with a w result. -/
def genW (f : FmtA) (v : Env → Word) : Act := fun s e =>
  (s.setLane e.lane (e.th.result (v e) (toW f.wbs f.d [v e])), .stay)

/-- A GEN instruction with a predicate result (R80). -/
def genP (f : FmtA) (v : Env → Bool) : Act := fun s e =>
  (s.setLane e.lane (e.th.result (boolWord (v e)) (toP f.wbs f.d (v e))), .stay)

/-- A result is owed to a thread under a slot. An operation that writes nothing and has no slot is not tracked. -/
def State.oweTo (s : State) (t : TRef) (slot : Nat) (ready : Bool) (wr : List RegVal) : State :=
  if slot = 7 ∧ wr = [] then s
  else { s.updThread t (fun th => { th with owed := th.owed ++ [⟨slot, s.tags + 1, ready, wr⟩] }) with tags := s.tags + 1 }

/-- A long-latency result is owed to the thread under the clause's slot (R37). The tile sequencer's is written at once (log entry 9). -/
def State.owe (s : State) (e : Env) (ready : Bool) (wr : List RegVal) : State :=
  match e.lane with
  | .tile _ => s.updLane e.lane (fun th => th.puts wr)
  | .thr t => s.oweTo t e.slot ready wr

/-- The participants of the clause at the head, as they stand when a collective issues (R73, R96); a participant that stops takes no part. -/
def State.group (s : State) (op : Op) (sh : Shape) : List Env :=
  match s.issues with
  | [] => []
  | iss :: _ => (iss.who.parts.filterMap (fun p => s.env? p.2 (hdrSS iss.hdr) iss.pc iss.idx)).filter
      (fun e => (checkWord e.dec op.info sh).isNone && (s.stopDue e).isNone && !e.badRead op sh)

/-- A collective, or an instruction that executes once per issue: what it does in a participant depends on all of them (R73, R86). -/
def groupStep (op : Op) (sh : Shape) (act : List Env → Act) (s : State) : Host.Outcome State Fault Refusal :=
  laneStep op sh (act (s.group op sh)) s

/-- The participant with the lowest tid, whose operands an instruction that executes once per issue reads (R86); the participant itself when
it stands alone. -/
def leadOf (g : List Env) (e : Env) : Env := g.headD e

/-- A long-latency instruction whose result is known at its issue. -/
def longRegs (v : State → Env → List RegVal) : Act := fun s e => (s.owe e true (v s e), .stay)

/-- An instruction that executes once per issue with the operands of its lowest-tid participant (R86): the effect happens before the pass goes
through the participants, and each of them is owed the same results, is held, or faults. A twin's copy has no effect of its own (R366). -/
def onceStep (op : Op) (sh : Shape) (eff : State → Env → State × List RegVal × Disp) (s : State) : Host.Outcome State Fault Refusal :=
  match s.issues with
  | [] => .fault .noIssue
  | iss :: _ =>
    if s.passWaits iss op sh then .next s
    else
      match s.group op sh with
      | [] => laneStep op sh (fun s _ => (s, .stay)) s
      | lead :: _ =>
        if fixes op sh && s.isTwin lead.blk then laneStep op sh (fun s _ => (s, .stay)) s
        else
          match eff s lead with
          | (s', wr, .stay) => laneStep op sh (fun s e => (s.owe e true wr, .stay)) s'
          | (s', _, d) => laneStep op sh (fun s _ => (s, d)) s'

end Sys2Proof.Machine
end

