-- ==== Sys2Proof/Machine/Integer.lean ====
section
/-!
DEFINITION. GEN integer, logic, shift, bit-field, compare, select, predicate, move, index, address and uniform instructions, and RDL (R76 to
R87).
-/

namespace Sys2Proof.Machine

/-- A two-operand instruction with a w result. -/
def alu2 (op : Op) (f : FmtA) (v : Word → Word → Word) (s : State) : Host.Outcome State Fault Refusal :=
  laneStep op (.a f) (genW f (fun e => v (e.a f) (e.b f))) s

/-- A one-operand instruction with a w result. -/
def alu1 (op : Op) (f : FmtA) (v : Word → Word) (s : State) : Host.Outcome State Fault Refusal :=
  laneStep op (.a f) (genW f (fun e => v (e.a f))) s

/-- A three-input instruction: D is read and written (R42). -/
def alu3 (op : Op) (f : FmtA) (v : Word → Word → Word → Word) (s : State) : Host.Outcome State Fault Refusal :=
  laneStep op (.a f) (genW f (fun e => v (e.a f) (e.b f) (e.d f.d))) s

/-- A compare of two operands. -/
def cmp2 (op : Op) (f : FmtA) (v : Word → Word → Bool) (s : State) : Host.Outcome State Fault Refusal :=
  laneStep op (.a f) (genP f (fun e => v (e.a f) (e.b f))) s

/-- An exact integer clamped to i32 (R77). -/
def clampI32 (v : Int) : Word := BitVec.ofInt 32 (max (-2147483648) (min 2147483647 v))
/-- An exact integer clamped to n32 (R77). -/
def clampN32 (v : Int) : Word := BitVec.ofInt 32 (max 0 (min 4294967295 v))

/-! ## Arithmetic and logic (Table 3-2) -/

def execIadd (f : FmtA) (s : State) : Host.Outcome State Fault Refusal := alu2 .iadd f (fun a b => a + b) s
def execIaddSatI (f : FmtA) (s : State) : Host.Outcome State Fault Refusal := alu2 .iaddSatI f (fun a b => clampI32 (sx a + sx b)) s
def execIaddSatN (f : FmtA) (s : State) : Host.Outcome State Fault Refusal :=
  alu2 .iaddSatN f (fun a b => clampN32 ((zx a : Int) + zx b)) s
def execIsub (f : FmtA) (s : State) : Host.Outcome State Fault Refusal := alu2 .isub f (fun a b => a - b) s
def execIsubSatI (f : FmtA) (s : State) : Host.Outcome State Fault Refusal := alu2 .isubSatI f (fun a b => clampI32 (sx a - sx b)) s
def execIsubSatN (f : FmtA) (s : State) : Host.Outcome State Fault Refusal :=
  alu2 .isubSatN f (fun a b => clampN32 ((zx a : Int) - zx b)) s
def execImul (f : FmtA) (s : State) : Host.Outcome State Fault Refusal := alu2 .imul f (fun a b => a * b) s
def execImulHiI (f : FmtA) (s : State) : Host.Outcome State Fault Refusal :=
  alu2 .imulHiI f (fun a b => (BitVec.ofInt 64 (sx a * sx b)).extractLsb' 32 32) s
def execImulHiN (f : FmtA) (s : State) : Host.Outcome State Fault Refusal :=
  alu2 .imulHiN f (fun a b => (BitVec.ofNat 64 (zx a * zx b)).extractLsb' 32 32) s
def execImad (f : FmtA) (s : State) : Host.Outcome State Fault Refusal := alu3 .imad f (fun a b d => a * b + d) s
def execIminI (f : FmtA) (s : State) : Host.Outcome State Fault Refusal := alu2 .iminI f (fun a b => if ltI b a then b else a) s
def execIminN (f : FmtA) (s : State) : Host.Outcome State Fault Refusal := alu2 .iminN f (fun a b => if ltN b a then b else a) s
def execImaxI (f : FmtA) (s : State) : Host.Outcome State Fault Refusal := alu2 .imaxI f (fun a b => if ltI a b then b else a) s
def execImaxN (f : FmtA) (s : State) : Host.Outcome State Fault Refusal := alu2 .imaxN f (fun a b => if ltN a b then b else a) s
def execAnd (f : FmtA) (s : State) : Host.Outcome State Fault Refusal := alu2 .and f (fun a b => a &&& b) s
def execOr (f : FmtA) (s : State) : Host.Outcome State Fault Refusal := alu2 .or f (fun a b => a ||| b) s
def execXor (f : FmtA) (s : State) : Host.Outcome State Fault Refusal := alu2 .xor f (fun a b => a ^^^ b) s
def execAndn (f : FmtA) (s : State) : Host.Outcome State Fault Refusal := alu2 .andn f (fun a b => a &&& ~~~b) s

/-! ## Shifts and bit counts (Table 3-3): the count is taken whole -/

def execShl (f : FmtA) (s : State) : Host.Outcome State Fault Refusal :=
  alu2 .shl f (fun a b => if zx b ≥ 32 then 0 else a <<< zx b) s
def execShr (f : FmtA) (s : State) : Host.Outcome State Fault Refusal :=
  alu2 .shr f (fun a b => if zx b ≥ 32 then 0 else a >>> zx b) s
def execSar (f : FmtA) (s : State) : Host.Outcome State Fault Refusal :=
  alu2 .sar f (fun a b => a.sshiftRight (min (zx b) 31)) s
def execRol (f : FmtA) (s : State) : Host.Outcome State Fault Refusal := alu2 .rol f (fun a b => a.rotateLeft (zx b % 32)) s

/-- The number of one bits. -/
def popCount (w : Word) : Nat := ((List.range 32).filter (fun i => w.getLsbD i)).length
/-- Zero bits from bit 31 down to the first one bit. -/
def leadZeros (w : Word) : Nat := ((List.range 32).takeWhile (fun i => !w.getLsbD (31 - i))).length
/-- Zero bits from bit 0 up to the first one bit. -/
def trailZeros (w : Word) : Nat := ((List.range 32).takeWhile (fun i => !w.getLsbD i)).length

def execPopc (f : FmtA) (s : State) : Host.Outcome State Fault Refusal := alu1 .popc f (fun a => BitVec.ofNat 32 (popCount a)) s
def execClz (f : FmtA) (s : State) : Host.Outcome State Fault Refusal := alu1 .clz f (fun a => BitVec.ofNat 32 (leadZeros a)) s
def execBrev (f : FmtA) (s : State) : Host.Outcome State Fault Refusal := alu1 .brev f (fun a => a.reverse) s
def execCtz (f : FmtA) (s : State) : Host.Outcome State Fault Refusal := alu1 .ctz f (fun a => BitVec.ofNat 32 (trailZeros a)) s

/-! ## Bit fields (R79) -/

/-- The position, and the width clipped at bit 31, that B gives. -/
def fieldPos (b : Word) : Nat := (b.extractLsb' 0 5).toNat
def fieldWidth (b : Word) : Nat := min (b.extractLsb' 8 6).toNat (32 - fieldPos b)

/-- The field of A. -/
def fieldOf (a b : Word) : Nat := a.toNat / 2 ^ fieldPos b % 2 ^ fieldWidth b

/-- BFX.I's sign extension; 0 for an empty field. -/
def fieldSigned (a b : Word) : Word :=
  if fieldWidth b = 0 then 0 else BitVec.ofInt 32 (sextNat (fieldWidth b) (fieldOf a b))

/-- BFI's merge. -/
def fieldInsert (a b d : Word) : Word :=
  let m : Word := BitVec.ofNat 32 ((2 ^ fieldWidth b - 1) * 2 ^ fieldPos b)
  (d &&& ~~~m) ||| ((a <<< fieldPos b) &&& m)

def execBfxN (f : FmtA) (s : State) : Host.Outcome State Fault Refusal := alu2 .bfxN f (fun a b => BitVec.ofNat 32 (fieldOf a b)) s
def execBfxI (f : FmtA) (s : State) : Host.Outcome State Fault Refusal := alu2 .bfxI f fieldSigned s
def execBfi (f : FmtA) (s : State) : Host.Outcome State Fault Refusal := alu3 .bfi f fieldInsert s

/-! ## Compares, select and predicates (R80 to R82) -/

def execIcmpEq (f : FmtA) (s : State) : Host.Outcome State Fault Refusal := cmp2 .icmpEq f (fun a b => a == b) s
def execIcmpNe (f : FmtA) (s : State) : Host.Outcome State Fault Refusal := cmp2 .icmpNe f (fun a b => a != b) s
def execIcmpLtI (f : FmtA) (s : State) : Host.Outcome State Fault Refusal := cmp2 .icmpLtI f ltI s
def execIcmpLtN (f : FmtA) (s : State) : Host.Outcome State Fault Refusal := cmp2 .icmpLtN f ltN s
def execIcmpLeI (f : FmtA) (s : State) : Host.Outcome State Fault Refusal := cmp2 .icmpLeI f leI s
def execIcmpLeN (f : FmtA) (s : State) : Host.Outcome State Fault Refusal := cmp2 .icmpLeN f leN s
def execIcmpTst (f : FmtA) (s : State) : Host.Outcome State Fault Refusal := cmp2 .icmpTst f (fun a b => (a &&& b) != 0) s

/-- SEL on the predicate its FN names (R81). -/
def execSel (fn : BitVec 2) (f : FmtA) (s : State) : Host.Outcome State Fault Refusal :=
  laneStep (selOp fn) (.a f) (genW f (fun e => if e.th.rp fn.toNat then e.a f else e.b f)) s

/-- A predicate operation on the predicates that A[2:0] and B[2:0] name (R82). -/
def pred2 (op : Op) (f : FmtA) (v : Bool → Bool → Bool) (s : State) : Host.Outcome State Fault Refusal :=
  laneStep op (.a f) (genP f (fun e => v (e.pred f.a) (e.pred f.b))) s

def execPand (f : FmtA) (s : State) : Host.Outcome State Fault Refusal := pred2 .pand f (fun a b => a && b) s
def execPor (f : FmtA) (s : State) : Host.Outcome State Fault Refusal := pred2 .por f (fun a b => a || b) s
def execPxor (f : FmtA) (s : State) : Host.Outcome State Fault Refusal := pred2 .pxor f (fun a b => a != b) s
def execPnot (f : FmtA) (s : State) : Host.Outcome State Fault Refusal := pred2 .pnot f (fun a _ => !a) s

/-! ## Moves, index registers and addresses (R83 to R85) -/

def execMov (f : FmtA) (s : State) : Host.Outcome State Fault Refusal := alu1 .mov f (fun a => a) s

/-- The index register that B[2:0] names. -/
def Env.xB (e : Env) (f : FmtA) : XReg := e.th.rx (f.b.toNat % 8)
/-- The register an index register reaches at offset A (R84). -/
def Env.xReach (e : Env) (f : FmtA) : Nat := (e.xB f).base.toNat + (e.a f).toNat

def execXrd (f : FmtA) (s : State) : Host.Outcome State Fault Refusal :=
  laneStep .xrd (.a f) (fun s e =>
    if (e.xB f).count.toNat ≤ (e.a f).toNat then (s, .fault (.of 0x05))
    else genW f (fun e => e.th.rw (e.xReach f)) s e) s

/-- XWR pushes the value of D; WBS set leaves w[x.base + A] unchanged (R84). -/
def execXwr (f : FmtA) (s : State) : Host.Outcome State Fault Refusal :=
  laneStep .xwr (.a f) (fun s e =>
    if (e.xB f).count.toNat ≤ (e.a f).toNat then (s, .fault (.of 0x05))
    else (s.setLane e.lane (e.th.result (e.d f.d) (if f.wbs then [] else [.w (e.xReach f) (e.d f.d)])), .stay)) s

/-- XSET pushes no latch (R84). -/
def execXset (f : FmtA) (s : State) : Host.Outcome State Fault Refusal :=
  laneStep .xset (.a f) (fun s e =>
    let base := (e.a f).toNat
    let count := (e.b f).toNat
    if 127 < base ∨ 255 < count ∨ e.dec.regs < base + count then (s, .fault (.of 0x05))
    else if f.wbs then (s, .stay)
    else (s.setLane e.lane { e.th with x := e.th.x.setIfInBounds (f.d.toNat % 8) ⟨BitVec.ofNat 7 base, BitVec.ofNat 8 count⟩ }, .stay)) s

/-- 64-bit address arithmetic: A:A+1 plus B × scale; the low word is pushed (R85). -/
def addrOp (op : Op) (f : FmtA) (scale : Int) (s : State) : Host.Outcome State Fault Refusal :=
  laneStep op (.a f) (fun s e =>
    let r := e.pair f.a + BitVec.ofInt 64 (sx (e.b f) * scale)
    (s.setLane e.lane (e.th.result (r.extractLsb' 0 32) (toW f.wbs f.d (lohi r))), .stay)) s

def execAdda (f : FmtA) (s : State) : Host.Outcome State Fault Refusal := addrOp .adda f 1 s
def execAddaX4 (f : FmtA) (s : State) : Host.Outcome State Fault Refusal := addrOp .addaX4 f 4 s
def execAddaX16 (f : FmtA) (s : State) : Host.Outcome State Fault Refusal := addrOp .addaX16 f 16 s
def execSuba (f : FmtA) (s : State) : Host.Outcome State Fault Refusal := addrOp .suba f (-1) s

/-! ## Uniform instructions and RDL (R86, R87) -/

/-- A uniform result: the lowest-tid participant's value is written to the s register, and every participant pushes it. -/
def uniOp (op : Op) (f : FmtA) (v : List Env → Env → Word) (s : State) : Host.Outcome State Fault Refusal :=
  groupStep op (.a f) (fun g s e =>
    let r := v g (leadOf g e)
    let s := s.updLane e.lane (fun th => th.pushY r)
    match e.lane with
    | .thr t => (if f.wbs then s else s.updUni t (fun u => u.setIfInBounds (f.d.toNat % 64) r), .stay)
    | .tile _ => (s, .stay)) s

def execSmov (f : FmtA) (s : State) : Host.Outcome State Fault Refusal := uniOp .smov f (fun _ e => e.a f) s
def execSadd (f : FmtA) (s : State) : Host.Outcome State Fault Refusal := uniOp .sadd f (fun _ e => e.a f + e.b f) s
def execSand (f : FmtA) (s : State) : Host.Outcome State Fault Refusal := uniOp .sand f (fun _ e => e.a f &&& e.b f) s
def execSshl (f : FmtA) (s : State) : Host.Outcome State Fault Refusal :=
  uniOp .sshl f (fun _ e => if zx (e.b f) ≥ 32 then 0 else e.a f <<< zx (e.b f)) s

/-- The value of a participant by its index in the warp; an inactive thread supplies `d` (R73). -/
def byIndex {α : Type} (g : List Env) (m : Nat) (d : α) (v : Env → α) : α :=
  match g.find? (fun e => e.m == m) with
  | some e => v e
  | none => d

def execRdl (f : FmtA) (s : State) : Host.Outcome State Fault Refusal :=
  uniOp .rdl f (fun g e => byIndex g ((e.b f).toNat % 32) 0 (fun x => x.a f)) s

end Sys2Proof.Machine
end

