-- ==== Sys2Proof/Machine/Control.lean ====
section
/-!
DEFINITION. Control instructions, return stacks, votes and the end of a thread (R74, R75, R88 to R95).
-/

namespace Sys2Proof.Machine

/-! ## Ending a thread -/

/-- The launch counter of a launch falls by one (R30). -/
def State.launchDown (s : State) (lid : Nat) : State :=
  { s with launches := Tab.upd s.launches lid (fun l => { l with count := l.count - 1 }) }

/-- A thread ends (R93): it is no longer live, its return-stack part of the loft is free (R74), it leaves search mode
(R295), an item's exit lowers its launch's counter
(R323), and a pair thread's staged entries go to its launch to be applied (R234). A tile program's end waits for its MAT operations
(R245). -/
def State.exitThread (s : State) (e : Env) : State :=
  match e.lane with
  | .tile c => s.updTile c (fun r => { r with ended := true })
  | .thr t =>
    match s.block? t.blk with
    | none => s
    | some b =>
      let s := if e.th.loftRs then s.loftBack t.blk 192 else s
      let s := if e.th.search.mode then s.loftBack t.blk searchLoft else s
      let s := s.updThread t (fun th => { th with live := false, loftRs := false, search := Search.none })
      match b.kind, e.th.item with
      | .item, _ => (s.settle t).launchDown b.lid
      | .pair, some it =>
        { s with pairs := Tab.upd s.pairs b.lid (fun p => { p with apply := p.apply ++ [(it, e.th.staged)], running := p.running.erase it.n }) }
      | _, _ => s

/-! ## Branches -/

/-- A control transfer to a target that must be a clause start (R33, R88). -/
def jumpTo (pc : DWord) : Act := fun s e =>
  match s.targetOk e pc with
  | (s, true) => (s, .jump pc)
  | (s, false) => (s, .fault (.of 0x0C))

/-- A format C word's target (R46). -/
def Env.targetC (e : Env) (f : FmtC) : DWord := relTarget e.pc e.idx f.off.toInt

def execBr (f : FmtC) (s : State) : Host.Outcome State Fault Refusal :=
  laneStep .br (.c f) (fun s e => jumpTo (e.targetC f) s e) s
def execBrIfP (f : FmtC) (s : State) : Host.Outcome State Fault Refusal :=
  laneStep .brIfP (.c f) (fun s e => if e.th.rp f.p.toNat then jumpTo (e.targetC f) s e else (s, .stay)) s
def execBrIfNotP (f : FmtC) (s : State) : Host.Outcome State Fault Refusal :=
  laneStep .brIfNotP (.c f) (fun s e => if e.th.rp f.p.toNat then (s, .stay) else jumpTo (e.targetC f) s e) s

/-! ## Calls and return stacks (R74, R89, R90) -/

/-- The address of the clause that follows the one a participant executes, as its issue captured it (R33). -/
def State.followOf (s : State) (e : Env) : DWord :=
  match s.issues with
  | iss :: _ => nextClause e.pc iss.line
  | [] => e.pc

/-- The largest number of entries a return stack holds: 32 for a thread, 8 in the tile sequencer (R74). -/
def Env.stackMax (e : Env) : Nat := if e.dec.tile then 8 else 32

/-- A return address is pushed; the ninth entry reserves the thread's part of the loft (R74). None when that fails. -/
def State.pushRet (s : State) (e : Env) (a : DWord) : Option State :=
  let push (s : State) : State := s.updLane e.lane (fun th =>
    { th with stack := a :: th.stack, badRet := th.badRet.filter (fun k => k != th.stack.length) })
  if e.stackMax ≤ e.th.stack.length then none
  else if e.th.stack.length < 8 ∨ e.th.loftRs then some (push s)
  else (s.loftTake e.ctx (coreDie e.core) 192).map (fun s => (push s).updLane e.lane (fun th => { th with loftRs := true }))

/-- A call: the target's fault comes before the push's (R89). -/
def callTo (pc : DWord) : Act := fun s e =>
  match s.targetOk e pc with
  | (s, false) => (s, .fault (.of 0x0C))
  | (s, true) =>
    match s.pushRet e (s.followOf e) with
    | none => (s, .fault (.of 0x1A))
    | some s => (s, .jump pc)

def execCall (f : FmtC) (s : State) : Host.Outcome State Fault Refusal :=
  laneStep .call (.c f) (fun s e => callTo (e.targetC f) s e) s
def execCallIndirect (f : FmtA) (s : State) : Host.Outcome State Fault Refusal :=
  laneStep .callIndirect (.a f) (fun s e => callTo (e.pair f.a) s e) s

/-- RET on an empty stack ends the thread as EXIT does (R90). -/
def execRet (f : FmtA) (s : State) : Host.Outcome State Fault Refusal :=
  laneStep .ret (.a f) (fun s e =>
    match e.th.stack with
    | [] => (s.exitThread e, .gone)
    | a :: rest =>
      match s.targetOk e a with
      | (s, false) => (s, .fault (.of 0x0C))
      | (s, true) => (s.updLane e.lane (fun th => { th with stack := rest }), .jump a)) s

/-- The target of SWITCH: the first table word whose compare value equals A (R91); table word i stands i + 1 words after the SWITCH. -/
def switchTarget (e : Env) (a : Word) (table : List Word) : Option DWord :=
  (table.zipIdx.find? (fun p => a.toNat == (p.1.extractLsb' 16 16).toNat)).map
    (fun p => relTarget e.pc (e.idx + 1 + p.2) (p.1.extractLsb' 0 16).toInt)

def execSwitch (f : FmtSwitch) (s : State) : Host.Outcome State Fault Refusal :=
  laneStep .switch (.sw f) (fun s e =>
    match switchTarget e (e.val f.f.a 0) f.table with
    | none => (s, .stay)
    | some pc => jumpTo pc s e) s

/-! ## Votes (R92) -/

/-- The participants whose predicate B[2:0] is 1. -/
def votes (f : FmtA) (g : List Env) : List Env := g.filter (fun e => e.pred f.b)

/-- A vote that writes a predicate. -/
def voteP (op : Op) (f : FmtA) (v : List Env → Bool) (s : State) : Host.Outcome State Fault Refusal :=
  groupStep op (.a f) (fun g => genP f (fun _ => v g)) s
/-- A vote that writes a w register. -/
def voteW (op : Op) (f : FmtA) (v : List Env → Word) (s : State) : Host.Outcome State Fault Refusal :=
  groupStep op (.a f) (fun g => genW f (fun _ => v g)) s

def execVoteAny (f : FmtA) (s : State) : Host.Outcome State Fault Refusal := voteP .voteAny f (fun g => !(votes f g).isEmpty) s
def execVoteAll (f : FmtA) (s : State) : Host.Outcome State Fault Refusal := voteP .voteAll f (fun g => g.all (fun e => e.pred f.b)) s
def execVoteBallot (f : FmtA) (s : State) : Host.Outcome State Fault Refusal :=
  voteW .voteBallot f (fun g => (votes f g).foldl (fun w e => w ||| BitVec.twoPow 32 e.m) 0) s
def execVoteCnt (f : FmtA) (s : State) : Host.Outcome State Fault Refusal :=
  voteW .voteCnt f (fun g => BitVec.ofNat 32 (votes f g).length) s

/-! ## EXIT, YIELD and NOP (R93 to R95) -/

def execExit (f : FmtA) (s : State) : Host.Outcome State Fault Refusal :=
  laneStep .exit (.a f) (fun s e => (s.exitThread e, .gone)) s

/-- The thread stands at the clause that follows, its age is 0, and it is left out of votes until its slice issues elsewhere (R94). -/
def execYield (f : FmtA) (s : State) : Host.Outcome State Fault Refusal :=
  laneStep .yield (.a f) (fun s e =>
    (s.updLane e.lane (fun th => { th with age := 0, yieldAt := some (s.followOf e) }), .jump (s.followOf e))) s

def execNop (f : FmtA) (s : State) : Host.Outcome State Fault Refusal :=
  laneStep .nop (.a f) (fun s _ => (s, .stay)) s

end Sys2Proof.Machine
end

