-- ==== Sys2Proof/Machine/Search.lean ====
section
/-!
DEFINITION. Search instructions: try, fail and gleaning (R289 to R308). The sheaf and the trail are held newest first.
-/

namespace Sys2Proof.Machine

/-- The choice points a sheaf holds at most (R293). -/
def sheafMax : Nat := 272

/-- Entries put back into registers, newest first; window entries are left out. -/
def restoreRegs (th : Thread) (es : List TrailE) : Thread :=
  es.foldl (fun th t => if t.win then th else th.put (.w t.loc t.old)) th

/-- The trail of a participant unwinds to a mark (R291): registers and window words get their old values back, newest first. None when the
window words do not fit the protected interval's journal (R360, R365). -/
def State.unwind (s : State) (e : Env) (th : Thread) (m : Nat) : Option (State × Thread) :=
  let es := th.search.trail.take (th.search.trail.length - m)
  let th := { restoreRegs th es with search := { th.search with trail := th.search.trail.drop (th.search.trail.length - m) } }
  let wins := es.filter (fun t => t.win)
  (wins.foldl (fun (s : Option State) t => s.bind (fun s => s.scrStore e.blk e.core (th.search.frame.toNat + 4 * t.loc) (leBytes 4 t.old.toNat)))
    (some s)).map (fun s => (s, th))

/-- A thread leaves search mode: sheaf and trail are gone and the loft is given back (R295). -/
def State.endSearch (s : State) (e : Env) : State :=
  (s.loftBack e.blk searchLoft).updLane e.lane (fun th => { th with search := Search.none })

/-- A selector of SBEGIN's operand word (R294). -/
def sbeginSel (f : FmtSbegin) (k : Nat) : BitVec 8 := f.operand.extractLsb' (8 * k) 8

def execSbegin (f : FmtSbegin) (s : State) : Host.Outcome State Fault Refusal :=
  laneStep .sbegin (.sb f) (fun s e =>
    let frame := e.val (sbeginSel f 0) 0
    let floor := (e.val (sbeginSel f 1) 0).toNat
    let label := e.targetC f.f
    if e.th.search.mode then (s, .fault (.of 0x03))
    else if e.dec.regs < floor then (s, .fault (.of 0x03))
    else if frame.toNat % 16 ≠ 0 then (s, .fault (.of 0x06))
    else if frame.toNat < e.scrBase ∨ e.scrBase + e.scrSize < frame.toNat + 256 then (s, .fault (.of 0x08))
    else
      match s.targetOk e label with
      | (s, false) => (s, .fault (.of 0x0C))
      | (s, true) =>
        match s.loftTake e.ctx (coreDie e.core) searchLoft with
        | none => (s, .fault (.of 0x1A))
        | some s => (s.updLane e.lane (fun th => { th with search := ⟨true, label, frame, floor, [], []⟩ }), .stay)) s

def execSend (f : FmtA) (s : State) : Host.Outcome State Fault Refusal :=
  laneStep .send (.a f) (fun s e => if e.th.search.mode then (s.endSearch e, .stay) else (s, .fault (.of 0x03))) s

/-- TRY: the entry that saves WD comes before the mark is taken (R296). -/
def execTryMark (f : FmtT) (s : State) : Host.Outcome State Fault Refusal :=
  laneStep .tryMark (.t f) (fun s e =>
    let label := relTarget e.pc e.idx f.off.toInt
    let q := e.th.search
    let d := f.d.toNat
    if !q.mode then (s, .fault (.of 0x03))
    else
      match s.targetOk e label with
      | (s, false) => (s, .fault (.of 0x0C))
      | (s, true) =>
        let es : List TrailE := if q.floor ≤ d then [⟨e.th.rw d, d, false⟩] else []
        if sheafMax ≤ q.sheaf.length then (s, .fault (.of 0x0F))
        else if trailMax < q.trail.length + es.length then (s, .fault (.of 0x0E))
        else
          let trail := es ++ q.trail
          let c : Choice := ⟨label, f.n.toNat + 1, 1, trail.length, d⟩
          let th := (e.th.put (.w d 0)).pushY 0
          (s.setLane e.lane { th with search := { q with sheaf := c :: q.sheaf, trail := trail } }, .stay)) s

/-- The loop of FAIL over the sheaf (R297): the state, the thread after it, and where it goes on. -/
def failLoop (e : Env) : List Choice → State → Thread → Option (State × Thread × DWord)
  | [], s, th => (s.unwind e th 0).map (fun r => (r.1, { r.2 with search := { r.2.search with sheaf := [] } }, th.search.exit))
  | c :: cs, s, th =>
    match s.unwind e th c.mark with
    | none => none
    | some (s, th) =>
      if c.next < c.n then
        let th := th.put (.w c.wd (BitVec.ofNat 32 c.next))
        some (s, { th with search := { th.search with sheaf := { c with next := c.next + 1 } :: cs } }, c.resume)
      else failLoop e cs s th

/-- FAIL in a participant that fails. -/
def failAct : Act := fun s e =>
  if !e.th.search.mode then (s, .fault (.of 0x03))
  else
    match failLoop e e.th.search.sheaf s e.th with
    | none => (s, .fault (.of 0x19))
    | some (s, th, pc) => (s.setLane e.lane th, .jump pc)

def execFail (f : FmtC) (s : State) : Host.Outcome State Fault Refusal := laneStep .fail (.c f) failAct s
def execFailIfP (f : FmtC) (s : State) : Host.Outcome State Fault Refusal :=
  laneStep .failIfP (.c f) (fun s e => if e.th.rp f.p.toNat then failAct s e else (s, .stay)) s
def execFailIfNotP (f : FmtC) (s : State) : Host.Outcome State Fault Refusal :=
  laneStep .failIfNotP (.c f) (fun s e => if e.th.rp f.p.toNat then (s, .stay) else failAct s e) s

/-- Choice points 0 to k - 1 are kept; k = 0 empties the trail as well (R298). -/
def cutAct (k : Env → Nat) : Act := fun s e =>
  let q := e.th.search
  if !q.mode then (s, .fault (.of 0x03))
  else if k e = 0 then (s.setLane e.lane { e.th with search := { q with sheaf := [], trail := [] } }, .stay)
  else (s.setLane e.lane { e.th with search := { q with sheaf := q.sheaf.drop (q.sheaf.length - k e) } }, .stay)

def execCut (f : FmtA) (s : State) : Host.Outcome State Fault Refusal := laneStep .cut (.a f) (cutAct (fun e => (e.a f).toNat)) s
def execCutall (f : FmtA) (s : State) : Host.Outcome State Fault Refusal := laneStep .cutall (.a f) (cutAct (fun _ => 0)) s

/-- Both read 0 outside search mode (R299). -/
def execDepth (f : FmtA) (s : State) : Host.Outcome State Fault Refusal :=
  laneStep .depth (.a f) (genW f (fun e => BitVec.ofNat 32 e.th.search.sheaf.length)) s
def execAlts (f : FmtA) (s : State) : Host.Outcome State Fault Refusal :=
  laneStep .alts (.a f) (genW f (fun e => match e.th.search.sheaf with
    | [] => 0
    | c :: _ => BitVec.ofNat 32 (c.n - c.next))) s

/-! ## Gleaning (R300 to R303) -/

/-- The shallowest choice point of a thread with an alternative left: its depth index and the choice point. -/
def shallowest (th : Thread) : Option (Nat × Choice) :=
  (th.search.sheaf.reverse.zipIdx.find? (fun p => decide (p.1.next < p.1.n))).map (fun p => (p.2, p.1))

/-- The candidates of a thief, as depth, tid, thread and choice point (R300). -/
def gleanCands (b : Block) (key floor : Nat) : List (Nat × Nat × TRef × Choice) :=
  (b.trefs key).filterMap (fun t => match b.thread? t.wp t.m with
    | none => none
    | some th =>
      if th.live ∧ th.search.mode ∧ th.search.floor = floor then
        (shallowest th).map (fun p => (p.1, 32 * t.wp + t.m, t, p.2))
      else none)

/-- The candidate of least depth, then lower tid. -/
def gleanBest (cs : List (Nat × Nat × TRef × Choice)) : Option (Nat × Nat × TRef × Choice) :=
  cs.foldl (fun best c => match best with
    | none => some c
    | some b => if c.1 < b.1 then some c else some b) none

/-- A twin's theft follows its primary's (R366): the victim's tid that the primary logged. -/
def State.gleanPick (s : State) (e : Env) (b : Block) : Option (Nat × Nat × TRef × Choice) :=
  let cs := gleanCands b e.blk e.th.search.floor
  if s.isTwin e.blk then
    match s.twinRec e with
    | some r => cs.find? (fun c => r.wr == [.w 0 (BitVec.ofNat 32 c.2.1)])
    | none => none
  else gleanBest cs

/-- The theft of R301: registers at and above FLOOR and the frame window as they stood at the choice point, and alternative N - 1. None when
no candidate can be taken now: there is none, registers that it reads of the victim or writes in the thief are still owed (R38, R302), or the
controller puts the thief off (R302, log entry 64). `some none` when the thief's window does
not fit its protected interval's journal (R365). -/
def State.steal (s : State) (e : Env) (t : TRef) : Option (Option State) :=
  match s.block? e.blk with
  | none => none
  | some b =>
    match s.gleanPick e b with
    | none => none
    | some (depth, vtid, v, c) =>
      match b.thread? v.wp v.m with
      | none => none
      | some vt =>
        let high := wRun e.th.search.floor (128 - e.th.search.floor)
        if s.putOff.contains t || vt.owes high || e.th.owes (.w c.wd :: high) then none
        else
          let es := vt.search.trail.take (vt.search.trail.length - c.mark)
          let vr := restoreRegs vt es
          let win := (List.range 64).map (fun i => s.scrWord e.core (vt.search.frame.toNat + 4 * i))
          let win := es.foldl (fun w x => if x.win then w.set x.loc x.old else w) win
          match s.scrStore e.blk e.core e.th.search.frame.toNat (wordsToBytes win) with
          | none => some none
          | some s =>
            let s := s.updThread v (fun th =>
              { th with search := { th.search with sheaf := (th.search.sheaf.reverse.modify depth (fun c => { c with n := c.n - 1 })).reverse } })
            let s := s.updThread t (fun th =>
              let floor := th.search.floor
              let th := (List.range (b.regs - th.search.floor)).foldl
                (fun th i => th.put (.w (th.search.floor + i) (vr.rw (th.search.floor + i)))) th
              let th := th.put (.w c.wd (BitVec.ofNat 32 (c.n - 1)))
              { th with search := { th.search with sheaf := [], trail := [] }, pc := c.resume, cont := 0, line := [], fixed := th.fixed + 1,
                        badW := th.badW ++ vr.badW.filter (fun n => decide (floor ≤ n) && n != c.wd) })
            some <| some (s.updBlock e.blk (fun b => { b with
              fixed := decide (b.prot ≠ 0) || b.fixed,
              fixlog := if b.prot = 2 && b.primary then b.fixlog ++ [⟨e.tid, e.th.fixed, 0, true, [.w 0 (BitVec.ofNat 32 vtid)]⟩] else b.fixlog }))

/-- Every live thread of the block waits in GLEAN and has no candidate (R303). -/
def gleanDone (b : Block) (key : Nat) : Bool :=
  b.warps.all (fun w => w.threads.all (fun th => !th.live ||
    (match th.hold with
     | some (.glean _ _) => th.stop.isNone && (gleanCands b key th.search.floor).isEmpty
     | _ => false)))

/-- GLEAN: the theft at once if it can be made, else the thief is held (R303). -/
def execGlean (f : FmtC) (s : State) : Host.Outcome State Fault Refusal :=
  laneStep .glean (.c f) (fun s e =>
    let label := e.targetC f
    if !e.th.search.mode ∨ e.th.search.sheaf ≠ [] then (s, .fault (.of 0x03))
    else
      match s.targetOk e label with
      | (s, false) => (s, .fault (.of 0x0C))
      | (s, true) =>
        match e.lane with
        | .tile _ => (s, .stay)
        | .thr t =>
          match s.steal e t with
          | some (some s') => (s', .jump (((s'.thread? t).map Thread.pc).getD e.pc))
          | some none => (s, .fault (.of 0x19))
          | none => (s, .hold (.glean e.pc e.idx))) s

end Sys2Proof.Machine
end

