-- ==== Sys2Proof/Machine/Memory.lean ====
section
/-!
DEFINITION. Memory instructions: sized and element loads and stores, scratchpad, sharing groups, the Silo, the loft, prefetch, the copy
engine's port, and allocation (R134 to R168).
-/

namespace Sys2Proof.Machine

/-! ## Reading and storing global memory -/

/-- Memory as a participant sees it: a tile program what is visible in its block (R266). Its own stores are performed at once (log entry 9). -/
def State.viewL (s : State) (e : Env) : Memory :=
  match e.lane with
  | .thr t => s.view t
  | .tile _ => s.blockView e.blk

/-- Keys whose bytes a held operation of the block provides. -/
def State.heldKeys (s : State) (blk : Nat) : List Nat :=
  match s.block? blk with
  | none => []
  | some b => (b.held.map (fun h => match h.act with | .store o => o.keys | _ => [])).flatten

/-- The bytes of a checked read. The thread's own earlier requests there come first (R171); an uncorrectable error is consumed (R369). -/
def State.readBytes (s : State) (e : Env) (va : DWord) (keys : List Nat) : State × Except FInfo (List Byte) :=
  let s := match e.lane with
    | .thr t => let s := s.settleBytes t keys; if s.memBad keys then s.flush t else s
    | .tile _ => s
  if s.memBad keys && s.memBad (keys.filter (fun k => !(s.heldKeys e.blk).contains k)) then (s, .error (.acc 0x10 va .read))
  else
    let m := s.viewL e
    (s, .ok (keys.map m.byte))

/-- Journal entries that n bytes of held data take (Table 16-7). -/
def heldEntries (n : Nat) : Nat := (n + 7) / 8

/-- What a held operation does at the commit. The second copy of a block takes it from the first, where that is ahead and may have performed it
already (R366). -/
def State.heldAct (s : State) (b : Block) (h : HeldOp) : HeldAct :=
  let mine (hs : List HeldOp) : List HeldOp := hs.filter (fun x => x.tid == h.tid)
  match if b.primary then none else b.twin.bind s.block? with
  | none => h.act
  | some o => (((mine o.held)[(mine b.held).length]?).map (fun x => x.act)).getD h.act

/-- An operation is held until the commit; none when the interval would grow too long (R199, R365). -/
def State.holdOp (s : State) (blk : Nat) (n : Nat) (h : HeldOp) : Option State :=
  match s.block? blk with
  | none => none
  | some b =>
    if journalMax < b.jcount + n then none
    else some (s.updBlock blk (fun b => { b with jcount := b.jcount + n, held := b.held ++ [{ h with act := s.heldAct b h }] }))

/-- The issue and the word that a participant's instruction belongs to. -/
def State.issueWord (s : State) (e : Env) : Nat × Nat := ((s.issues.head?.map (fun i => i.id)).getD 0, e.idx)

/-- A store by where its bytes go: those of this device, and those of peers with the thread that stores them. -/
def StoreOp.parted (o : StoreOp) (n : Nat × Nat) (t : TRef) : StoreOp × Option StoreOp :=
  let far (k : Nat) : Bool := decide (memKey 3 0 ≤ k)
  if o.keys.any far then ({ o.only (fun k => !far k) with peer := none }, some { o.only far with peer := some (n, [t]) }) else (o, none)

/-- The bytes for peers of two stores of one issue. -/
def StoreOp.joinPeer (q o : StoreOp) (t : TRef) : StoreOp :=
  { keys := q.keys ++ o.keys, data := q.data ++ o.data, peer := q.peer.map (fun p => (p.1, p.2 ++ [t])) }

/-- A store of the same issue and word as `n`. -/
def StoreOp.ofIssue (q : StoreOp) (n : Nat × Nat) : Bool := match q.peer with | some p => p.1 == n | none => false

/-- A thread's bytes for peers join those of its issue among the stores on their way (R327). -/
def joinOut (n : Nat × Nat) (t : TRef) (o : StoreOp) : List (TRef × StoreOp) → List (TRef × StoreOp)
  | [] => [(t, o)]
  | p :: ps => if p.2.ofIssue n then (p.1, p.2.joinPeer o t) :: ps else p :: joinOut n t o ps

/-- The same among held operations; none where the issue has no such bytes yet. -/
def joinHeld (n : Nat × Nat) (t : TRef) (o : StoreOp) : List HeldOp → Option (List HeldOp)
  | [] => none
  | h :: hs =>
    match h.act with
    | .store q => if q.ofIssue n then some ({ h with act := .store (q.joinPeer o t) } :: hs) else (joinHeld n t o hs).map (fun hs => h :: hs)
    | _ => (joinHeld n t o hs).map (fun hs => h :: hs)

/-- A store is held, its bytes for peers with those of its issue. `h` is the operation without what it does. -/
def State.holdStore (s : State) (blk k : Nat) (n : Nat × Nat) (t : TRef) (h : HeldOp) (o : StoreOp) : Option State :=
  match o.parted n t, s.block? blk with
  | (_, none), _ => s.holdOp blk k { h with act := .store o }
  | (near, some far), some b =>
    (match joinHeld n t far b.held with
     | some hs => (s.holdOp blk k { h with act := .store near }).map (fun s => s.updBlock blk (fun b => { b with held := hs ++ b.held.drop hs.length }))
     | none => s.holdOp blk k { h with act := .store { keys := near.keys ++ far.keys, data := near.data ++ far.data, peer := far.peer } })
  | _, none => none

/-- Other threads of the warp that have a store to these bytes that only they see show theirs to the block first, so that the latest issued stands
(R144). -/
def State.yieldBytes (s : State) (t : TRef) (keys : List Nat) : State :=
  match s.block? t.blk with
  | none => s
  | some b =>
    ((b.trefs t.blk).filter (fun u => u.wp == t.wp && u.m != t.m)).foldl (fun s u =>
      match s.thread? u with
      | none => s
      | some th => if th.stq.any (fun o => o.peer.isNone && o.keys.any (fun k => keys.contains k)) then s.flushBlk u else s) s

/-- A store that has passed its checks: in flight for a thread, held in a protected block, performed at once for a tile program, after what its block
has stored there (R266). The thread's own earlier requests there come first (R171); nobody on this device reads what goes to peers, which stands among the
block's stores at once. None when the interval would grow too long (R365). `n` is the issue and the word that it belongs to, and `data` what the signature
takes. -/
def State.putStore (s : State) (e : Env) (n : Nat × Nat) (kind : Nat) (va : DWord) (data : List Byte) (o : StoreOp) : Option State :=
  match e.lane with
  | .tile _ =>
    let t : TRef := ⟨e.blk, e.tid / 32, e.tid % 32⟩
    let s := s.flushKeys e.blk o.keys
    some (if o.keys.any (fun k => decide (memKey 3 0 ≤ k)) then s.perform t { o with peer := some (n, [t]) } else s.perform t o)
  | .thr t =>
    let s := s.settleBytes t o.keys
    if e.prot ≠ 0 then s.holdStore e.blk (heldEntries data.length) n t ⟨kind, data.length, e.tid, va, data, .store ⟨[], [], none⟩⟩ o
    else
      let r := o.parted n t
      let s := match r.2 with
        | some far => s.updBlock t.blk (fun b => { b with out := joinOut n t far b.out })
        | none => s
      some (if r.2.isSome ∧ r.1.keys = [] then s else (s.yieldBytes t r.1.keys).updThread t (fun th => { th with stq := th.stq ++ [r.1] }))

/-- The first n bytes of the registers from D up. -/
def Env.regBytes (e : Env) (d : BitVec 7) (n : Nat) : List Byte :=
  (wordsToBytes ((List.range ((n + 3) / 4)).map (fun i => e.th.rw (d.toNat + i)))).take n

/-! ## Sized loads and stores (R143) -/

/-- A load of n bytes from a RAW page, whose words are `conv` of them. -/
def loadM (op : Op) (f : FmtM) (n : Nat) (conv : List Byte → List Word) (s : State) : Host.Outcome State Fault Refusal :=
  laneStep op (.m f) (fun s e =>
    let va := e.addrM f n
    match s.access e.core e.ctx e.blk ⟨.read, false, fmtRaw, true⟩ n va n with
    | (s, .error x) => (s, .fault x)
    | (s, .ok (keys, _)) =>
      match s.readBytes e va keys with
      | (s, .error x) => (s, .fault x)
      | (s, .ok bs) => (s.owe e true (toW f.wbs f.d (conv bs)), .stay)) s

/-- Bytes as words, the last one zero-extended. -/
def zextWords (bs : List Byte) : List Word :=
  (List.range ((bs.length + 3) / 4)).map (fun i => BitVec.ofNat 32 (leVal ((bs.drop (4 * i)).take 4)))
/-- Bytes as one sign-extended word. -/
def sextWord (bs : List Byte) : List Word := [BitVec.ofInt 32 (sextNat (8 * bs.length) (leVal bs))]

def execLd16 (f : FmtM) (s : State) : Host.Outcome State Fault Refusal := loadM .ld16 f 2 zextWords s
def execLd32 (f : FmtM) (s : State) : Host.Outcome State Fault Refusal := loadM .ld32 f 4 zextWords s
def execLd64 (f : FmtM) (s : State) : Host.Outcome State Fault Refusal := loadM .ld64 f 8 zextWords s
def execLd128 (f : FmtM) (s : State) : Host.Outcome State Fault Refusal := loadM .ld128 f 16 zextWords s
def execLd16S (f : FmtM) (s : State) : Host.Outcome State Fault Refusal := loadM .ld16S f 2 sextWord s
def execLdb (f : FmtM) (s : State) : Host.Outcome State Fault Refusal := loadM .ldb f 1 zextWords s
def execLdbs (f : FmtM) (s : State) : Host.Outcome State Fault Refusal := loadM .ldbs f 1 sextWord s

/-- A store of n bytes of the registers from D up to a RAW page. -/
def storeM (op : Op) (f : FmtM) (n : Nat) (s : State) : Host.Outcome State Fault Refusal :=
  laneStep op (.m f) (fun s e =>
    let va := e.addrM f n
    match s.access e.core e.ctx e.blk ⟨.write, false, fmtRaw, true⟩ n va n with
    | (s, .error x) => (s, .fault x)
    | (s, .ok (keys, _)) =>
      let bs := e.regBytes f.d n
      match s.putStore e (s.issueWord e) 0 va bs ⟨keys, bs, none⟩ with
      | none => (s, .fault (.of 0x19))
      | some s => (s, .stay)) s

def execSt8 (f : FmtM) (s : State) : Host.Outcome State Fault Refusal := storeM .st8 f 1 s
def execSt16 (f : FmtM) (s : State) : Host.Outcome State Fault Refusal := storeM .st16 f 2 s
def execSt32 (f : FmtM) (s : State) : Host.Outcome State Fault Refusal := storeM .st32 f 4 s
def execSt64 (f : FmtM) (s : State) : Host.Outcome State Fault Refusal := storeM .st64 f 8 s
def execSt128 (f : FmtM) (s : State) : Host.Outcome State Fault Refusal := storeM .st128 f 16 s

/-! ## Element loads and stores (R145 to R148) -/

/-- Formats LDE and STE may reach (Table 5-3). -/
def fmtElem (pte : DWord) : Bool :=
  let n := pteFmt pte
  decide (1 ≤ n) && decide (n ≤ 12) && !(isBfp n && pteGeo pte == 3)
/-- Formats LDEXP may reach. -/
def fmtBfp (pte : DWord) : Bool := isBfp (pteFmt pte) && pteGeo pte != 3

/-- Where an element stands: the leaf of the base's page, the first byte to access and how many, and the index in its block. -/
structure ElemAt where
  pte : DWord
  va  : DWord
  n   : Nat
  sub : Nat
  deriving DecidableEq, Repr

/-- The bytes of an element that a load reads, as offset and length from its first byte: the exponent byte of its block and the bytes that hold its
mantissa, the exponent byte alone for LDEXP, or all of a scalar element (R145, R146). -/
def elemSpans (expo : Bool) (x : ElemAt) : List (Nat × Nat) :=
  let b := bfpBits (pteFmt x.pte)
  if !isBfp (pteFmt x.pte) then [(0, x.n)]
  else if expo then [(0, 1)]
  else [(0, 1), (4 + b * x.sub / 8, (b * x.sub + b - 1) / 8 - b * x.sub / 8 + 1)]

/-- The place of element `i` from a base on a page with this leaf (R145). An index past 2^32 - 1 is not wrapped (log entry 15). -/
def elemAt (pte base : DWord) (i : Nat) : ElemAt :=
  let fmt := pteFmt pte
  if isBfp fmt then
    let n := geoElems (pteGeo pte)
    let stride := bfpStride (bfpBits fmt) n
    ⟨pte, base + BitVec.ofNat 64 (i / n * stride), stride, i % n⟩
  else ⟨pte, base + BitVec.ofNat 64 (i * elemSize fmt), elemSize fmt, 0⟩

/-- The alignment a base needs on a page of a format (R145). -/
def baseAlign (fmt : Nat) : Nat := if isBfp fmt then 4 else max 1 (elemSize fmt)

/-- The base's page: translation, then the base's alignment, which its format gives, then permission and format (R139, R145, log entry 15). -/
def State.basePage (s : State) (e : Env) (a : Access) (ok : DWord → Bool) (base : DWord) : State × Except FInfo DWord :=
  if (s.tlbHit e.core e.ctx base).isNone && s.walkBad e.ctx base then (s, .error (.acc 0x10 base a)) else
  match s.translate e.core e.ctx base with
  | (s, none) => (s, .error (.acc 0x07 base a))
  | (s, some (_, pte)) =>
    if fmtElem pte ∧ base.toNat % baseAlign (pteFmt pte) ≠ 0 then (s, .error (.acc 0x06 base a))
    else if !permitted pte a false then (s, .error (.acc 0x08 base a))
    else if !ok pte then (s, .error (.acc 0x09 base a))
    else (s, .ok pte)

/-- Pages that agree with the base's in FMT, GEO and SR (R145). -/
def sameFmt (p q : DWord) : Bool := pteFmt p == pteFmt q && pteGeo p == pteGeo q && pteSr p == pteSr q

/-- Element `i` from a base, checked: where it stands, the keys of the bytes that `spans` names, and the leaves they lie on (R139, R145). -/
def State.element (s : State) (e : Env) (w : Want) (spans : ElemAt → List (Nat × Nat)) (base : DWord) (i : Nat) :
    State × Except FInfo (ElemAt × List Nat × List DWord) :=
  match s.basePage e w.acc w.fmt base with
  | (s, .error x) => (s, .error x)
  | (s, .ok pte) =>
    let at_ := elemAt pte base i
    match s.checkParts e.core e.ctx e.blk { w with fmt := sameFmt pte }
        ((spans at_).flatMap (fun p => frames 2 (at_.va + BitVec.ofNat 64 p.1) p.2)) with
    | (s, .error x) => (s, .error x)
    | (s, .ok (keys, ptes)) => (s, .ok (at_, keys, ptes))

/-- The value of an element in the bytes that `elemSpans` reads for it (R107, R146). -/
def elemNum (x : ElemAt) (bs : List Byte) : NumVal :=
  let fmt := pteFmt x.pte
  if isBfp fmt then bfpValue (bfpBits fmt) (bs.headD 0).toNat (leVal (bs.drop 1) / 2 ^ (bfpBits fmt * x.sub % 8))
  else scalarValue fmt (leVal bs)

/-- An element loaded. -/
def State.loadElem (s : State) (e : Env) (expo : Bool) (base : DWord) (i : Nat) : State × Except FInfo (ElemAt × List Byte) :=
  match s.element e ⟨.read, false, if expo then fmtBfp else fmtElem, true⟩ (elemSpans expo) base i with
  | (s, .error x) => (s, .error x)
  | (s, .ok (at_, keys, _)) =>
    match s.readBytes e at_.va keys with
    | (s, .error x) => (s, .error x)
    | (s, .ok bs) => (s, .ok (at_, bs))

/-- LDE.F32: element e as f32. A NaN element loads as the canonical NaN (R146). -/
def execLdeF32 (f : FmtA) (s : State) : Host.Outcome State Fault Refusal :=
  laneStep .ldeF32 (.a f) (fun s e =>
    match s.loadElem e false (e.pair f.a) (e.b f).toNat with
    | (s, .error x) => (s, .fault x)
    | (s, .ok (x, bs)) => (s.owe e true (toW f.wbs f.d [toF32 .rn (elemNum x bs)]), .stay)) s

/-- LDE.BF16X2: elements e and e + 1 as bf16; e + 1 is not wrapped to 32 bits (log entry 15). -/
def execLdeBf16x2 (f : FmtA) (s : State) : Host.Outcome State Fault Refusal :=
  laneStep .ldeBf16x2 (.a f) (fun s e =>
    match s.loadElem e false (e.pair f.a) (e.b f).toNat with
    | (s, .error x) => (s, .fault x)
    | (s, .ok (x, bs)) =>
      match s.loadElem e false (e.pair f.a) ((e.b f).toNat + 1) with
      | (s, .error x) => (s, .fault x)
      | (s, .ok (y, cs)) =>
        (s.owe e true (toW f.wbs f.d [packHalves (fmtBf16.round .rn (elemNum x bs)) (fmtBf16.round .rn (elemNum y cs))]), .stay)) s

/-- LDEXP: the exponent byte of the element's block. -/
def execLdexp (f : FmtA) (s : State) : Host.Outcome State Fault Refusal :=
  laneStep .ldexp (.a f) (fun s e =>
    match s.loadElem e true (e.pair f.a) (e.b f).toNat with
    | (s, .error x) => (s, .fault x)
    | (s, .ok (_, bs)) => (s.owe e true (toW f.wbs f.d [(bs.headD 0).setWidth 32]), .stay)) s

/-! ### STE -/

/-- One value of an STE issue: whose, its index v, the value and its bits, and where it goes. -/
structure SteVal where
  env  : Env
  v    : Nat
  num  : NumVal
  bits : Word
  dst  : ElemAt
  keys : List Nat
  ptes : List DWord

/-- A half widened to f32: 16 zero bits appended, a NaN canonical (R103). -/
def widenHalf (h : BitVec 16) : Word :=
  let w : Word := h ++ 0#16
  if f32 w = .nan then nanF32 else w

/-- The values a participant supplies: index, value and bits (R147). -/
def steVals (x2 : Bool) (f : FmtA) (e : Env) : List (Nat × NumVal × Word) :=
  let d := e.d f.d
  if x2 then
    [0, 1].map (fun h =>
      let bits := widenHalf (d.extractLsb' (16 * h) 16)
      (2 * e.m + h, f32 bits, bits))
  else [(e.m, f32 d, d)]

/-- The elements of one participant checked, unheld writes left for last (R139). -/
def State.steChecks (s : State) (x2 : Bool) (f : FmtA) (e : Env) : State × Except FInfo (List SteVal) :=
  (steVals x2 f e).zipIdx.foldl (fun (acc : State × Except FInfo (List SteVal)) p =>
    match acc with
    | (s, .error x) => (s, .error x)
    | (s, .ok vs) =>
      match s.element e ⟨.write, false, fmtElem, false⟩ (fun x => [(0, x.n)]) (e.pair f.a) ((e.b f).toNat + p.2) with
      | (s, .error x) => (s, .error x)
      | (s, .ok (at_, keys, ptes)) => (s, .ok (vs ++ [⟨e, p.1.1, p.1.2.1, p.1.2.2, at_, keys, ptes⟩]))) (s, .ok [])

/-- The values on bfp pages that go to one block. -/
def sameBlock (x y : SteVal) : Bool := isBfp (pteFmt x.dst.pte) && isBfp (pteFmt y.dst.pte) && x.keys == y.keys

/-- n bytes from an address lie on one page of the size that the leaf gives (R137). -/
def onePage (pte va : DWord) (n : Nat) : Bool :=
  let size := leafSize (pteKind pte)
  va.toNat / size == (va.toNat + n - 1) / size

/-- The block of a value is written wholly, each element once, on one page (R148). `all` tells that every element of the issue has a place; where
one has none, its block may be the one that still lacks an element (log entry 15). -/
def wholeBlock (all : Bool) (vs : List SteVal) (x : SteVal) : Bool :=
  let g := vs.filter (sameBlock x)
  onePage (x.ptes.headD 0) x.dst.va x.dst.n &&
    (List.range (geoElems (pteGeo x.dst.pte))).all (fun i =>
      let k := (g.filter (fun y => y.dst.sub == i)).length
      k == 1 || (k == 0 && !all))

/-- The fault of a participant among the values of the issue after its own element checks: partial block, then unheld write (R139, R148). -/
def State.steFault (s : State) (whole : Bool) (vs : List SteVal) (m : Nat) : Option FInfo :=
  let mine := vs.filter (fun x => x.env.m == m)
  match mine.find? (fun x => isBfp (pteFmt x.dst.pte)) with
  | some x => if whole then
      (mine.find? (fun x => s.unheld x.env.ctx x.env.blk x.dst.va x.dst.n)).map (fun x => .acc 0x0B x.dst.va .write)
    else some (.acc 0x0A x.dst.va .write)
  | none => (mine.find? (fun x => s.unheld x.env.ctx x.env.blk x.dst.va x.dst.n)).map (fun x => .acc 0x0B x.dst.va .write)

/-- The values of the block in which a value stands, by element. -/
def blockNums (vs : List SteVal) (x : SteVal) : List NumVal :=
  let g := vs.filter (sameBlock x)
  (List.range (geoElems (pteGeo x.dst.pte))).map (fun i => match g.find? (fun y => y.dst.sub == i) with
    | some y => y.num
    | none => .fin false 0 0)

/-- The discarded bits of a value on its own target grid (R110): that of its block on a bfp page, that of its page's format elsewhere; a value copied
bit for bit discards none. -/
def steDiscard (vs : List SteVal) (x : SteVal) : Nat :=
  let fmt := pteFmt x.dst.pte
  if isBfp fmt then (bfpDiscards (bfpBits fmt) (blockNums vs x)).getD x.dst.sub 0 else scalarDiscard fmt x.num

/-- The bytes a value stores: its element on a scalar page; on a bfp page the whole block goes with its element 0 (Table 5-5). A neighbour of R147 has
the discarded bits of its own grid, whatever its page (log entry 15). -/
def steBytes (x2 : Bool) (vs : List SteVal) (x : SteVal) : List Byte :=
  let fmt := pteFmt x.dst.pte
  let sr := pteSr x.dst.pte
  if isBfp fmt then
    if x.dst.sub = 0 then bfpBytes (bfpBits fmt) sr (blockNums vs x) else []
  else if fmt = 1 then leBytes 4 x.bits.toNat
  else
    let ds := (List.range (if x2 then 64 else 32)).map (fun v => match vs.find? (fun y => y.v == v) with
      | some y => steDiscard vs y
      | none => 0)
    leBytes (elemSize fmt) (scalarEncode fmt (if sr then .sr (srAt ds x.v) else .rn) x.num)

/-- What one participant of an STE stores, as one operation: for each of its values the bytes, with the participant's D and first element address for
the signature (R367). -/
def stePut (x2 : Bool) (f : FmtA) (vals : List SteVal) (s : State) (e : Env) : Option State :=
  let mine := vals.filter (fun x => x.env.m == e.m)
  let va := (mine.map (fun x => x.dst.va)).headD 0
  let cells := mine.flatMap (fun x => x.keys.zip (steBytes x2 vals x))
  s.putStore e (s.issueWord e) 1 va (leBytes 4 (e.d f.d).toNat) ⟨cells.map (fun p => p.1), cells.map (fun p => p.2), none⟩

/-- What an STE issue comes to: every participant's fault, or the values to store. -/
structure SteOut where
  s      : State
  faults : List (Nat × FInfo)
  vals   : List SteVal

/-- Participants whose held operations no longer fit the interval (R365). -/
def steFull (x2 : Bool) (f : FmtA) (g : List Env) (o : SteOut) : List (Nat × FInfo) :=
  (g.foldl (fun (acc : State × List (Nat × FInfo)) e => match stePut x2 f o.vals acc.1 e with
    | some s => (s, acc.2)
    | none => (acc.1, acc.2 ++ [(e.m, .of 0x19)])) (o.s, [])).2

/-- All participants checked: each by the checks of its own elements, then for partial blocks and unheld writes (R139, R148). `more` tells that the
issue has a participant that stops at the word before its element is looked at. -/
def State.steAll (s : State) (x2 : Bool) (f : FmtA) (more : Bool) (g : List Env) : SteOut :=
  let o := g.foldl (fun (o : SteOut) e =>
    match o.s.steChecks x2 f e with
    | (s, .error x) => { o with s := s, faults := o.faults ++ [(e.m, x)] }
    | (s, .ok vs) => { o with s := s, vals := o.vals ++ vs }) ⟨s, [], []⟩
  let whole := o.vals.all (fun x => !isBfp (pteFmt x.dst.pte) || wholeBlock (o.faults == [] && !more) o.vals x)
  let fs := o.faults ++ g.filterMap (fun e => if o.faults.any (fun p => p.1 == e.m) then none else
    (o.s.steFault whole o.vals e.m).map (fun x => (e.m, x)))
  { o with faults := if fs = [] ∧ more = false then steFull x2 f g o else fs }

/-- A participant of the issue stops at the word before the instruction is executed: a stop that the other copy of its block has made, or an
uncorrectable error in its registers (R366, R369). -/
def State.stopsEarly (s : State) (iss : Issue) (op : Op) (sh : Shape) : Bool :=
  decide ((s.group op sh).length < (iss.who.parts.filterMap (fun p => s.env? p.2 (hdrSS iss.hdr) iss.pc iss.idx)).length)

/-- The participants of an STE that do not fault when another one does remain at the clause, which issues again with all of them (R148). -/
def steStep (op : Op) (x2 : Bool) (f : FmtA) (s : State) : Host.Outcome State Fault Refusal :=
  match s.issues with
  | [] => .fault .noIssue
  | iss :: _ =>
    let again (e : Env) (th : Thread) : Thread := if e.idx = 1 then { th with cont := 0, line := [] } else { th with cont := e.idx, line := iss.line }
    if s.passWaits iss op (.a f) then .next s
    else
      let more := s.stopsEarly iss op (.a f)
      let o := s.steAll x2 f more (s.group op (.a f))
      laneStep op (.a f) (fun s e =>
        match o.faults.find? (fun p => p.1 == e.m) with
        | some p => (s, .fault p.2)
        | none =>
          if o.faults ≠ [] ∨ more = true then (s.updLane e.lane (again e), .gone)
          else
            match stePut x2 f o.vals s e with
            | none => (s, .fault (.of 0x19))
            | some s => (s, .stay)) o.s

def execSteF32 (f : FmtA) (s : State) : Host.Outcome State Fault Refusal := steStep .steF32 false f s
def execSteBf16x2 (f : FmtA) (s : State) : Host.Outcome State Fault Refusal := steStep .steBf16x2 true f s

/-! ## Scratchpad (R149) -/

/-- A fault of an access with no virtual address. -/
def FInfo.local (cause : Nat) (write : Bool) : FInfo := { FInfo.of cause with wr := write }

/-- An offset of n bytes checked against alignment, then the block's region. -/
def Env.scrFault (e : Env) (off : Word) (n : Nat) (write : Bool) : Option FInfo :=
  if off.toNat % n ≠ 0 then some (.local 0x06 write)
  else if off.toNat < e.scrBase ∨ e.scrBase + e.scrSize < off.toNat + n then some (.local 0x08 write)
  else none

/-- A load of n bytes from the block's region. -/
def ldsM (op : Op) (f : FmtM) (n : Nat) (s : State) : Host.Outcome State Fault Refusal :=
  laneStep op (.m f) (fun s e =>
    let off := e.offM f n
    match e.scrFault off n false with
    | some x => (s, .fault x)
    | none =>
      let keys := (List.range n).map (fun i => scrKey e.core off.toNat + i)
      if s.scrBad keys then (s, .fault (.of 0x10))
      else (s.owe e true (toW f.wbs f.d (zextWords (keys.map s.scr.byte))), .stay)) s

/-- A store of n bytes to the block's region, journalled in a protected block (R360); a tile program writes as an engine does (R366). -/
def stsM (op : Op) (f : FmtM) (n : Nat) (s : State) : Host.Outcome State Fault Refusal :=
  laneStep op (.m f) (fun s e =>
    let off := e.offM f n
    match e.scrFault off n true with
    | some x => (s, .fault x)
    | none =>
      let bs := e.regBytes f.d n
      match e.lane with
      | .tile _ => (s.engScr e.blk e.core off.toNat bs, .stay)
      | .thr _ =>
        match s.scrStore e.blk e.core off.toNat bs with
        | none => (s, .fault (.of 0x19))
        | some s => (s, .stay)) s

def execLds32 (f : FmtM) (s : State) : Host.Outcome State Fault Refusal := ldsM .lds32 f 4 s
def execLds64 (f : FmtM) (s : State) : Host.Outcome State Fault Refusal := ldsM .lds64 f 8 s
def execLds128 (f : FmtM) (s : State) : Host.Outcome State Fault Refusal := ldsM .lds128 f 16 s
def execLds16 (f : FmtM) (s : State) : Host.Outcome State Fault Refusal := ldsM .lds16 f 2 s
def execSts32 (f : FmtM) (s : State) : Host.Outcome State Fault Refusal := stsM .sts32 f 4 s
def execSts64 (f : FmtM) (s : State) : Host.Outcome State Fault Refusal := stsM .sts64 f 8 s
def execSts128 (f : FmtM) (s : State) : Host.Outcome State Fault Refusal := stsM .sts128 f 16 s
def execSts16 (f : FmtM) (s : State) : Host.Outcome State Fault Refusal := stsM .sts16 f 2 s

/-! ## Sharing groups (R151 to R153) -/

/-- The member at a slot of the group with a key of a cluster and a launch. -/
def State.member (s : State) (b : Block) (key : Word) (slot : Nat) : Option Block :=
  (s.blocks.find? (fun p => coreCluster p.2.core == coreCluster b.core && p.2.lid == b.lid && p.2.group == some (key, slot))).map (fun p => p.2)

/-- A cluster offset resolved: the core and offset of the word, or a fault. A twin's group is its primary's (R366). Bits 31 to 22 are looked at
first, and the member before its region is (log entry 16). -/
def State.clusterWord (s : State) (e : Env) (off : Word) (write : Bool) : Except FInfo (Nat × Nat) :=
  if off.toNat % 4 ≠ 0 then .error (.local 0x06 write)
  else if off.extractLsb' 22 10 ≠ 0 then .error (.local 0x08 write)
  else
    match s.block? (s.holder e.blk) with
    | none => .error (.local 0x1C write)
    | some b =>
      match b.group.bind (fun g => s.member b g.1 (off.extractLsb' 18 4).toNat) with
      | none => .error (.local 0x1C write)
      | some k =>
        let o := (off.extractLsb' 0 18).toNat
        if k.scrSize < o + 4 then .error (.local 0x08 write) else .ok (k.core, k.scrBase + o)

def execLdc32 (f : FmtM) (s : State) : Host.Outcome State Fault Refusal :=
  laneStep .ldc32 (.m f) (fun s e =>
    match s.clusterWord e (e.offM f 4) false with
    | .error x => (s, .fault x)
    | .ok (core, o) =>
      if s.scrBad ((List.range 4).map (fun i => scrKey core o + i)) then (s, .fault (.of 0x10))
      else (s.owe e true (toW f.wbs f.d [s.scrWord core o]), .stay)) s

def execStc32 (f : FmtM) (s : State) : Host.Outcome State Fault Refusal :=
  laneStep .stc32 (.m f) (fun s e =>
    match s.clusterWord e (e.offM f 4) true with
    | .error x => (s, .fault x)
    | .ok (core, o) =>
      match s.scrStore e.blk core o (e.regBytes f.d 4) with
      | none => (s, .fault (.of 0x19))
      | some s => (s, .stay)) s

/-- GJOIN, once per issue (R151). -/
def gjoinOnce (f : FmtA) (s : State) (e : Env) : State × List RegVal × Disp :=
  let key := e.a f
  let slot := (e.b f).toNat
  if 15 < slot then (s, [], .fault (.of 0x03))
  else
    match s.block? e.blk with
    | none => (s, [], .stay)
    | some b =>
      if b.group = some (key, slot) then (s, toP f.wbs f.d true, .stay)
      else if b.group.isSome || (s.member b key slot).isSome then (s, toP f.wbs f.d false, .stay)
      else (s.updBlock e.blk (fun b => { b with group := some (key, slot) }), toP f.wbs f.d true, .stay)

def execGjoin (f : FmtA) (s : State) : Host.Outcome State Fault Refusal := onceStep .gjoin (.a f) (gjoinOnce f) s

def execGleave (f : FmtA) (s : State) : Host.Outcome State Fault Refusal :=
  onceStep .gleave (.a f) (fun s e =>
    (s.updBlock e.blk (fun b => { b with group := b.group.filter (fun g => g.1 != e.a f) }), [], .stay)) s

/-! ## The Silo (R154 to R157) -/

/-- The die and the offset of a Silo address (R137). -/
def siloDie (pa : Nat) : Nat := pa / 2 ^ 31 % 4
def siloGroup (pa : Nat) : Nat := pa / 4096 % 64

/-- Nanoseconds since the bank group's last window started (R155). -/
def siloPhase (timer group : Nat) : Nat := (timer % 64000 + 64000 - 1000 * group) % 64000

/-- The status word of Table 5-6. -/
def siloStatus (timer group : Nat) : Word :=
  let p := siloPhase timer group
  let t := if p < 1200 then (1200 - p) / 10 else (64000 - p) / 10
  BitVec.ofNat 32 ((if p < 1200 then 1 else 0) + 2 * t + 2 ^ 14 * group)

/-- The group has a gap of at least `gap` × 10 ns now (R157). -/
def siloGap (timer group gap : Nat) : Bool :=
  let p := siloPhase timer group
  decide (1200 ≤ p) && decide (10 * gap ≤ 64000 - p)

/-- The refresh timer of a die's Silo. -/
def State.siloTimer (s : State) (die : Nat) : Nat := (Tab.get Die.new s.dies die).silo

/-- Any format: only translation and permission are asked. -/
def fmtAny (_ : DWord) : Bool := true

/-- SILOWAIT asks only where the address lies: off the Silo it completes at once (R157). -/
def execSilowait (f : FmtA) (s : State) : Host.Outcome State Fault Refusal :=
  laneStep .silowait (.a f) (fun s e =>
    let gap := (e.b f).toNat
    let va := e.pair f.a
    if 6280 < gap then (s, .fault (.of 0x03))
    else if (s.tlbHit e.core e.ctx va).isNone && s.walkBad e.ctx va then (s, .fault (.acc 0x10 va .read))
    else
      match s.translate e.core e.ctx va with
      | (s, none) => (s, .fault (.acc 0x07 va .read))
      | (s, some (key, pte)) =>
        let pa := key - memKey 1 0
        if pteLoc pte ≠ 1 then (s, .stay)
        else if siloGap (s.siloTimer (siloDie pa)) (siloGroup pa) gap then (s, .stay)
        else (s, .hold (.silowait pa gap))) s

def execSilost (f : FmtA) (s : State) : Host.Outcome State Fault Refusal :=
  laneStep .silost (.a f) (fun s e =>
    match s.access e.core e.ctx e.blk ⟨.read, false, fmtAny, true⟩ 1 (e.pair f.a) 1 with
    | (s, .error x) => (s, .fault x)
    | (s, .ok (keys, ptes)) =>
      let pa := keys.headD 0 - memKey 1 0
      let v := if pteLoc (ptes.headD 0) ≠ 1 then 0 else siloStatus (s.siloTimer (siloDie pa)) (siloGroup pa)
      (s.owe e true (toW f.wbs f.d [v]), .stay)) s

/-! ## Prefetch and the loft (R159, R161) -/

/-- PREF never faults and changes no value (R160, R161); its translation may fill the TLB. -/
def execPref (f : FmtM) (s : State) : Host.Outcome State Fault Refusal :=
  laneStep .pref (.m f) (fun s e => ((s.translate e.core e.ctx (e.addrM f 64)).1, .stay)) s

/-- The poison key of a byte of a block's loft area (log entry 17). -/
def loftKey (blk off : Nat) : Nat := 2 ^ 100 + blk * 2 ^ 32 + off

/-- An offset in the block's loft area checked (R159). -/
def State.loftFault (s : State) (e : Env) (off : Word) (write : Bool) : Option FInfo :=
  if off.toNat % 16 ≠ 0 then some (.local 0x06 write)
  else
    match s.block? e.blk with
    | none => some (.local 0x08 write)
    | some b => if b.loftSize < off.toNat + 16 then some (.local 0x08 write) else none

/-- The keys of 16 bytes of a loft area, for poison. -/
def loftKeys (blk off : Nat) : List Nat := (List.range 16).map (fun i => loftKey blk (off + i))

def execSpill (f : FmtM) (s : State) : Host.Outcome State Fault Refusal :=
  laneStep .spill (.m f) (fun s e =>
    let off := e.offM f 16
    match s.loftFault e off true with
    | some x => (s, .fault x)
    | none =>
      match s.journal e.blk true (wordsOf off.toNat 16) with
      | none => (s, .fault (.of 0x19))
      | some s =>
        let bs := e.regBytes f.d 16
        let s := s.updBlock e.blk (fun b => { b with loft := b.loft.setAll (atKeys off.toNat bs) })
        ({ s with poison := clearPoison 0 ((loftKeys e.blk off.toNat).map (fun k => (k, 0))) s.poison }, .stay)) s

def execFill (f : FmtM) (s : State) : Host.Outcome State Fault Refusal :=
  laneStep .fill (.m f) (fun s e =>
    let off := e.offM f 16
    match s.loftFault e off false with
    | some x => (s, .fault x)
    | none =>
      if s.memBad (loftKeys e.blk off.toNat) then (s, .fault (.of 0x10))
      else
        let bs := match s.block? e.blk with
          | some b => b.loft.bytes off.toNat 16
          | none => []
        (s.owe e true (toW f.wbs f.d (zextWords bs)), .stay)) s

/-! ## Engine timelines and numbers (R193, R194) -/

/-- A timeline of a cluster. -/
def Cluster.tl (c : Cluster) (eng : Nat) : Timeline := (c.tls[eng]?).getD Timeline.new

/-- The next number of a timeline is given out to a block, which remembers where (R194). -/
def State.nextNum (s : State) (c eng blk : Nat) : State × Nat :=
  let n := ((s.cluster c).tl eng).issued + 1
  let s := s.updCluster c (fun k => { k with tls := k.tls.setIfInBounds eng { k.tl eng with issued := n } })
  (s.updBlock blk (fun b => { b with issued := (eng, n, c) :: b.issued }), n)

/-- The cluster in which a block's number was issued (R194, R376); a twin's numbers are its primary's (R366). Where a block has moved and two clusters have
given it one number, the newer issue is meant (log entry 81). -/
def State.numCluster (s : State) (blk eng n : Nat) : Nat :=
  match s.block? (s.holder blk) with
  | none => 0
  | some b =>
    match b.issued.find? (fun p => p.1 == eng && p.2.1 == n) with
    | some p => p.2.2
    | none => coreCluster b.core

/-- A status word with STATE, CAUSE, NI and OVF (Tables 5-11, 10-2, 11-2). -/
def statWord (st : Stat) (ni : Bool) : Word :=
  BitVec.ofNat 32 (st.state + 4 * st.cause + (if ni then 256 else 0) + (if st.ovf then 512 else 0))

/-- The status of a numbered operation: not yet issued, kept, or too old to be kept (R167). -/
def numStatus (tl : Timeline) (keep : Nat) (tab : Tab Stat) (n : Nat) : Word :=
  if n = 0 ∨ tl.issued < n then statWord ⟨0, 0, false⟩ true
  else if n + keep ≤ tl.issued then statWord ⟨2, 0, false⟩ false
  else statWord (Tab.get ⟨0, 0, false⟩ tab n) false

/-- A status set; only the newest `keep` are kept. -/
def keepStat (keep issued : Nat) (tab : Tab Stat) (n : Nat) (st : Stat) : Tab Stat :=
  (Tab.ins tab n st).filter (fun p => decide (issued < p.1 + keep))

/-! ## The copy engine's port (R162, R164, R167) -/

def execEput (f : FmtA) (s : State) : Host.Outcome State Fault Refusal :=
  laneStep .eput (.a f) (fun s e =>
    (s.updLane e.lane (fun th => { th with stage := th.stage.setIfInBounds (f.d.toNat % 4) (e.pair f.a) }), .stay)) s

/-- Fields of the command words (Tables 5-8 to 5-10). -/
def cwAddr (w : DWord) : Nat := (w.extractLsb' 0 52).toNat
def cwKind (w : DWord) : Nat := (w.extractLsb' 56 2).toNat
def cwLen (w : DWord) : Nat := (w.extractLsb' 0 16).toNat
def cwRows (w : DWord) : Nat := (w.extractLsb' 16 16).toNat
def cwSpitch (w : DWord) : Nat := (w.extractLsb' 32 16).toNat
def cwDpitch (w : DWord) : Nat := (w.extractLsb' 48 16).toNat
def cwOp (w : DWord) : Nat := (w.extractLsb' 0 2).toNat
def cwAon (w : DWord) : Bool := w.getLsbD 2
def cwVchk (w : DWord) : Bool := w.getLsbD 3
def cwSync (w : DWord) : Bool := w.getLsbD 4
def cwSyncoff (w : DWord) : Nat := (w.extractLsb' 8 14).toNat * 16

/-- Bytes of a destination row. -/
def cwDstRow (w2 w3 : DWord) : Nat := if cwOp w3 = 1 then 2 * cwLen w2 else cwLen w2

/-- The port checks of R164 on the four staged words: 0x15, then 0x08. -/
def egoFault (e : Env) (w0 w1 w2 w3 : DWord) : Option FInfo :=
  let total := cwRows w2 * cwDstRow w2 w3
  let outside (a n : Nat) : Bool := decide (a < e.scrBase) || decide (e.scrBase + e.scrSize < a + n)
  let reserved (w : DWord) : Bool := w.extractLsb' 52 4 != 0 || w.extractLsb' 58 6 != 0 || cwKind w == 3
  if reserved w0 || reserved w1 || w3.extractLsb' 5 3 != 0 || w3.extractLsb' 22 42 != 0 || decide (2 ≤ cwOp w3) then some (.of 0x15)
  else if cwLen w2 = 0 ∨ cwRows w2 = 0 then some (.of 0x15)
  else if cwOp w3 = 1 ∧ cwKind w0 ≠ 0 then some (.of 0x15)
  else if cwAon w3 ∧ (cwKind w1 ≠ 0 ∨ 65536 < total) then some (.of 0x15)
  else if cwVchk w3 ∧ cwKind w0 ≠ 0 then some (.of 0x15)
  else if cwKind w0 = 1 ∧ outside (cwAddr w0) (16 * cwSpitch w2 * (cwRows w2 - 1) + cwLen w2) then some (.of 0x08)
  else if cwKind w1 = 1 ∧ outside (cwAddr w1) (16 * cwDpitch w2 * (cwRows w2 - 1) + cwDstRow w2 w3) then some (.of 0x08)
  else if cwSync w3 ∧ outside (cwSyncoff w3) 16 then some (.of 0x08)
  else none

/-- Entries of the copy engine's queue (R162). -/
def copyQueueMax : Nat := 8
/-- Copy commands whose state is kept (R167). -/
def copyKeep : Nat := 256

/-- A command is accepted: it is numbered and queued, and the number goes to D, D + 1 (R162). -/
def State.egoAccept (s : State) (e : Env) (t : TRef) (stage : Vector DWord 4) (wr : DWord → List RegVal) : State :=
  let c := coreCluster e.core
  let (s, n) := s.nextNum c 0 t.blk
  let cmd : CopyCmd := ⟨n, e.ctx, e.core, t, stage[0], stage[1], stage[2], stage[3], none⟩
  let s := s.updCluster c (fun k => { k with ceQ := k.ceQ ++ [cmd], ceStat := keepStat copyKeep n k.ceStat n ⟨0, 0, false⟩ })
  s.owe e true (wr (BitVec.ofNat 64 n))

/-- The kinds of engine issue that may wait for queue room. -/
def waitEgo : Nat := 0
def waitFork : Nat := 1
def waitPkq : Nat := 3
def waitPkg : Nat := 4

def waitSpawn : Nat := 6

/-- EGO: the checks are made on the words as they stand, and they stand while the thread is held for room (R162). The engine observes the
thread's earlier operations (Table 6-8). -/
def execEgo (f : FmtA) (s : State) : Host.Outcome State Fault Refusal :=
  laneStep .ego (.a f) (fun s e =>
    let w := e.th.stage
    match egoFault e w[0] w[1] w[2] w[3] with
    | some x => (s, .fault x)
    | none =>
      let t : TRef := ⟨e.blk, e.tid / 32, e.tid % 32⟩
      let s := match e.lane with | .thr t => s.settle t | .tile _ => s
      if (s.cluster (coreCluster e.core)).ceQ.length < copyQueueMax then
        (s.egoAccept e t w (fun n => toW f.wbs f.d (lohi n)), .stay)
      else
        match e.lane with
        | .thr _ => (s, .hold (.engine ⟨waitEgo, 0, 0, [], f.d.toNat, e.slot, f.wbs⟩))
        | .tile _ => (s, .wait)) s

def execEpoll (f : FmtA) (s : State) : Host.Outcome State Fault Refusal :=
  laneStep .epoll (.a f) (longRegs (fun s e =>
    let n := (e.pair f.a).toNat
    let c := s.cluster (s.numCluster e.blk 0 n)
    toW f.wbs f.d [numStatus (c.tl 0) copyKeep c.ceStat n])) s

/-! ## Allocation (R168) -/

/-- The heap slice of a warp: its first address. -/
def heapSlice (b : Block) (wp : Nat) : DWord := b.heap + BitVec.ofNat 64 ((b.idx * 8 + wp) * b.quota)

def execAlloc (f : FmtA) (s : State) : Host.Outcome State Fault Refusal :=
  laneStep .alloc (.a f) (fun s e =>
    match e.lane with
    | .tile _ => (s, .stay)
    | .thr t =>
      match s.block? t.blk with
      | none => (s, .stay)
      | some b =>
        match b.warps[t.wp]? with
        | none => (s, .stay)
        | some w =>
          let z := ((e.a f).toNat + 15) / 16 * 16
          if z = 0 ∨ b.quota < w.heapOff + z then (s.owe e true (toW f.wbs f.d [0, 0]), .stay)
          else
            let s := s.updBlock t.blk (fun b => b.updWarp t.wp (fun w =>
              { w with heapOff := w.heapOff + z, allocs := w.heapOff :: w.allocs }))
            (s.owe e true (toW f.wbs f.d (lohi (heapSlice b t.wp + BitVec.ofNat 64 w.heapOff))), .stay)) s

def execFree (f : FmtA) (s : State) : Host.Outcome State Fault Refusal :=
  laneStep .free (.a f) (fun s e =>
    match e.lane with
    | .tile _ => (s, .stay)
    | .thr t =>
      match s.block? t.blk with
      | none => (s, .stay)
      | some b =>
        let o := (e.pair f.a - heapSlice b t.wp).toNat
        (s.updBlock t.blk (fun b => b.updWarp t.wp (fun w =>
          if w.allocs.contains o then { w with heapOff := o, allocs := w.allocs.filter (fun x => decide (x < o)) } else w)), .stay)) s

end Sys2Proof.Machine
end

