-- ==== Sys2Proof/Machine/Sync.lean ====
section
/-!
DEFINITION. Sync objects, atomics and bins in memory, barriers, sync words, engine timelines and phases (R170 to R199).
-/

namespace Sys2Proof.Machine

/-! ## Sync objects (R172 to R180) -/

/-- SYNC pages only. -/
def fmtSync (pte : DWord) : Bool := pteFmt pte == 14

/-- A sync object's key from its address (R173). -/
def State.syncObj (s : State) (e : Env) (va : DWord) : State × Except FInfo Nat :=
  match s.access e.core e.ctx e.blk ⟨.read, true, fmtSync, false⟩ 16 va 16 with
  | (s, .error x) => (s, .error x)
  | (s, .ok (keys, _)) => if s.memBad keys then (s, .error (.acc 0x10 va .read)) else (s, .ok (keys.headD 0))

def State.setSync (s : State) (obj : Nat) (h w : List (Nat × Bool)) : State := { s with syncs := Tab.put ([], []) s.syncs obj (h, w) }

/-- The object's bits in memory (Table 6-2). -/
def State.objBits (s : State) (obj : Nat) : BitVec 128 := BitVec.ofNat 128 (leVal (s.mem.bytes obj 16))
def State.setObjBits (s : State) (obj : Nat) (v : BitVec 128) : State := s.memWrite (atKeys obj (leBytes 16 v.toNat))

/-- SHR and XH follow the holders. -/
def State.writeHolders (s : State) (obj : Nat) : State :=
  let h := (s.sync obj).1
  let shr := (h.filter (fun p => !p.2)).length
  let xh := h.any (fun p => p.2)
  let v := s.objBits obj
  s.setObjBits obj ((v.extractLsb' 17 111 ++ (if xh then 1 else 0 : BitVec 1) ++ BitVec.ofNat 16 shr : BitVec 128))

/-- May a waiter be granted, by the holders there are? (R175) -/
def grantable (h : List (Nat × Bool)) (excl : Bool) : Bool :=
  if excl then h.isEmpty else !h.any (fun p => p.2) && decide (h.length < 65535)

/-- Waiters granted in order of arrival, as long as the first can be. -/
def grantAll : List (Nat × Bool) → List (Nat × Bool) → List (Nat × Bool) × List (Nat × Bool)
  | h, [] => (h, [])
  | h, w :: ws => if grantable h w.2 then grantAll (h ++ [w]) ws else (h, w :: ws)

/-- The owner grants what can be granted and the object shows it. A request for shared use of a block that now holds the object exclusively is granted with
that: nothing changes (R175). -/
def State.grant (s : State) (obj : Nat) : State :=
  let r := grantAll (s.sync obj).1 (s.sync obj).2
  (s.setSync obj r.1 (r.2.filter (fun w => w.2 || !r.1.contains (w.1, true)))).writeHolders obj

/-- The block holds the object in some mode. -/
def State.holdsAny (s : State) (blk obj : Nat) : Bool := (s.sync obj).1.any (fun p => p.1 == s.holder blk)

/-- The participants of an instruction have their earlier memory operations performed at device scope: what a release and a phase arrival keep
(Tables 6-8 to 6-10). -/
def State.settleAll (s : State) (op : Op) (f : FmtA) : State := (s.group op (.a f)).foldl State.settleLane s

/-- A release takes effect (R177): an exclusive one advances GEN and clears XH in one step. -/
def State.releaseObj (s : State) (blk obj : Nat) : State :=
  let b := s.holder blk
  let r := s.sync obj
  let s :=
    if r.1.contains (b, true) then
      let v := s.objBits obj
      s.setObjBits obj ((v.extractLsb' 64 64 ++ (v.extractLsb' 32 32 + 1) ++ v.extractLsb' 0 32 : BitVec 128))
    else s
  (s.setSync obj (r.1.filter (fun p => p.1 != b)) r.2).grant obj

/-- A waiting request is withdrawn (R180). -/
def State.withdraw (s : State) (blk : Nat) : State :=
  s.syncs.foldl (fun (s : State) p =>
    let r := s.sync p.1
    if r.2.any (fun w => w.1 == blk) then (s.setSync p.1 r.1 (r.2.filter (fun w => w.1 != blk))).grant p.1 else s) s

/-- Every object a block holds is released (R180). -/
def State.releaseAll (s : State) (blk : Nat) : State :=
  s.syncs.foldl (fun (s : State) p => if (s.sync p.1).1.any (fun h => h.1 == blk) then s.releaseObj blk p.1 else s) s

/-- An acquire, once per issue: granted at once, or the participants are held (R175). -/
def acquireOnce (excl : Bool) (f : FmtA) (s : State) (e : Env) : State × List RegVal × Disp :=
  match s.syncObj e (e.pair f.a) with
  | (s, .error x) => (s, [], .fault x)
  | (s, .ok obj) =>
    let b := s.holder e.blk
    let r := s.sync obj
    if r.1.contains (b, true) || (!excl && r.1.contains (b, false)) then (s, [], .stay)
    else if excl && r.1.contains (b, false) then (s, [], .fault (.of 0x03))
    else if r.2.isEmpty && grantable r.1 excl then ((s.setSync obj (r.1 ++ [(b, excl)]) []).writeHolders obj, [], .stay)
    else
      let w := if r.2.contains (b, excl) then r.2 else r.2 ++ [(b, excl)]
      (s.setSync obj r.1 w, [], .hold (.acq obj excl))

def execAcqX (f : FmtA) (s : State) : Host.Outcome State Fault Refusal := onceStep .acqX (.a f) (acquireOnce true f) s
def execAcqS (f : FmtA) (s : State) : Host.Outcome State Fault Refusal := onceStep .acqS (.a f) (acquireOnce false f) s

/-- ACQTRY.X takes the object when it has no holder and no waiter (R176). -/
def execAcqtryX (f : FmtA) (s : State) : Host.Outcome State Fault Refusal :=
  onceStep .acqtryX (.a f) (fun s e =>
    match s.syncObj e (e.pair f.a) with
    | (s, .error x) => (s, [], .fault x)
    | (s, .ok obj) =>
      let b := s.holder e.blk
      let r := s.sync obj
      if r.1.contains (b, true) then (s, toP f.wbs f.d true, .stay)
      else if r.1.isEmpty && r.2.isEmpty then
        ((s.setSync obj [(b, true)] []).writeHolders obj, toP f.wbs f.d true, .stay)
      else (s, toP f.wbs f.d false, .stay)) s

/-- REL: the participants' earlier operations are performed first (Table 6-9), and before an exclusive release the whole block's writes (R177); a
protected block holds the release until its commit. -/
def execRel (f : FmtA) (s : State) : Host.Outcome State Fault Refusal :=
  onceStep .rel (.a f) (fun s e =>
    match (s.settleAll .rel f).syncObj e (e.pair f.a) with
    | (s, .error x) => (s, [], .fault x)
    | (s, .ok obj) =>
      if !s.holdsAny e.blk obj then (s, [], .fault (.of 0x03))
      else if e.prot ≠ 0 then
        match s.holdOp e.blk 1 ⟨5, 0, e.tid, e.pair f.a, [], .rel obj⟩ with
        | none => (s, [], .fault (.of 0x19))
        | some s => (s, [], .stay)
      else
        let s := if s.holdsX e.blk obj then s.settleBlock e.blk else s
        (s.releaseObj e.blk obj, [], .stay)) s

/-- The region operand of BIND: base and length in bytes (R174). -/
def bindRegion (e : Env) (b : BitVec 8) : DWord × Nat := (e.pair b, (e.reg (b.toNat + 2)).toNat)

/-- A region touches a SYNC page of a context. -/
def touchesSync (m : Memory) (root : Nat) (base : DWord) (len : Nat) : Bool :=
  (frames (len / 65536 + 2) base len).any (fun p => match walk m root p.1 with
    | some e => fmtSync e.pte
    | none => false)

def execBind (f : FmtA) (s : State) : Host.Outcome State Fault Refusal :=
  onceStep .bind (.a f) (fun s e =>
    let (base, len) := bindRegion e f.b
    match Tab.find s.ctxs e.ctx with
    | none => (s, [], .stay)
    | some c =>
      if base.toNat % 128 ≠ 0 ∨ len = 0 ∨ len % 128 ≠ 0 ∨ 2 ^ 26 ≤ len ∨ touchesSync s.mem c.root base len = true then (s, [], .fault (.of 0x03))
      else
        match s.syncObj e (e.pair f.a) with
        | (s, .error x) => (s, [], .fault x)
        | (s, .ok obj) =>
          let v := s.objBits obj
          if v.getLsbD 17 || c.bound.any (fun r => overlaps r.2.1 r.2.2 base.toNat len) || decide (4096 ≤ c.bound.length) then
            (s, toP f.wbs f.d false, .stay)
          else
            let s := s.updCtx e.ctx (fun c => { c with bound := c.bound ++ [(obj, base.toNat, len)] })
            let v : BitVec 128 := BitVec.ofNat 19 (len / 128) ++ base.extractLsb' 7 45 ++ v.extractLsb' 18 46 ++ 1#1 ++ v.extractLsb' 0 17
            (s.setObjBits obj v, toP f.wbs f.d true, .stay)) s

/-- The participants' earlier memory operations are performed at device scope, those that a protected block holds too: what an operation that is
performed at once in the interval keeps (Tables 6-8 to 6-10, R199, R360, log entry 58). -/
def State.settleHeld (s : State) (op : Op) (f : FmtA) : State :=
  (s.group op (.a f)).foldl (fun s e => match e.lane with | .thr t => if e.prot = 0 then s else s.threadFirst t | .tile _ => s) (s.settleAll op f)

/-- UNBIND: the participants' earlier operations are performed first (Table 6-9); the object stays held (R178). -/
def execUnbind (f : FmtA) (s : State) : Host.Outcome State Fault Refusal :=
  onceStep .unbind (.a f) (fun s e =>
    match (s.settleHeld .unbind f).syncObj e (e.pair f.a) with
    | (s, .error x) => (s, [], .fault x)
    | (s, .ok obj) =>
      if !s.holdsX e.blk obj then (s, [], .fault (.of 0x03))
      else
        let s := s.updCtx e.ctx (fun c => { c with bound := c.bound.filter (fun r => r.1 != obj) })
        let v := s.objBits obj
        let v : BitVec 128 := 0#64 ++ v.extractLsb' 18 46 ++ 0#1 ++ v.extractLsb' 0 17
        (s.setObjBits obj v, [], .stay)) s

/-! ## FENCE (R181) -/

/-- A thread's earlier memory operations are performed at a scope: its stores are visible in the block at warp and block scope, and performed beyond
it at a wider one. Held operations of a protected block are not waited for (R199). -/
def State.fenced (s : State) (t : TRef) (scope : Nat) : Bool :=
  (scope == 0 || (match s.thread? t with | some th => th.stq.isEmpty | none => true)) &&
  (decide (scope ≤ 2) || !(s.outOf t.blk).any (fun p => p.2.by p.1 t)) &&
  !s.clusters.any (fun p => p.2.atomQ.any (fun r => r.of t)) &&
  (scope != 6 || !s.clusters.any (fun p => p.2.m1Due.any (fun d => d.1.contains t)))

def execFence (f : FmtA) (s : State) : Host.Outcome State Fault Refusal :=
  laneStep .fence (.a f) (fun s e =>
    let scope := (e.a f).toNat
    if 6 < scope then (s, .fault (.of 0x03))
    else
      match e.lane with
      | .tile _ => (s, .stay)
      | .thr t => if s.fenced t scope then (s, .stay) else (s, .hold (.fence scope))) s

/-! ## Atomics and memory bins (R182 to R187) -/

/-- Operand words of a form from D up. -/
def Env.dWords (e : Env) (d : BitVec 7) (n : Nat) : List Word := (List.range n).map (fun i => e.th.rw (d.toNat + i))

/-- A participant joins the merged request of its issue at an address, or starts it (R184); requests of this issue carry tags above `t0`. -/
def mergeReq (t0 : Nat) (r : AtomReq) (p : ReqPart) : List AtomReq → List AtomReq
  | [] => [{ r with parts := [p] }]
  | q :: qs =>
    if q.key = r.key ∧ q.kind = r.kind ∧ q.parts.all (fun x => decide (t0 < x.tag)) = true then { q with parts := q.parts ++ [p] } :: qs
    else q :: mergeReq t0 r p qs

/-- The same among held operations: a later participant's operation is performed with the first one's (R199). -/
def mergeHeld (t0 : Nat) (r : AtomReq) (p : ReqPart) : List HeldOp → Option (List HeldOp)
  | [] => none
  | h :: hs =>
    match h.act with
    | .req q =>
      if q.key = r.key ∧ q.kind = r.kind ∧ q.parts.all (fun x => decide (t0 < x.tag)) = true then
        some ({ h with act := .req { q with parts := q.parts ++ [p] } } :: hs)
      else (mergeHeld t0 r p hs).map (fun hs => h :: hs)
    | _ => (mergeHeld t0 r p hs).map (fun hs => h :: hs)

/-- A request that writes nothing back is held by a protected block (Table 16-7). -/
def State.holdReq (s : State) (e : Env) (t : TRef) (t0 kind : Nat) (va : DWord) (n : Nat) (r : AtomReq) (opnd : List Word) : Option State :=
  let data := wordsToBytes opnd
  let p : ReqPart := ⟨t, s.tags + 1, opnd, va, 0⟩
  let s := { s with tags := s.tags + 1 }
  match s.block? t.blk with
  | none => none
  | some b =>
    if journalMax < b.jcount + n then none
    else
      match mergeHeld t0 r p b.held with
      | some hs =>
        s.holdOp t.blk n ⟨kind, data.length, e.tid, va, data, .store ⟨[], [], none⟩⟩ |>.map (fun s =>
          s.updBlock t.blk (fun b => { b with held := hs ++ b.held.drop hs.length }))
      | none => s.holdOp t.blk n ⟨kind, data.length, e.tid, va, data, .req { r with parts := [p] }⟩

/-- What an atomic form is: its request, its access, how many operand words it takes, its held class, and the registers it is owed. -/
structure ReqForm where
  kind : ReqKind
  want : Want
  n    : Nat
  held : Option Nat
  wr   : List RegVal

/-- One participant's request goes to the owner of its address (R182), or is held. The thread's own earlier stores there come first (R171). -/
def requestAct (f : FmtM) (q : ReqForm) (t0 : Nat) : Act := fun s e =>
  match e.lane with
  | .tile _ => (s, .stay)
  | .thr t =>
    let size := q.kind.size
    let va := e.addrM f size
    match s.access e.core e.ctx e.blk q.want size va size with
    | (s, .error x) => (s, .fault x)
    | (s, .ok (keys, ptes)) =>
      if s.memBad keys then (s, .fault (.acc 0x10 va q.want.acc))
      else
        let key := keys.headD 0
        let s := match s.thread? t with
          | some th => if th.stq.any (fun o => o.keys.any (fun k => keys.contains k)) then s.flushBlk t else s
          | none => s
        let s := s.flushKeys t.blk keys
        let opnd := e.dWords f.d q.n
        let req : AtomReq := ⟨q.kind, key, pteWin (ptes.headD 0), !q.wr.isEmpty, []⟩
        match q.held with
        | some kind =>
          if e.prot ≠ 0 then
            match (s.settleBytes t keys).holdReq e t t0 kind va (max 1 (heldEntries (4 * q.n))) req opnd with
            | none => (s, .fault (.of 0x19))
            | some s => (s, .stay)
          else
            let s := { s with tags := s.tags + 1 }
            (s.updCluster (ownerOf key) (fun c => { c with atomQ := mergeReq t0 req ⟨t, s.tags, opnd, va, 0⟩ c.atomQ }), .stay)
        | none =>
          let tag := s.tags + 1
          let nth := if q.kind.isAtom then e.th.atoms + 1 else 0
          let s := (s.owe e false q.wr).updLane e.lane (fun th => { th with atoms := max th.atoms nth })
          let s := { s with tags := max s.tags tag }
          (s.updCluster (ownerOf key) (fun c => { c with atomQ := mergeReq t0 req ⟨t, tag, opnd, va, nth⟩ c.atomQ }), .stay)

/-- A request instruction. -/
def requestM (op : Op) (f : FmtM) (q : ReqForm) (s : State) : Host.Outcome State Fault Refusal :=
  laneStep op (.m f) (requestAct f q s.tags) s

/-- An ATOM form: `n` operand words, `r` returned ones (Table 6-3). -/
def atomM (op : Op) (a : AtomOp) (n r : Nat) (f : FmtM) (s : State) : Host.Outcome State Fault Refusal :=
  requestM op f ⟨.atom a, ⟨.write, true, fmtRaw, true⟩, n, if f.wbs then some 2 else none, toW f.wbs f.d (List.replicate r 0)⟩ s

def execAtomAdd (f : FmtM) (s : State) : Host.Outcome State Fault Refusal := atomM .atomAdd .add 1 1 f s
def execAtomMaxI (f : FmtM) (s : State) : Host.Outcome State Fault Refusal := atomM .atomMaxI .maxI 1 1 f s
def execAtomMinI (f : FmtM) (s : State) : Host.Outcome State Fault Refusal := atomM .atomMinI .minI 1 1 f s
def execAtomExch (f : FmtM) (s : State) : Host.Outcome State Fault Refusal := atomM .atomExch .exch 1 1 f s
def execAtomCas (f : FmtM) (s : State) : Host.Outcome State Fault Refusal := atomM .atomCas .cas 2 1 f s
def execAtomOr (f : FmtM) (s : State) : Host.Outcome State Fault Refusal := atomM .atomOr .or 1 1 f s
def execAtomAnd (f : FmtM) (s : State) : Host.Outcome State Fault Refusal := atomM .atomAnd .and 1 1 f s
def execAtomFadd2 (f : FmtM) (s : State) : Host.Outcome State Fault Refusal := atomM .atomFadd2 .fadd2 1 1 f s
def execAtomAdd64 (f : FmtM) (s : State) : Host.Outcome State Fault Refusal := atomM .atomAdd64 .add64 2 2 f s
def execAtomCas64 (f : FmtM) (s : State) : Host.Outcome State Fault Refusal := atomM .atomCas64 .cas64 4 2 f s
def execAtomExch64 (f : FmtM) (s : State) : Host.Outcome State Fault Refusal := atomM .atomExch64 .exch64 2 2 f s

/-- BIN pages; with `win`, pages whose window is in range (R138). -/
def fmtBin (win : Bool) (pte : DWord) : Bool := pteFmt pte == 13 && (!win || winOk (pteWin pte))

def execRedxF (f : FmtM) (s : State) : Host.Outcome State Fault Refusal :=
  requestM .redxF f ⟨.redxF, ⟨.write, true, fmtBin true, true⟩, 1, some 3, []⟩ s
def execRedxI (f : FmtM) (s : State) : Host.Outcome State Fault Refusal :=
  requestM .redxI f ⟨.redxI, ⟨.write, true, fmtBin false, true⟩, 1, some 3, []⟩ s
def execBinclr (f : FmtM) (s : State) : Host.Outcome State Fault Refusal :=
  requestM .binclr f ⟨.binclr, ⟨.write, true, fmtBin false, true⟩, 0, some 4, []⟩ s
def execBinrd (f : FmtM) (s : State) : Host.Outcome State Fault Refusal :=
  requestM .binrd f ⟨.binrd, ⟨.read, true, fmtBin true, true⟩, 0, none, toW f.wbs f.d [0, 0]⟩ s

/-! ## Barriers (R188 to R191) -/

/-- A barrier object (Table 6-4). -/
structure BarObj where
  exp  : Nat
  arr  : Nat
  ph   : Bool
  pend : Int
  top  : Nat
  deriving DecidableEq, Repr

/-- The object in two words of scratchpad. -/
def barOf (lo hi : Word) : BarObj :=
  ⟨(lo.extractLsb' 0 16).toNat, (lo.extractLsb' 16 16).toNat, hi.getLsbD 0, (hi.extractLsb' 1 15).toInt, (hi.extractLsb' 16 16).toNat⟩
def BarObj.lo (o : BarObj) : Word := BitVec.ofNat 16 o.arr ++ BitVec.ofNat 16 o.exp
def BarObj.hi (o : BarObj) : Word := BitVec.ofNat 16 o.top ++ BitVec.ofInt 15 o.pend ++ BitVec.ofBool o.ph

/-- How a participant arrives. -/
inductive ArrMode where
  | arrive | drop | join
  deriving DecidableEq, Repr

/-- One arrival (R189); none is an operand fault. -/
def BarObj.arrive (o : BarObj) (mode : ArrMode) : Option BarObj :=
  let inI15 (v : Int) : Bool := decide (-16384 ≤ v) && decide (v ≤ 16383)
  match mode with
  | .join => if inI15 (o.pend + 1) then some { o with pend := o.pend + 1 } else none
  | _ =>
    let pend := if mode = .drop then o.pend - 1 else o.pend
    if o.exp = 0 ∨ o.exp ≤ o.arr then none
    else if !inI15 pend then none
    else if o.arr + 1 = o.exp then
      let e : Int := o.exp + pend
      if e < 1 ∨ 65535 < e then none else some { o with arr := 0, ph := !o.ph, exp := e.toNat, pend := 0 }
    else some { o with arr := o.arr + 1, pend := pend }

/-- The barrier object at an offset of a core. -/
def State.barAt (s : State) (core off : Nat) : BarObj := barOf (s.scrWord core off) (s.scrWord core (off + 4))

/-- A word of scratchpad written when it changes, journalled in a protected block (Table 16-7). -/
def State.scrWord! (s : State) (blk core off : Nat) (v : Word) : Option State :=
  if s.scrWord core off = v then some s else s.scrStore blk core off (leBytes 4 v.toNat)

/-- An arrival at an object: the phase it arrived in, or the cause that stops it. -/
def State.arriveAt (s : State) (blk core off : Nat) (mode : ArrMode) : Except Nat (State × Bool) :=
  let o := s.barAt core off
  match o.arrive mode with
  | none => .error 0x03
  | some o' =>
    match (s.scrWord! blk core off o'.lo).bind (fun s => s.scrWord! blk core (off + 4) o'.hi) with
    | none => .error 0x19
    | some s => .ok (s, o.ph)

/-- What an arrival releases at block scope (Table 6-8). -/
def State.settleAt (s : State) (e : Env) : State :=
  match e.lane with
  | .thr t => s.settleBlk t
  | .tile _ => s

/-- An arrival instruction's check of its object: an uncorrectable error in it is consumed. -/
def State.barFault (s : State) (e : Env) (off : Word) (write : Bool) : Option FInfo :=
  match e.scrFault off 8 write with
  | some x => some x
  | none => if s.scrBad ((List.range 8).map (fun i => scrKey e.core off.toNat + i)) then some (.of 0x10) else none

/-- ARRIVE, ARRIVE.DROP and ARRIVE.JOIN write the phase bit arrived in (R190). -/
def arriveM (op : Op) (mode : ArrMode) (f : FmtA) (s : State) : Host.Outcome State Fault Refusal :=
  laneStep op (.a f) (fun s e =>
    let off := e.a f
    match s.barFault e off true with
    | some x => (s, .fault x)
    | none =>
      let s := if mode = .join then s else s.settleAt e
      match s.arriveAt e.blk e.core off.toNat mode with
      | .error c => (s, .fault (.of c))
      | .ok (s, ret) => (s.owe e true (toW f.wbs f.d [boolWord ret]), .stay)) s

def execArrive (f : FmtA) (s : State) : Host.Outcome State Fault Refusal := arriveM .arrive .arrive f s
def execArriveDrop (f : FmtA) (s : State) : Host.Outcome State Fault Refusal := arriveM .arriveDrop .drop f s
def execArriveJoin (f : FmtA) (s : State) : Host.Outcome State Fault Refusal := arriveM .arriveJoin .join f s

/-- BAR: an arrival, then the wait on the phase arrived in. The participant that flips the phase counts as held at the wait too (R358, log
entry 18). -/
def execBar (f : FmtA) (s : State) : Host.Outcome State Fault Refusal :=
  laneStep .bar (.a f) (fun s e =>
    let off := e.a f
    match s.barFault e off true with
    | some x => (s, .fault x)
    | none =>
      match (s.settleAt e).arriveAt e.blk e.core off.toNat .arrive with
      | .error c => (s, .fault (.of c))
      | .ok (s, ret) => (s, .hold (.bar off.toNat ret true))) s

def execBarwait (f : FmtA) (s : State) : Host.Outcome State Fault Refusal :=
  laneStep .barwait (.a f) (fun s e =>
    let off := e.a f
    let ph := (e.b f).getLsbD 0
    match s.barFault e off false with
    | some x => (s, .fault x)
    | none => if (s.barAt e.core off.toNat).ph != ph then (s, .stay) else (s, .hold (.bar off.toNat ph false))) s

def execBartest (f : FmtA) (s : State) : Host.Outcome State Fault Refusal :=
  laneStep .bartest (.a f) (fun s e =>
    let off := e.a f
    match s.barFault e off false with
    | some x => (s, .fault x)
    | none => (s.owe e true (toP f.wbs f.d ((s.barAt e.core off.toNat).ph != (e.b f).getLsbD 0)), .stay)) s

/-- GBAR: the thread's next grid barrier, in a launch that carries the flag (R191). -/
def execGbar (f : FmtA) (s : State) : Host.Outcome State Fault Refusal :=
  laneStep .gbar (.a f) (fun s e =>
    match s.block? e.blk with
    | none => (s, .stay)
    | some b =>
      if !b.grid then (s, .fault (.of 0x03))
      else
        let k := e.th.gbars + 1
        ((s.settleLane e).updLane e.lane (fun th => { th with gbars := k }), .hold (.gbar k))) s

/-! ## Sync words (R166, R192) -/

/-- SWARM: target B and count 0; the generation goes to D. -/
def execSwarm (f : FmtA) (s : State) : Host.Outcome State Fault Refusal :=
  laneStep .swarm (.a f) (fun s e =>
    let off := e.a f
    match e.scrFault off 16 true with
    | some x => (s, .fault x)
    | none =>
      let o := off.toNat
      if s.scrBad ((List.range 16).map (fun i => scrKey e.core o + i)) then (s, .fault (.of 0x10))
      else
        let gen := s.scrWord e.core (o + 8)
        match s.scrStore e.blk e.core o (leBytes 4 (e.b f).toNat ++ leBytes 4 0) with
        | none => (s, .fault (.of 0x19))
        | some s => (s.owe e true (toW f.wbs f.d [gen]), .stay)) s

/-- The generation of a sync word, checked. -/
def State.syncGen (s : State) (e : Env) (off : Word) : Except FInfo Word :=
  match e.scrFault off 16 false with
  | some x => .error x
  | none =>
    if s.scrBad ((List.range 16).map (fun i => scrKey e.core off.toNat + i)) then .error (.of 0x10)
    else .ok (s.scrWord e.core (off.toNat + 8))

def execSwwait (f : FmtA) (s : State) : Host.Outcome State Fault Refusal :=
  laneStep .swwait (.a f) (fun s e =>
    match s.syncGen e (e.a f) with
    | .error x => (s, .fault x)
    | .ok gen => if gen ≠ e.b f then (s, .stay) else (s, .hold (.swwait (e.a f).toNat (e.b f)))) s

def execSwtest (f : FmtA) (s : State) : Host.Outcome State Fault Refusal :=
  laneStep .swtest (.a f) (fun s e =>
    match s.syncGen e (e.a f) with
    | .error x => (s, .fault x)
    | .ok gen => (s.owe e true (toP f.wbs f.d (gen != e.b f)), .stay)) s

/-! ## Engine timelines (R194) -/

/-- The cluster whose timeline TLREAD reads: that of the newest operation that the block has issued on the engine, reached through the forwarding entry
after a move (R194, log entry 81); its own when it has issued none. -/
def State.tlCluster (s : State) (blk eng : Nat) : Nat :=
  match s.block? (s.holder blk) with
  | none => 0
  | some b =>
    match b.issued.find? (fun p => p.1 == eng) with
    | some p => p.2.2
    | none => coreCluster b.core

/-- A timeline's completed value has reached a number. -/
def State.tlReached (s : State) (c eng n : Nat) : Bool := decide (n ≤ ((s.cluster c).tl eng).done)

def execTlwait (f : FmtA) (s : State) : Host.Outcome State Fault Refusal :=
  laneStep .tlwait (.a f) (fun s e =>
    let eng := (e.b f).toNat
    let n := (e.pair f.a).toNat
    if 4 < eng then (s, .fault (.of 0x03))
    else
      let c := s.numCluster e.blk eng n
      if s.tlReached c eng n then (s, .stay) else (s, .hold (.tlwait c eng n))) s

def execTlread (f : FmtA) (s : State) : Host.Outcome State Fault Refusal :=
  laneStep .tlread (.a f) (fun s e =>
    let eng := (e.b f).toNat
    if 4 < eng then (s, .fault (.of 0x03))
    else (s.owe e true (toW f.wbs f.d (lohi (BitVec.ofNat 64 ((s.cluster (s.tlCluster e.blk eng)).tl eng).done))), .stay)) s

def execTltest (f : FmtA) (s : State) : Host.Outcome State Fault Refusal :=
  laneStep .tltest (.a f) (fun s e =>
    let eng := (e.b f).toNat
    let n := (e.pair f.a).toNat
    if 4 < eng then (s, .fault (.of 0x03))
    else (s.owe e true (toP f.wbs f.d (s.tlReached (s.numCluster e.blk eng n) eng n)), .stay)) s

/-! ## Process-group tables (R330) -/

/-- How a unit reads bytes of RAW pages: alignment, address and length. -/
abbrev Reader := State → Nat → DWord → Nat → State × Except FInfo (List Byte)

/-- A thread's reads. -/
def rawReader (e : Env) : Reader := fun s align va n =>
  match s.access e.core e.ctx e.blk ⟨.read, false, fmtRaw, true⟩ align va n with
  | (s, .error x) => (s, .error x)
  | (s, .ok (keys, _)) => s.readBytes e va keys

/-- A process-group table (Table 15-7): its id, its ranks as fabric id and function, and this device's rank. -/
structure Group where
  gid   : Nat
  ranks : List (Nat × Nat)
  me    : Nat

/-- Little-endian field of bytes. -/
def hdrNat (h : List Byte) (off n : Nat) : Nat := leVal ((h.drop off).take n)

/-- The group in the header and the entries; none when they are malformed. -/
def Group.of (fid fn : Nat) (h es : List Byte) : Option Group :=
  let n := hdrNat h 4 4
  let rs := (List.range n).map (fun r => (hdrNat es (8 * r) 3, hdrNat es (8 * r + 3) 1 % 16))
  let clean := (List.range n).all (fun r => hdrNat es (8 * r + 3) 5 / 16 == 0)
  let own := (List.range n).filter (fun r => rs.getD r (0, 0) == (fid, fn))
  if hdrNat h 0 4 = 0 ∨ hdrNat h 0x0E 50 ≠ 0 ∨ hdrNat h 8 2 * hdrNat h 0xA 2 * hdrNat h 0xC 2 ≠ n then none
  else if clean = false ∨ own.length ≠ 1 then none
  else some ⟨hdrNat h 0 4, rs, own.headD 0⟩

/-- A group table read and checked: switch table malformed where it breaks R330. -/
def State.readGroup (s : State) (ctx : Nat) (rd : Reader) (base : DWord) : State × Except FInfo Group :=
  match rd s 64 base 64 with
  | (s, .error x) => (s, .error x)
  | (s, .ok h) =>
    let n := hdrNat h 4 4
    if n = 0 ∨ 16384 < n then (s, .error (.of 0x1B))
    else
      match rd s 8 (base + 64) (8 * n) with
      | (s, .error x) => (s, .error x)
      | (s, .ok es) =>
        let fn := match Tab.find s.ctxs ctx with | some c => c.fn | none => 0
        match Group.of s.dev.fid fn h es with
        | none => (s, .error (.of 0x1B))
        | some g => (s, .ok g)

/-! ## Phases (R195 to R198) -/

/-- The header's checks (R195, R196). -/
def phHdrOk (h : List Byte) : Bool :=
  let scope := hdrNat h 6 1
  let cores := hdrNat h 0x10 4
  decide (scope ≤ 2) && hdrNat h 7 1 == 0 && hdrNat h 8 8 % 16 == 0 && decide (1 ≤ cores) &&
    decide (cores ≤ (if scope = 0 then 256 else 1024)) && hdrNat h 0x14 4 == 0 && hdrNat h 0x26 26 == 0

/-- The counts of one table entry. -/
def phEntry (tab : List Byte) (k : Nat) : PhCount :=
  let b := tab.drop (16 * k)
  ⟨wrap32 (hdrNat b 0 4), hdrNat b 4 2, hdrNat b 6 2, wrap32 (hdrNat b 8 4), wrap32 (hdrNat b 0xC 4)⟩

/-- A context's phase level, created by PHSET under the job of the issuing launch (Table 1-9). -/
def Ctx.openPhase (c : Ctx) (id job : Nat) : Ctx :=
  match Tab.find c.phases id with
  | some _ => c
  | none => { c with phases := Tab.ins c.phases id (Level.new job) }

/-- The header's phase becomes current (R196), its counters starting from what came early for it, else from 0 (log entry 72); event PHASE is cleared
(Table 16-6). -/
def State.loadPhase (s : State) (ctx lid : Nat) (hdr tab : List Byte) (ranks : List (Nat × Nat)) (me : Nat) : State :=
  let id := hdrNat hdr 0 6
  let cores := hdrNat hdr 0x10 4
  let job := match Tab.find s.launches lid with | some l => l.job | none => 0
  let s := s.updCtx ctx (fun c =>
    let c := c.openPhase id job
    let early : Tab PhCount × Bool := match c.phase with
      | none => ([], false)
      | some p => if id = p.next then (p.pending, false) else ([], p.pending.any (fun x => x.2 != PhCount.zero))
    let counts := (List.range cores).foldl (fun t k => addCount t k (phEntry tab k)) early.1
    let p : Phase := {
      id := id, scope := hdrNat hdr 6 1, next := hdrNat hdr 0x20 6, group := BitVec.ofNat 64 (hdrNat hdr 0x18 8), ranks := ranks, me := me,
      sent := false, serial := c.serial + 1, ended := false, err := early.2, cancelled := false, counts := counts, pending := [] }
    { c with serial := c.serial + 1, phase := some p.mark })
  { s with blocks := s.blocks.map (fun x => if x.2.ctx = ctx then (x.1, { x.2 with evpend := x.2.evpend &&& ~~~2 }) else x) }

/-- The loaded phase of a context has not ended. -/
def State.phaseOpen (s : State) (ctx : Nat) : Bool :=
  match (Tab.find s.ctxs ctx).bind (fun c => c.phase) with
  | some p => !p.ended
  | none => false

/-- The launch of a block. -/
def State.lidOf (s : State) (blk : Nat) : Nat := match s.block? blk with | some b => b.lid | none => 0

/-- The ranks of a SCOPE 2 phase and this device's rank; no ranks for another scope. -/
def State.phGroup (s : State) (ctx : Nat) (hdr : List Byte) (rd : Reader) : State × Except FInfo (List (Nat × Nat) × Nat) :=
  if hdrNat hdr 6 1 ≠ 2 then (s, .ok ([], 0))
  else
    match s.readGroup ctx rd (BitVec.ofNat 64 (hdrNat hdr 0x18 8)) with
    | (s, .error x) => (s, .error x)
    | (s, .ok g) => (s, .ok (g.ranks, g.me))

/-- PHSET: header and table are read at issue; while the loaded phase has not ended the participants are held (R196). -/
def execPhset (f : FmtA) (s : State) : Host.Outcome State Fault Refusal :=
  onceStep .phset (.a f) (fun s e =>
    let want : Want := ⟨.read, false, fmtRaw, true⟩
    match s.access e.core e.ctx e.blk want 64 (e.pair f.a) 64 with
    | (s, .error x) => (s, [], .fault x)
    | (s, .ok (keys, _)) =>
      match s.readBytes e (e.pair f.a) keys with
      | (s, .error x) => (s, [], .fault x)
      | (s, .ok hdr) =>
        if !phHdrOk hdr then (s, [], .fault (.of 0x03))
        else
          let table := BitVec.ofNat 64 (hdrNat hdr 8 8)
          match s.access e.core e.ctx e.blk want 16 table (16 * hdrNat hdr 0x10 4) with
          | (s, .error x) => (s, [], .fault x)
          | (s, .ok (keys, _)) =>
            match s.readBytes e table keys with
            | (s, .error x) => (s, [], .fault x)
            | (s, .ok tab) =>
              match s.phGroup e.ctx hdr (rawReader e) with
              | (s, .error x) => (s, [], .fault x)
              | (s, .ok (ranks, me)) =>
                if s.phaseOpen e.ctx then (s, [], .hold (.phset hdr tab ranks me))
                else (s.loadPhase e.ctx (s.lidOf e.blk) hdr tab ranks me, [], .stay)) s

/-- PHARR, once per issue: a release by every participant, of held operations too (log entry 58), then the core's ARR counter (R197). -/
def execPharr (f : FmtA) (s : State) : Host.Outcome State Fault Refusal :=
  onceStep .pharr (.a f) (fun s e =>
    ((s.settleHeld .pharr f).phHere e.ctx e.core ⟨0, 0, 0, 0, -(e.a f).toNat⟩, [], .stay)) s

def execPhwait (f : FmtA) (s : State) : Host.Outcome State Fault Refusal :=
  laneStep .phwait (.a f) (fun s e =>
    match (Tab.find s.ctxs e.ctx).bind (fun c => c.phase) with
    | none => (s, .stay)
    | some p => if p.ended then (s, .stay) else (s, .hold (.phwait p.serial))) s

/-- Logical cores that a physical core holds under a context's loaded phase (R13). -/
def State.logicals (s : State) (ctx core : Nat) : List Nat :=
  (List.range 1024).filter (fun k => s.physCore ctx k == core)

/-- The PHSTAT word (Table 6-7). -/
def State.phstat (s : State) (ctx core : Nat) : Word :=
  match (Tab.find s.ctxs ctx).bind (fun c => c.phase) with
  | none => 0
  | some p =>
    let line := (s.logicals ctx core).all (fun k => (Tab.get PhCount.zero p.counts k).high)
    BitVec.ofNat 32 (1 + (if p.ended then 2 else 0) + (if line then 4 else 0) + (if p.err then 8 else 0) + (if p.cancelled then 16 else 0) +
      p.id % 65536 * 65536)

def execPhstat (f : FmtA) (s : State) : Host.Outcome State Fault Refusal :=
  laneStep .phstat (.a f) (longRegs (fun s e => toW f.wbs f.d [s.phstat e.ctx e.core])) s

end Sys2Proof.Machine
end

