-- ==== Sys2Proof/Machine/Matrix.lean ====
section
/-!
DEFINITION. The matrix units: operands, the MAT instructions as the tile sequencer issues them, and the operations as the units execute them
(R247, R253 to R267).
-/

namespace Sys2Proof.Machine

/-! ## Fields and operands (Tables 10-3 to 10-5) -/

def matAccOf (d : BitVec 7) : Nat := (d.extractLsb' 0 3).toNat
def matField (d : BitVec 7) : Nat := (d.extractLsb' 3 2).toNat

/-- The core whose unit a core field names, from the forking block's core (R247). -/
def unitCore (core cf : Nat) : Nat := core / 4 * 4 + (core % 4 + cf) % 4

/-- Fields of a scratchpad specifier (Table 10-3). -/
def spBase (v : DWord) : Nat := (v.extractLsb' 0 20).toNat
def spPitch (v : DWord) : Nat := (v.extractLsb' 20 12).toNat
def spStep (v : DWord) : Nat := (v.extractLsb' 32 20).toNat
def spRot (v : DWord) : Nat := (v.extractLsb' 52 3).toNat
def spFmt (v : DWord) : Nat := (v.extractLsb' 55 4).toNat
def spReserved (v : DWord) : Bool := v.extractLsb' 59 5 != 0

/-- Bytes of an operand row by format (R257). -/
def matRow (fmt : Nat) : Nat := if fmt = 2 then 64 else if isBfp fmt then 4 + 4 * bfpBits fmt else 32

/-- The offset of byte x of row r, rows of `len` bytes, rotated by 16-byte chunks (R257). -/
def spAddr (v : DWord) (len r x : Nat) : Nat :=
  let start := spBase v + 16 * spPitch v * r
  if spRot v = 0 then start + x else start + 16 * ((x / 16 + spRot v * r) % (len / 16)) + x % 16

/-- Bytes of a row that hold elements 0 to n - 1; a bfp row is read whole (R256, R261). -/
def rowBytes (fmt n : Nat) : Nat := if isBfp fmt then matRow fmt else n * elemSize fmt

/-- Every offset that an operand of some rows and elements per row is read at. -/
def opndOffsets (v : DWord) (rows cols : Nat) : List Nat :=
  ((List.range rows).map (fun r => (List.range (rowBytes (spFmt v) cols)).map (fun x => spAddr v (matRow (spFmt v)) r x))).flatten

/-- A row of bytes in a core's scratchpad. -/
def State.spRow (s : State) (core : Nat) (v : DWord) (len n r : Nat) : List Byte :=
  (List.range n).map (fun x => s.scr.byte (scrKey core (spAddr v len r x)))

/-- Element t of a row's bytes (R256). -/
def rowElem (fmt : Nat) (bs : List Byte) (t : Nat) : NumVal :=
  if isBfp fmt then bfpValue (bfpBits fmt) (bs.headD 0).toNat (leVal (bs.drop 4) / 2 ^ (bfpBits fmt * t))
  else scalarValue fmt (leVal ((bs.drop (elemSize fmt * t)).take (elemSize fmt)))

/-- Row r of an operand, elements 0 to n - 1. A warp's thread r holds row r in bf16; one that is not live gives zeros (R258). -/
def State.opndRow (s : State) (o : MatOpnd) (n r : Nat) : List NumVal :=
  match o with
  | .scr core v =>
    let bs := s.spRow core v (matRow (spFmt v)) (rowBytes (spFmt v) n) r
    (List.range n).map (rowElem (spFmt v) bs)
  | .reg blk wp wbase =>
    match s.thread? ⟨blk, wp, r⟩ with
    | some th => (List.range n).map (fun t => if th.live then bf16 (th.rw (wbase + t / 2)) (t % 2) else .fin false 0 0)
    | none => List.replicate n (.fin false 0 0)

/-- Scratchpad keys of an operand. -/
def opndKeys (o : MatOpnd) (rows cols : Nat) : List Nat :=
  match o with
  | .scr core v => (opndOffsets v rows cols).map (scrKey core)
  | .reg _ _ _ => []

/-- A register that an operand held by a warp reads holds an uncorrectable error (R369). -/
def State.opndBad (s : State) (o : MatOpnd) (rows cols : Nat) : Bool :=
  match o with
  | .scr _ _ => false
  | .reg blk wp wbase => (List.range rows).any (fun r => match s.thread? ⟨blk, wp, r⟩ with
    | some th => th.live && th.badW.any (fun k => decide (wbase ≤ k) && decide (k < wbase + (cols + 1) / 2))
    | none => false)

/-! ## Executing an operation (R253, R260 to R264, R267) -/

def State.mat (s : State) (core : Nat) : MatUnit := Tab.get MatUnit.new s.mats core
def State.updMat (s : State) (core : Nat) (f : MatUnit → MatUnit) : State := { s with mats := Tab.put MatUnit.new s.mats core (f (s.mat core)) }

def MatUnit.accAt (u : MatUnit) (a : Nat) : Acc := Tab.get Acc.new u.acc a
def MatUnit.setAcc (u : MatUnit) (a : Nat) (x : Acc) : MatUnit := { u with acc := Tab.put Acc.new u.acc a x }
def Acc.bin (a : Acc) (i : Nat) : BinBits := Tab.get 0 a.bins i

/-- Bins 0 to 1,023 by a function, empty ones unlisted. -/
def binTab (f : Nat → BinBits) : Tab BinBits := (List.range 1024).filterMap (fun i => if f i = 0 then none else some (i, f i))

/-- The poison key of an accumulator's bin (log entry 17). -/
def accKey (core a i : Nat) : Nat := 2 ^ 140 + ((core * 8 + a) * 1024 + i) * 16
def accKeys (core a : Nat) : List Nat := (List.range 1024).map (accKey core a)

/-- An overwritten accumulator loses its poison. -/
def State.cleanAcc (s : State) (core a : Nat) : State :=
  { s with poison := s.poison.filter (fun g => !((accKeys core a).any (fun k => g == 2 * (k / 8) || g == 2 * (k / 8 + 1)))) }

/-- The bin that the fill sets (Table 10-7). -/
def fillBin (cfg : MatCfg) (win : Int) : BinBits :=
  match cfg.fill with
  | 1 => binSetFlag 0 2
  | 2 => binSetFlag 0 1
  | 3 => binSetFlag 0 0
  | 4 => contribute 0 win (f32 cfg.fval)
  | _ => 0

/-- One bin of an MMA (R261). -/
def mmaBin (tri : Bool) (cfg : MatCfg) (acc : Acc) (a b : List (List NumVal)) (i : Nat) : BinBits :=
  let r := i / 32
  let c := i % 32
  if tri && decide ((c : Int) > r + cfg.diag) then fillBin cfg acc.win
  else if r < cfg.m then
    (List.range cfg.k).foldl (fun bin t => contribute bin acc.win (NumVal.mul ((a.getD r []).getD t .nan) ((b.getD t []).getD c .nan))) (acc.bin i)
  else acc.bin i

/-- Bytes of an element that a drain of some kind writes. -/
def drainSize (kind : Nat) : Nat := if kind = 0 then 4 else if kind = 1 then 2 else 16

/-- The bytes of one drained bin; a bin with an uncorrectable error gives the canonical NaN (R369). -/
def drainBytes (kind : Nat) (b : BinBits) (win : Int) (bad : Bool) : List Byte :=
  if kind = 0 then leBytes 4 (if bad then nanF32 else drainF32 b win).toNat
  else if kind = 1 then leBytes 2 (if bad then fmtBf16.nan else drainBf16 b win)
  else leBytes 16 b.toNat

/-- The record of the matrix unit of a core: the program's number, and the accumulator where it matters (Table 16-3). -/
def State.matReport (s : State) (core c num cause : Nat) (va : DWord) : State :=
  match (s.cluster c).tile with
  | none => s
  | some r =>
    match s.block? r.t.blk with
    | none => s
    | some b => s.report b.ctx ⟨cause, 0, 4, 0, 32 * r.t.wp + r.t.m, b.lid, b.idx, va, num⟩ (.mat core)

/-- A drain (R264, R267): the elements within the extents, in place, for the forking block's twin too. -/
def State.matDrain (s : State) (core c num cf kind a : Nat) (v : DWord) (cfg : MatCfg) : State :=
  let acc := (s.mat core).accAt a
  let n := drainSize kind
  let blk := match (s.cluster c).tile with | some r => r.t.blk | none => 0
  let cells : List (Nat × Nat) := ((List.range cfg.m).map (fun r => (List.range cfg.n).map (fun k => (r, k)))).flatten
  let isBad (x : Nat × Nat) : Bool := s.memBad [accKey core a (32 * x.1 + x.2)]
  let s' := cells.foldl (fun (s : State) x =>
    let bs := drainBytes kind (acc.bin (32 * x.1 + x.2)) acc.win (isBad x)
    bs.zipIdx.foldl (fun s p => s.engScr blk core (spAddr v (32 * n) x.1 (n * x.2 + p.2)) [p.1]) s) s
  let at_ : DWord := BitVec.ofNat 64 (8 * cf + a)
  let s' := if cells.any isBad then s'.matReport core c num 0x10 at_ else s'
  if kind ≠ 2 ∧ cells.any (fun x => !isBad x && drainOvf (acc.bin (32 * x.1 + x.2))) = true then
    (s'.updTile c (fun r => { r with ovf := true })).matReport core c num 0x12 at_
  else s'

/-- The bytes MSAVE writes: the bins, then the window and twelve zero bytes (R260). -/
def saveBytes (a : Acc) : List Byte :=
  ((List.range 1024).map (fun i => leBytes 16 (a.bin i).toNat)).flatten ++ leBytes 4 (BitVec.ofInt 32 a.win).toNat ++ leBytes 12 0

/-- An accumulator from the bytes MSAVE wrote. -/
def restoreAcc (bs : List Byte) : Acc :=
  ⟨sx (BitVec.ofNat 32 (hdrNat bs 16384 4)), binTab (fun i => binClean (BitVec.ofNat 128 (hdrNat bs (16 * i) 16)))⟩

/-- One operation executed by the unit of a core. -/
def State.matExec (s : State) (core : Nat) (op : MatOp) (c num cf : Nat) : State :=
  let u := s.mat core
  match op with
  | .mwin a win => (s.updMat core (fun u => u.setAcc a ⟨win, []⟩)).cleanAcc core a
  | .mzero a => (s.updMat core (fun u => u.setAcc a ⟨(u.accAt a).win, []⟩)).cleanAcc core a
  | .msave a base =>
    if s.memBad (accKeys core a) then s.matReport core c num 0x10 (BitVec.ofNat 64 (8 * cf + a))
    else
      let blk := match (s.cluster c).tile with | some r => r.t.blk | none => 0
      s.engScr blk core base (saveBytes (u.accAt a))
  | .mrst a base =>
    if s.scrBad ((List.range 16400).map (fun x => scrKey core (base + x))) then s.matReport core c num 0x10 0
    else
      let x := restoreAcc (s.scr.bytes (scrKey core base) 16400)
      if winOk x.win then (s.updMat core (fun u => u.setAcc a x)).cleanAcc core a else s.matReport core c num 0x03 0
  | .mma tri a x y cfg =>
    if s.scrBad (opndKeys x cfg.m cfg.k ++ opndKeys y cfg.k 32) || s.opndBad x cfg.m cfg.k || s.opndBad y cfg.k 32 || s.memBad (accKeys core a) then s.matReport core c num 0x10 0
    else
      let xa := (List.range cfg.m).map (s.opndRow x cfg.k)
      let yb := (List.range cfg.k).map (s.opndRow y 32)
      let acc := u.accAt a
      s.updMat core (fun u => u.setAcc a ⟨acc.win, binTab (mmaBin tri cfg acc xa yb)⟩)
  | .drain kind a v cfg => s.matDrain core c num cf kind a v cfg

/-- The oldest operation of a unit is executed. -/
def State.matStep (s : State) (core : Nat) : State :=
  match (s.mat core).queue with
  | [] => s
  | (op, c, num, cf) :: rest => (s.updMat core (fun u => { u with queue := rest })).matExec core op c num cf

/-- Operations of a program still queued on some unit. -/
def State.matBusy (s : State) (c num : Nat) : Bool := s.mats.any (fun u => u.2.queue.any (fun q => q.2.1 == c && q.2.2.1 == num))

/-- The operations issued to a cluster's units are executed, on each unit in order. -/
def State.matFlush (s : State) (c : Nat) : State :=
  [0, 1, 2, 3].foldl (fun s i => (List.range (s.mat (4 * c + i)).queue.length).foldl (fun s _ => s.matStep (4 * c + i)) s) s

/-- A matrix unit's record waits to be posted: it starts no further operation (R346). -/
def State.matPosting (s : State) (core : Nat) : Bool := s.ctxs.any (fun p => p.2.waiting.any (fun q => q.unit == .mat core))

/-- MATRIX_UNIT_OPERATION: the unit's next operation. -/
def execMatrixUnitOperation (core : Nat) (s : State) : Host.Outcome State Fault Refusal :=
  if s.matPosting core then .next s else .next (s.matStep core)

/-! ## Issue by the sequencer (R247, R259) -/

/-- Every offset lies in the forking block's region, or, on another core, in the region of one block of its launch there (R247). -/
def State.matAllowed (s : State) (e : Env) (core cf : Nat) (offs : List Nat) : Bool :=
  let within (base size : Nat) : Bool := offs.all (fun o => decide (base ≤ o) && decide (o < base + size))
  if cf = 0 then within e.scrBase e.scrSize
  else
    let lid := s.lidOf e.blk
    (s.onCore core).any (fun b => b.ctx == e.ctx && b.lid == lid && within b.scrBase b.scrSize)

/-- Operations a unit holds: 16 queued and the one it executes (R253). -/
def matQueueMax : Nat := 17

/-- What a MAT instruction asks of a unit: the core, the unit's state, the operation or a fault, and k registers written at issue. -/
abbrev MatForm := State → Env → Nat → MatUnit → Except FInfo (MatOp × List RegVal)

/-- A MAT instruction that queues an operation on its unit, or waits while the queue is full; one that faults does not wait (log entry 89). -/
def matIssue (op : Op) (f : FmtA) (form : MatForm) (s : State) : Host.Outcome State Fault Refusal :=
  laneStep op (.a f) (fun s e =>
    match e.lane with
    | .thr _ => (s, .fault (.of 0x02))
    | .tile c =>
      let cf := matField f.d
      let core := unitCore e.core cf
      let u := s.mat core
      match form s e core u, (s.cluster c).tile with
      | .error x, _ => (s, .fault x)
      | _, none => (s, .stay)
      | .ok (mop, wr), some r =>
        if matQueueMax ≤ u.queue.length then (s, .wait)
        else ((s.updMat core (fun u => { u with queue := u.queue ++ [(mop, c, r.num, cf)] })).updLane e.lane (fun th => th.puts wr), .stay)) s

def execMwin (f : FmtA) (s : State) : Host.Outcome State Fault Refusal :=
  matIssue .mwin f (fun _ e _ _ => let w := sx (e.a f); if winOk w then .ok (.mwin (matAccOf f.d) w, []) else .error (.of 0x03)) s

def execMzero (f : FmtA) (s : State) : Host.Outcome State Fault Refusal :=
  matIssue .mzero f (fun _ _ _ _ => .ok (.mzero (matAccOf f.d), [])) s

/-- The range of MSAVE and MRST, checked: reserved bits, alignment, permission, in this order (log entry 89). -/
def saveForm (f : FmtA) (write : Bool) (mk : Nat → Nat → MatOp) : MatForm := fun s e core _ =>
  let v := e.pair f.a
  if v.extractLsb' 20 44 ≠ 0 then .error (.of 0x03)
  else if spBase v % 16 ≠ 0 then .error (.local 0x06 write)
  else if s.matAllowed e core (matField f.d) (List.range' (spBase v) 16400) then .ok (mk (matAccOf f.d) (spBase v), [])
  else .error (.local 0x08 write)

def execMsave (f : FmtA) (s : State) : Host.Outcome State Fault Refusal := matIssue .msave f (saveForm f true .msave) s
def execMrst (f : FmtA) (s : State) : Host.Outcome State Fault Refusal := matIssue .mrst f (saveForm f false .mrst) s

/-- A scratchpad operand of MMA, checked (R255 to R257, R261): fields, alignment, permission, in this order (log entry 89). -/
def scrOpnd (s : State) (e : Env) (core cf : Nat) (v : DWord) (rows cols : Nat) : Except FInfo MatOpnd :=
  let fmt := spFmt v
  if spReserved v || decide (fmt < 2) || decide (11 < fmt) || (spRot v != 0 && matRow fmt % 16 != 0) then .error (.of 0x03)
  else if spBase v % (if fmt = 2 then 2 else if isBfp fmt then 4 else 1) ≠ 0 then .error (.local 0x06 false)
  else if s.matAllowed e core cf (opndOffsets v rows cols) then .ok (.scr core v)
  else .error (.local 0x08 false)

/-- A register operand of MMA, checked (R258): its other fields before WBASE (log entry 89). -/
def regOpnd (s : State) (e : Env) (cf : Nat) (v : Word) : Except FInfo MatOpnd :=
  let wp := (v.extractLsb' 0 3).toNat
  let wbase := (v.extractLsb' 8 7).toNat
  match s.block? e.blk with
  | none => .error (.of 0x03)
  | some b =>
    if cf ≠ 0 ∨ v.extractLsb' 3 5 ≠ 0 ∨ v.extractLsb' 15 17 ≠ 0 ∨ b.warps.length ≤ wp then .error (.of 0x03)
    else if wbase % 8 ≠ 0 ∨ b.regs < wbase + 16 then .error (.of 0x05)
    else .ok (.reg e.blk wp wbase)

/-- A specifier's k register with BASE advanced by STEP (R261). -/
def advanced (sel : BitVec 8) (v : DWord) : RegVal :=
  .w sel.toNat (v.extractLsb' 20 12 ++ BitVec.ofNat 20 (spBase v + spStep v) : BitVec 32)

/-- MMA and MMA.TRI. Operand A is checked before B (log entry 89). -/
def mmaForm (tri : Bool) (f : FmtA) : MatForm := fun s e core u =>
  let cf := matField f.d
  let cfg := u.cfg
  let opnd (held : Bool) (sel : BitVec 8) (rows cols : Nat) : Except FInfo (MatOpnd × List RegVal) :=
    if held then
      match regOpnd s e cf (e.th.rw sel.toNat) with
      | .error x => .error x
      | .ok o => .ok (o, [])
    else
      match scrOpnd s e core cf (e.pair sel) rows cols with
      | .error x => .error x
      | .ok o => .ok (o, [advanced sel (e.pair sel)])
  match opnd (f.d.getLsbD 5) f.a cfg.m cfg.k, opnd (f.d.getLsbD 6) f.b cfg.k 32 with
  | .error x, _ => .error x
  | _, .error x => .error x
  | .ok (a, ra), .ok (b, rb) => .ok (.mma tri (matAccOf f.d) a b cfg, ra ++ rb)

def execMma (f : FmtA) (s : State) : Host.Outcome State Fault Refusal := matIssue .mma f (mmaForm false f) s
def execMmaTri (f : FmtA) (s : State) : Host.Outcome State Fault Refusal := matIssue .mmaTri f (mmaForm true f) s

/-- A drain's destination, checked (R264): fields, alignment, permission, in this order (log entry 89). -/
def drainForm (kind : Nat) (f : FmtA) : MatForm := fun s e core u =>
  let v := e.pair f.a
  let n := drainSize kind
  let offs := ((List.range u.cfg.m).map (fun r => (List.range (n * u.cfg.n)).map (fun x => spAddr v (32 * n) r x))).flatten
  if spReserved v ∨ spFmt v ≠ 0 ∨ spStep v ≠ 0 then .error (.of 0x03)
  else if spBase v % n ≠ 0 then .error (.local 0x06 true)
  else if s.matAllowed e core (matField f.d) offs then .ok (.drain kind (matAccOf f.d) v u.cfg, [])
  else .error (.local 0x08 true)

def execMdrain (f : FmtA) (s : State) : Host.Outcome State Fault Refusal := matIssue .mdrain f (drainForm 0 f) s
def execMdrainh (f : FmtA) (s : State) : Host.Outcome State Fault Refusal := matIssue .mdrainh f (drainForm 1 f) s
def execMdrainb (f : FmtA) (s : State) : Host.Outcome State Fault Refusal := matIssue .mdrainb f (drainForm 2 f) s

/-- A setting of a unit's state for the operations issued after it (R263). Like every MAT instruction it waits while the unit's queue is full (R253). -/
def matSet (op : Op) (f : FmtA) (set : Env → MatCfg → Option MatCfg) (s : State) : Host.Outcome State Fault Refusal :=
  laneStep op (.a f) (fun s e =>
    let core := unitCore e.core (matField f.d)
    match set e (s.mat core).cfg with
    | none => (s, .fault (.of 0x03))
    | some cfg =>
      if matQueueMax ≤ (s.mat core).queue.length then (s, .wait) else (s.updMat core (fun u => { u with cfg := cfg }), .stay)) s

def execMedge (f : FmtA) (s : State) : Host.Outcome State Fault Refusal :=
  matSet .medge f (fun e cfg =>
    let v := e.a f
    let m := (v.extractLsb' 0 6).toNat
    let n := (v.extractLsb' 8 6).toNat
    let k := (v.extractLsb' 16 6).toNat
    let o := sx (e.b f)
    let ok (x : Nat) : Bool := decide (1 ≤ x) && decide (x ≤ 32)
    if v.extractLsb' 6 2 = 0 ∧ v.extractLsb' 14 2 = 0 ∧ v.extractLsb' 22 10 = 0 ∧ (ok m && ok n && ok k) = true ∧ -32 ≤ o ∧ o ≤ 32 then
      some { cfg with m := m, n := n, k := k, diag := o }
    else none) s

def execMfmt (f : FmtA) (s : State) : Host.Outcome State Fault Refusal :=
  matSet .mfmt f (fun e cfg => if 4 < (e.a f).toNat then none else some { cfg with fill := (e.a f).toNat, fval := e.b f }) s

/-- MSYNC waits for every MAT operation of the program (R265). -/
def execMsync (f : FmtA) (s : State) : Host.Outcome State Fault Refusal :=
  laneStep .msync (.a f) (fun s e =>
    match e.lane with
    | .thr _ => (s, .fault (.of 0x02))
    | .tile c => match (s.cluster c).tile with
      | some r => if s.matBusy c r.num then (s, .wait) else (s, .stay)
      | none => (s, .stay)) s

/-- The barrier object that MBAR and MWAITB name, checked: its core and offset (R266). -/
def matBarrier (s : State) (e : Env) (f : FmtA) (write : Bool) : Except FInfo (Nat × Nat) :=
  let cf := matField f.d
  let core := unitCore e.core cf
  let off := (e.a f).toNat
  if off % 8 ≠ 0 then .error (.local 0x06 write)
  else if !s.matAllowed e core cf (List.range' off 8) then .error (.local 0x08 write)
  else if s.scrBad ((List.range 8).map (fun i => scrKey core off + i)) then .error (.of 0x10)
  else .ok (core, off)

/-- An arrival of the sequencer at an object, and at the twin's copy of it (R366); none is an operand fault. -/
def State.tileArrive (s : State) (blk core off : Nat) : Option State :=
  let put (s : State) (core : Nat) (o : BarObj) : State := s.scrWrite (atKeys (scrKey core off) (leBytes 4 o.lo.toNat ++ leBytes 4 o.hi.toNat))
  match (s.barAt core off).arrive .arrive with
  | none => none
  | some o =>
    let s := put s core o
    match (s.block? blk).bind (fun b => if b.core = core then b.twin.bind s.block? else none) with
    | none => some s
    | some k => match (s.barAt k.core off).arrive .arrive with
      | none => some s
      | some o => some (put s k.core o)

def execMbar (f : FmtA) (s : State) : Host.Outcome State Fault Refusal :=
  laneStep .mbar (.a f) (fun s e =>
    match e.lane with
    | .thr _ => (s, .fault (.of 0x02))
    | .tile c =>
      match matBarrier s e f true, (s.cluster c).tile with
      | .error x, _ => (s, .fault x)
      | _, none => (s, .stay)
      | .ok (core, off), some r =>
        if s.matBusy c r.num then (s, .wait)
        else match s.tileArrive e.blk core off with
          | none => (s, .fault (.of 0x03))
          | some s => (s, .stay)) s

def execMwaitb (f : FmtA) (s : State) : Host.Outcome State Fault Refusal :=
  laneStep .mwaitb (.a f) (fun s e =>
    match matBarrier s e f false with
    | .error x => (s, .fault x)
    | .ok (core, off) =>
      if decide (matQueueMax ≤ (s.mat core).queue.length) || (s.barAt core off).ph == (e.b f).getLsbD 0 then (s, .wait) else (s, .stay)) s

end Sys2Proof.Machine
end

