-- ==== Sys2Proof/Machine/Block.lean ====
section
/-!
DEFINITION. Levels of work, placement, and the life of a block: its start, commit points and rollback, kills, saving and moving, its end
(R24 to R30, R316, R320, R358 to R368, R374 to R376).
-/

namespace Sys2Proof.Machine

/-! ## Levels (R29) -/

/-- A graph that no live graph holds is created (R314). -/
def Ctx.openGraph (c : Ctx) (id phase : Nat) : Ctx :=
  match Tab.find c.graphs id with
  | some l => if l.complete then { c with graphs := Tab.ins c.graphs id (Level.new phase) } else c
  | none => { c with graphs := Tab.ins c.graphs id (Level.new phase) }

/-- The host's jobs, and the phases its records name, exist from the first record that names them (log entry 21); a job with its map of cores. -/
def Ctx.openHost (c : Ctx) (phase job : Nat) (cores : Tab Nat) : Ctx :=
  let live (t : Tab Level) (id : Nat) : Bool := match Tab.find t id with | some l => !l.complete | none => false
  let c := if live c.phases phase then c else { c with phases := Tab.ins c.phases phase (Level.new job) }
  if live c.jobs job then c else { c with jobs := Tab.ins c.jobs job { Level.new 0 with cores := cores } }

/-- A launch-level unit. -/
def State.launch? (s : State) (lid : Nat) : Option Launch := Tab.find s.launches lid
def State.updLaunch (s : State) (lid : Nat) (f : Launch → Launch) : State := { s with launches := Tab.upd s.launches lid f }

/-- A level is cancelled, or holds nothing more (R336). -/
def levelCancelled (t : Tab Level) (id : Nat) : Bool := match Tab.find t id with | some l => l.cancelled | none => false

/-- Work of a launch may make no more work: the launch or a level above it is cancelled (R336). -/
def State.lidCancelled (s : State) (lid : Nat) : Bool :=
  match s.launch? lid with
  | none => false
  | some l =>
    l.cancelled || (match Tab.find s.ctxs l.ctx with
      | none => true
      | some c => levelCancelled c.graphs l.graph || levelCancelled c.phases l.phase || levelCancelled c.jobs l.job)

/-- A cancel has reached the block, or a level that holds it (R336). -/
def State.blkCut (s : State) (blk : Nat) : Bool :=
  match s.block? blk with
  | some b => b.evpend.getLsbD 2 || s.lidCancelled b.lid
  | none => true

/-- Some unit of a launch was reported failed: it and the levels above it show FAILED (R337). -/
def State.markFailed (s : State) (lid : Nat) : State :=
  match s.launch? lid with
  | none => s
  | some l =>
    let bad (t : Tab Level) (id : Nat) : Tab Level := Tab.upd t id (fun l => { l with failed := true })
    (s.updLaunch lid (fun l => { l with failed := true })).updCtx l.ctx (fun c =>
      { c with graphs := bad c.graphs l.graph, phases := bad c.phases l.phase, jobs := bad c.jobs l.job })

/-- A launch descriptor of no kernel launch. -/
def LDesc.none : LDesc := ⟨0, 0, 1, 1, 1, 32, 128, 64, 0, 0, 0, 0, 0, 0⟩

/-- A new launch-level unit gets the next id (R29). -/
def State.newLaunch (s : State) (l : Launch) : State × Nat :=
  let id := s.lidNext
  let s := { s with launches := Tab.ins s.launches id l, lidNext := id + 1 }
  (s.updCtx l.ctx (fun c => c.openGraph l.graph l.phase), id)

/-! ## Room on cores (R25, R320) -/

/-- Lowest free place of a region in a scratchpad, given the regions there (log entry 92). -/
def fitRegion (used : List (Nat × Nat)) (size : Nat) : Option Nat :=
  let free (b : Nat) : Bool := decide (b + size ≤ Config.scratchBytes) && used.all (fun r => !overlaps r.1 r.2 b size)
  ((0 :: used.map (fun r => (r.1 + r.2 + 15) / 16 * 16)).filter free).min?

/-- The regions in use on a core. -/
def State.regions (s : State) (core : Nat) : List (Nat × Nat) := (s.onCore core).map (fun b => (b.scrBase, b.scrSize))

/-- A warp has its slice: a thread of it is live, or is owed a result (R93). -/
def Warp.busy (w : Warp) : Bool := w.threads.any (fun th => th.live || !th.owed.isEmpty)

/-- Slices that a block takes: those of its warps that have not ended, and of those that a rollback would bring back (R93, R363). -/
def Block.slices (b : Block) : Nat :=
  ((b.warps.zip (b.ckpt.getD b.warps)).filter (fun w => w.1.busy || w.2.busy)).length

/-- Where a block of some warps with a region of some size fits on a core: at most 8 blocks and 8 warps there. -/
def State.coreFits (s : State) (core warps size : Nat) : Option Nat :=
  let bs := s.onCore core
  if 8 ≤ bs.length ∨ 8 < (bs.map Block.slices).sum + warps then none else fitRegion (s.regions core) size

/-- Bytes of commit area and journal that a protected block reserves (R361). -/
def commitArea (prot warps : Nat) : Nat := if prot = 0 then 0 else 4096 * warps + 65536

/-- A die takes new blocks: no Silo load is copying there (R393). -/
def State.dieOpen (s : State) (die : Nat) : Bool := match s.dev.siloLoad with | some l => l.die != die | none => true

/-- The first core, in package order and from core 0 of a cluster up (log entry 92), on which a block fits: healthy cluster, slice, region, loft. `avoid` is a
cluster left out. -/
def State.findCore (s : State) (ctx warps size loft : Nat) (avoid : Option Nat) : Option (Nat × Nat) :=
  let ok (cl : Nat) : Bool := (s.cluster cl).healthy && some cl != avoid && s.dieOpen (cl / 64) &&
    (match Tab.find s.ctxs ctx with | some c => decide (loft ≤ c.loftFree (cl / 64)) | none => false)
  (packageOrder.filter ok).findSome? (fun cl =>
    [0, 1, 2, 3].findSome? (fun i => (s.coreFits (4 * cl + i) warps size).map (fun base => (4 * cl + i, base))))

/-! ## Starting a block (R28, R320, Table 15-3) -/

/-- Uniform registers from s0 up. -/
def uniRegs (vs : List Word) : Vector Word 64 := vs.zipIdx.foldl (fun v p => v.setIfInBounds p.2 p.1) (Vector.replicate 64 0)

/-- s0 to s11 of a block. -/
def entryUni (idx tx ty tz : Word) (arg : DWord) (lid : Nat) (s8 s9 : Nat) (base prot : Nat) : Vector Word 64 :=
  uniRegs ([idx, tx, ty, tz] ++ lohi arg ++ lohi (BitVec.ofNat 64 lid) ++
    [BitVec.ofNat 32 s8, BitVec.ofNat 32 s9, BitVec.ofNat 32 base, BitVec.ofNat 32 prot])

/-- The warps of n threads at an entry. -/
def newWarps (u : Vector Word 64) (n : Nat) (pc : DWord) : List Warp :=
  (List.range ((n + 31) / 32)).map (fun k => Warp.new u (min 32 (n - 32 * k)) pc)

/-- A block about to be placed. -/
structure Start where
  ctx   : Nat
  lid   : Nat
  idx   : Nat
  kind  : BlockKind
  regs  : Nat
  unif  : Nat
  nthr  : Nat
  size  : Nat
  loft  : Nat
  prot  : Nat
  grid  : Bool
  heap  : DWord
  quota : Nat
  entry : DWord

/-- Bytes of a region read as zero at block start (R150). -/
def clearRange (m : Memory) (k n : Nat) : Memory := m.filter (fun p => p.1 < k || decide (k + n ≤ p.1))

/-- A block of a launch stands on a die (R393). -/
def State.onDie (s : State) (lid die : Nat) : State :=
  s.updLaunch lid (fun l => { l with dies := if l.dies.contains die then l.dies else l.dies ++ [die] })

/-- A block starts on a core with its region at a base; its key is new. The loft it needs is taken. -/
def State.startBlock (s : State) (a : Start) (core base : Nat) (u : Vector Word 64) : State × Nat :=
  let key := s.tags + 1
  let warps := newWarps u a.nthr a.entry
  let b : Block := {
    ctx := a.ctx, lid := a.lid, idx := a.idx, kind := a.kind, core := core, regs := a.regs, unif := a.unif, nthr := a.nthr,
    scrBase := base, scrSize := a.size, loftSize := a.loft, loft := [], prot := a.prot, grid := a.grid, heap := a.heap, quota := a.quota,
    warps := warps, evpend := 0, timer := 0, held := [], journal := [], jcount := 0, fixed := false, reexec := false,
    ckpt := if a.prot = 0 then none else some warps, twin := none, primary := true, fixlog := [], stopAt := [], rb := none, group := none,
    issued := [], saved := none, out := [], epoch := 0, spare := 0, badShadow := false }
  let k := scrKey core base
  let s := { s with
    tags := key, names := Tab.ins s.names key (a.lid, a.idx), blocks := Tab.ins s.blocks key b, scr := clearRange s.scr k a.size,
    poison := s.poison.filter (fun g => g % 2 = 0 || decide (g / 2 * 8 < k) || decide (k + a.size ≤ g / 2 * 8)) }
  (((s.loftTake a.ctx (coreDie core) (a.loft + commitArea a.prot warps.length)).getD s).onDie a.lid (coreDie core), key)

/-- Loft that a block takes at its placement. -/
def Start.need (a : Start) : Nat := a.loft + commitArea a.prot ((a.nthr + 31) / 32)

/-- A block is placed on a core with its region at a base; under P2 with its twin on another cluster, at the same offsets (R366, log
entry 92). -/
def State.placeAt (s : State) (a : Start) (core base : Nat) (u : Nat → Vector Word 64) : Option (State × Nat) :=
  let r := s.startBlock a core base (u base)
  if a.prot ≠ 2 then some r
  else
    let (s, key) := r
    match s.findCore a.ctx ((a.nthr + 31) / 32) a.size a.need (some (coreCluster core)) with
    | none => none
    | some (core2, base2) =>
      if base2 ≠ base ∧ (s.regions core2).any (fun g => overlaps g.1 g.2 base a.size) = true then none
      else
        let (s, key2) := s.startBlock a core2 base (u base)
        let s := s.updBlock key (fun b => { b with twin := some key2 })
        some (s.updBlock key2 (fun b => { b with twin := some key, primary := false }), key)

/-- A block is placed on the first core with room; none when there is none. -/
def State.placeBlock (s : State) (a : Start) (u : Nat → Vector Word 64) : Option (State × Nat) :=
  match s.findCore a.ctx ((a.nthr + 31) / 32) a.size a.need none with
  | none => none
  | some (core, base) => s.placeAt a core base u

/-- A block is placed on this core, if it fits there. -/
def State.placeOn (s : State) (a : Start) (core : Nat) (u : Nat → Vector Word 64) : Option (State × Nat) :=
  let room := match Tab.find s.ctxs a.ctx with | some c => decide (a.need ≤ c.loftFree (coreDie core)) | none => false
  if core < 1024 ∧ (s.cluster (coreCluster core)).healthy = true ∧ s.dieOpen (coreDie core) = true ∧ room = true then
    match s.coreFits core ((a.nthr + 31) / 32) a.size with
    | none => none
    | some base => s.placeAt a core base u
  else none

/-! ## Commit points (R358 to R361) -/

/-- A thread counts as waiting at a commit point. -/
def Thread.atCommit (prot : Nat) (th : Thread) : Bool :=
  th.stop.isNone && th.owed.isEmpty && (match th.hold with
    | some .commit => true
    | some (.bar _ _ isBar) => isBar
    | some (.gbar _) => prot != 0
    | _ => false)

/-- Every live thread of the block waits at COMMIT or BAR, none is stopped, every slot has drained. -/
def Block.atCommit (b : Block) : Bool := b.warps.all (fun w => w.threads.all (fun th => (!th.live && th.owed.isEmpty) || th.atCommit b.prot))

/-- Every thread has exited and is owed nothing. -/
def Block.allOut (b : Block) : Bool := b.warps.all (fun w => w.threads.all (fun th => !th.live && th.owed.isEmpty))

/-- A BAR wait whose phase has flipped. -/
def State.barOpen (s : State) (b : Block) (h : Hold) : Bool :=
  match h with
  | .bar off ph _ => (s.barAt b.core off).ph != ph
  | _ => false

/-- The checkpoint of a block has a thread at this hold: the commit that found it there has been made. -/
def Block.keptAt (b : Block) (wp m : Nat) (h : Hold) : Bool :=
  match b.ckpt.bind (fun ws => (ws[wp]?).bind (fun w => w.threads[m]?)) with
  | some c => c.hold == some h
  | none => false

/-- The step has something to do: a thread at COMMIT, or in a protected block one at a BAR or GBAR at which no commit has found it yet, or at a BAR whose
phase has flipped. -/
def State.commitDue (s : State) (b : Block) : Bool :=
  b.atCommit && b.warps.zipIdx.any (fun w => w.1.threads.zipIdx.any (fun t => t.1.live && (match t.1.hold with
    | some .commit => true
    | some h => b.prot != 0 && (s.barOpen b h || !b.keptAt w.2 t.2 h)
    | none => false)))

/-- One bit of CRC-64/ECMA-182 (R367). -/
def crcBit (c : DWord) : DWord := if c.msb then (c <<< 1) ^^^ 0x42F0E1EBA9EA3693 else c <<< 1
/-- The CRC of bytes, from a starting value. -/
def crc64 (c : DWord) (bs : List Byte) : DWord :=
  bs.foldl (fun c b => crcBit (crcBit (crcBit (crcBit (crcBit (crcBit (crcBit (crcBit (c ^^^ ((b.setWidth 64 : DWord) <<< 56)))))))))) c

/-- What a held operation contributes to the signature (R367). -/
def HeldOp.sig (h : HeldOp) : List Byte :=
  leBytes 1 h.kind ++ leBytes 1 h.size ++ leBytes 1 h.tid ++ leBytes 5 0 ++ leBytes 8 h.va.toNat ++ h.data ++
    List.replicate ((8 - h.data.length % 8) % 8) 0

/-- The signature of an interval: ascending tid, each thread's operations in program order. -/
def Block.signature (b : Block) : DWord :=
  crc64 0 (((List.range 256).map (fun t => ((b.held.filter (fun h => h.tid == t)).map HeldOp.sig).flatten)).flatten)

/-- A held operation is performed. -/
def State.performHeld (s : State) (blk : Nat) (h : HeldOp) : State :=
  match h.act with
  | .store o => s.perform ⟨blk, h.tid / 32, h.tid % 32⟩ o
  | .req r => s.serveReq r
  | .rel _ => s

/-- The interval's held operations become visible, in program order, then each held release takes effect (R199). -/
def State.performAll (s : State) (blk : Nat) : State :=
  match s.block? blk with
  | none => s
  | some b =>
    let s := s.updBlock blk (fun b => { b with held := [] })
    let s := b.held.foldl (fun s h => s.performHeld blk h) s
    b.held.foldl (fun s h => match h.act with | .rel obj => s.releaseObj blk obj | _ => s) s

/-- The state of a thread as its checkpoint keeps it: past its COMMIT or its flipped BAR (R361, log entry 22). -/
def State.ckptThread (s : State) (b : Block) (th : Thread) : Thread :=
  match th.hold with
  | some .commit => { th.unheld with fixed := 0 }
  | some h => if s.barOpen b h then { th.unheld with fixed := 0 } else { th with fixed := 0 }
  | none => { th with fixed := 0 }

/-- The commit step of one copy: performed by the primary only, then the checkpoint, and the interval's marks are cleared (R361). Under P0
it only lets the COMMIT threads go on. -/
def State.commitStep (s : State) (blk : Nat) : State :=
  match s.block? blk with
  | none => s
  | some b =>
    let s := if b.prot ≠ 0 ∧ b.primary then s.performAll blk else s
    let warps := b.warps.map (fun w => { w with threads := w.threads.map (fun th =>
      if b.prot = 0 then (match th.hold with | some .commit => th.unheld | _ => th) else s.ckptThread b th) })
    (s.loftGive b.ctx (coreDie b.core) b.spare).updBlock blk (fun b => { b with
      warps := warps, held := [], journal := [], jcount := 0, fixed := false, reexec := false, fixlog := [], epoch := b.epoch + 1, spare := 0,
      badShadow := false, ckpt := if b.prot = 0 then none else some warps })

/-! ## Ending and killing a block -/

/-- Loft that a block holds for its threads: what they have reserved, and what they gave back in a protected interval. -/
def Block.threadLoft (b : Block) : Nat := warpsLoft b.warps + b.spare

/-- Loft a saved block's thread state takes: 20 KiB a warp (log entry 23). -/
def saveLoft (b : Block) : Nat := 20480 * b.warps.length

/-- The block leaves the device: objects released, waits withdrawn, loft given back, its slot in a group unmapped (R153, R180). -/
def State.freeBlock (s : State) (blk : Nat) : State :=
  match s.block? blk with
  | none => s
  | some b =>
    let s := (s.withdraw blk).releaseAll blk
    let s := s.loftGive b.ctx (coreDie b.core)
      (b.loftSize + commitArea b.prot b.warps.length + b.threadLoft + (if b.saved.isSome then saveLoft b else 0))
    { s with blocks := Tab.del s.blocks blk, issues := dropBlock blk s.issues }

/-- Tile programs a block forked that have not ended; a twin's are its primary's (R366). -/
def State.forked (s : State) (blk : Nat) : Bool :=
  let k := s.holder blk
  s.clusters.any (fun p => p.2.tileQ.any (fun r => r.t.blk == k) || (match p.2.tile with | some r => r.t.blk == k | none => false))

/-- A timeline's operation has ended: its completed value is the largest number up to which all have (R193). -/
def Timeline.finish (t : Timeline) (n : Nat) : Timeline :=
  let late := n :: t.late
  let done := (List.range late.length).foldl (fun d _ => if late.contains (d + 1) then d + 1 else d) t.done
  { t with done := done, late := late.filter (fun k => decide (done < k)) }

/-- The operation with number n of an engine ends. -/
def State.tlFinish (s : State) (c eng n : Nat) : State :=
  s.updCluster c (fun k => { k with tls := k.tls.setIfInBounds eng ((k.tl eng).finish n) })

/-- Tile programs whose status is kept (R251). -/
def tileKeep : Nat := 256

/-- Pending records of a cluster's tile program become resolved (R350). -/
def resolveTile (c : Nat) (k : Ctx) : Ctx :=
  { k with seqs := k.seqs.map (fun p => if p.2.qrec.unit = FUnit.tile c ∧ p.2.state = 1 then (p.1, { p.2 with state := 2 }) else p) }

/-- The running tile program of a cluster ends with a state, a cause and its k0; a killed one once the MAT operations it issued have
completed (R245, R248, R250). -/
def State.tileEnd (s : State) (c state cause : Nat) : State :=
  match (s.cluster c).tile with
  | none => s
  | some r =>
    let s := s.matFlush c
    let ovf := match (s.cluster c).tile with | some r => r.ovf | none => false
    let (ctx, core) := match s.block? r.t.blk with | some b => (b.ctx, b.core) | none => (0, 4 * c)
    let s := s.updCluster c (fun k => { k with
      tile := none, tileStat := keepStat tileKeep (k.tl 2).issued k.tileStat r.num ⟨state, cause, ovf⟩,
      tileK0 := Tab.put 0 k.tileK0 r.num (if state = 3 then 0 else r.th.rw 0) })
    let s := { s with issues := s.issues.filter (fun i => i.who != Agent.tile c) }
    ((s.updCtx ctx (resolveTile c)).tlFinish c 2 r.num).phHere ctx core ⟨0, 0, -1, 0, 0⟩

/-- Tile programs of a block are killed, queued or running (R248). -/
def State.killTiles (s : State) (blk : Nat) : State :=
  (s.clusters.map (fun p => p.1)).foldl (fun s c =>
    let q := (s.cluster c).tileQ.filter (fun r => r.t.blk == blk)
    let s := s.updCluster c (fun k => { k with
      tileQ := k.tileQ.filter (fun r => r.t.blk != blk),
      tileStat := q.foldl (fun t r => keepStat tileKeep (k.tl 2).issued t r.num ⟨3, 0, false⟩) k.tileStat })
    let s := q.foldl (fun s r => s.tlFinish c 2 r.num) s
    match (s.cluster c).tile with
    | some r => if r.t.blk = blk then s.tileEnd c 3 0 else s
    | none => s) s

/-- Pending records of a block's threads become resolved (R350). -/
def resolveBlock (blk : Nat) (c : Ctx) : Ctx :=
  { c with seqs := c.seqs.map (fun p => match p.2.qrec.unit with
      | .thread t => if t.blk = blk ∧ p.2.state = 1 then (p.1, { p.2 with state := 2 }) else p
      | _ => p) }

/-- One copy of a block is killed (R180, R350): its held operations are discarded, and so are stores that are not yet performed (log entry 88); its objects
are released, and it is counted FAILED. `cause` is
for the records of an item warp's items, each of which is reported (R364). -/
def State.killOne (s : State) (blk : Nat) (cause : Nat) : State :=
  match s.block? blk with
  | none => s
  | some b =>
    let s := s.killTiles blk
    let s := s.updBlock blk (fun b => { b with held := [] })
    let s := s.updCtx b.ctx (resolveBlock blk)
    let live : List (Nat × Thread) :=
      (b.warps.zipIdx.map (fun w => (w.1.threads.zipIdx.filter (fun t => t.1.live)).map (fun t => (32 * w.2 + t.2, t.1)))).flatten
    let s := match b.kind with
      | .item => live.foldl (fun (s : State) (p : Nat × Thread) =>
          let s := (s.launchDown b.lid).markFailed b.lid
          if p.2.stop.isSome then s else s.report b.ctx ⟨cause, 0, 0, 32, p.1, b.lid, b.idx, 0, 0⟩ .report) s
      | _ => if b.primary then
          ((s.launchDown b.lid).markFailed b.lid).updLaunch b.lid (fun l => { l with bads := b.idx :: l.bads })
        else s
    s.freeBlock blk

/-- A block is killed, with its twin under P2. -/
def State.killBlock (s : State) (blk : Nat) (cause : Nat) : State :=
  match s.block? blk with
  | none => s
  | some b => match b.twin with
    | some k => (s.killOne blk cause).killOne k cause
    | none => s.killOne blk cause

/-! ## Rollback (R363, R364, R368) -/

/-- Old values of the journal written back, newest first. -/
def State.unjournal (s : State) (blk : Nat) (b : Block) : State :=
  b.journal.reverse.foldl (fun s j =>
    if j.loft then s.updBlock blk (fun b => { b with loft := b.loft.setAll (atKeys j.addr (leBytes 4 j.old.toNat)) })
    else s.scrWrite (atKeys j.addr (leBytes 4 j.old.toNat))) s

/-- One copy goes back to its last commit. Operations in flight complete and what they owe is discarded. Loft that its threads have reserved since is
given back (log entry 68). -/
def State.rollOne (s : State) (blk : Nat) : State :=
  match s.block? blk with
  | none => s
  | some b =>
    let s := s.serveAll (fun r => r.parts.any (fun p => p.t.blk == blk))
    let s := (s.withdraw blk).unjournal blk b
    let ws := b.ckpt.getD b.warps
    let s := (s.loftGive b.ctx (coreDie b.core) (b.threadLoft - warpsLoft ws)).updBlock blk (fun b => { b with
      held := [], journal := [], jcount := 0, reexec := true, rb := none, fixlog := [], stopAt := [], spare := 0, warps := ws })
    { s with issues := dropBlock blk s.issues }

/-- A consumed error or a mismatch in a protected block: it rolls back with a record, or is killed when its interval is fixed or already
re-executed, or its shadow bank holds an error (R369); both copies under P2. `r` is the record of the access that consumed the error (Table 16-1). -/
def State.rollback (s : State) (blk : Nat) (r : FRec) : State :=
  match s.block? blk with
  | none => s
  | some b =>
    let both := match b.twin with | some k => [blk, k] | none => [blk]
    let bad := both.any (fun k => match s.block? k with | some b => b.fixed || b.reexec || b.badShadow | none => false)
    let rec0 : FRec := { r with flags := r.flags + if bad then 32 else 16 }
    if bad then (s.report b.ctx rec0 .report).killBlock blk r.cause
    else (both.foldl (fun s k => s.rollOne k) s).report b.ctx rec0 .report

/-- The commit of a block and its twin: signatures first under P2 (R361, R368). -/
def State.commitBlock (s : State) (blk : Nat) : State :=
  match s.block? blk with
  | none => s
  | some b =>
    match b.twin.bind (fun k => (s.block? k).map (fun o => (k, o))) with
    | none => s.commitStep blk
    | some (k, o) => if b.signature = o.signature then (s.commitStep blk).commitStep k else s.rollback blk ⟨0x11, 0, 0, 0, 0, b.lid, b.idx, 0, 0⟩

/-! ## The end of a block -/

/-- A block ends: its final commit, its writes performed, and it leaves (R30, R358). A mismatch at its end rolls it back instead. -/
def State.endBlock (s : State) (blk : Nat) : State :=
  let s := s.commitBlock blk
  match s.block? blk with
  | none => s
  | some b =>
    if !b.allOut then s
    else
      let key := if b.primary then blk else b.twin.getD blk
      let s := s.settleBlock key
      let s := match b.kind with
        | .kernel | .task => s.launchDown b.lid
        | _ => s
      match b.twin with
      | some k => (s.freeBlock blk).freeBlock k
      | none => s.freeBlock blk

/-! ## Saving and moving (R374 to R376) -/

/-- A block may be saved or moved now. -/
def State.movable (s : State) (blk : Nat) (b : Block) : Bool :=
  b.atCommit && !b.allOut && !s.forked blk && b.kind != .pair && b.kind != .handler &&
    (match b.twin.bind s.block? with | some o => o.atCommit && !o.allOut | none => true)

/-- The region of a block as bytes of its core's scratchpad that are not zero, by offset in the region. -/
def State.regionCells (s : State) (core base size : Nat) : List (Nat × Byte) :=
  (s.scr.filter (fun p => decide (scrKey core base ≤ p.1) && decide (p.1 < scrKey core base + size))).map (fun p => (p.1 - scrKey core base, p.2))

/-- The block's loft moves to another die, if it fits there. -/
def State.moveLoft (s : State) (b : Block) (core : Nat) : Option State :=
  let n := b.loftSize + commitArea b.prot b.warps.length + b.threadLoft
  if coreDie core = coreDie b.core then some s
  else (s.loftTake b.ctx (coreDie core) n).map (fun s => s.loftGive b.ctx (coreDie b.core) n)

/-- What a block's region holds, from the scratchpad, or from the save area for a saved block. -/
def State.regionBytes (s : State) (b : Block) : List (Nat × Byte) :=
  match b.saved, Tab.find s.ctxs b.ctx with
  | some off, some c =>
    ((List.range b.scrSize).map (fun i => (i, s.mem.byte (c.save.toNat + off + i)))).filter (fun (p : Nat × Byte) => p.2 != 0)
  | _, _ => s.regionCells b.core b.scrBase b.scrSize

/-- A core has room for a block at the same offsets, no Silo load is copying on its die (R393), and its twin is on another cluster (R366). -/
def State.roomAt (s : State) (core : Nat) (b : Block) : Bool :=
  decide (core < 1024) && decide ((s.onCore core).length < 8) &&
    decide (((s.onCore core).map Block.slices).sum + b.slices ≤ 8) &&
    !(s.regions core).any (fun r => overlaps r.1 r.2 b.scrBase b.scrSize) && (s.cluster (coreCluster core)).healthy && s.dieOpen (coreDie core) &&
    (match b.twin.bind s.block? with | some o => o.saved.isSome || coreCluster o.core != coreCluster core | none => true)

/-- Poisoned granules of a block's region, by offset in it, on its core or in the save area (R369). -/
def State.regionPoison (s : State) (b : Block) : List Nat :=
  (List.range ((b.scrSize + 7) / 8)).filter (fun i => match s.savedKey b (b.scrBase + 8 * i) with
    | some k => s.memBad ((List.range 8).map (fun j => k + j))
    | none => s.scrBad [scrKey b.core (b.scrBase + 8 * i)])

/-- The poison of a core's scratchpad range. -/
def inRegion (core base size g : Nat) : Bool :=
  g % 2 == 1 && decide (scrKey core base ≤ g / 2 * 8) && decide (g / 2 * 8 < scrKey core base + size)

/-- A block that may be moved is copied to another core at the same offsets (Table 16-12), its commit first; it leaves its sharing group, and its old
core keeps a forwarding entry (R376). A saved block is restored so, and its launch is no victim from then on. A block that its commit has taken back
stays where it is (R368, R375). -/
def State.moveBlock (s : State) (blk core : Nat) : State :=
  match s.block? blk with
  | none => s
  | some b0 =>
    if !(s.roomAt core b0) || !(b0.saved.isSome || s.movable blk b0) then s
    else
      let s := if b0.saved.isSome then s else s.commitBlock blk
      match s.block? blk with
      | none => s
      | some b =>
        if b0.saved.isNone && b.epoch == b0.epoch then s
        else
          match s.moveLoft b core with
          | none => s
          | some s =>
            let cells : List (Nat × Byte) := (s.regionBytes b).map (fun (p : Nat × Byte) => (scrKey core b.scrBase + p.1, p.2))
            let bad := (s.regionPoison b).map (fun i => 2 * ((scrKey core b.scrBase + 8 * i) / 8) + 1)
            let scr : Memory := clearRange s.scr (scrKey core b.scrBase) b.scrSize
            let s := { s with scr := scr.setAll cells, poison := s.poison.filter (fun g => !inRegion core b.scrBase b.scrSize g) ++ bad }
            let s := if b.saved.isSome then
                (s.loftGive b.ctx (coreDie b.core) (saveLoft b)).updLaunch b.lid (fun l => { l with victim := false })
              else s
            { (s.updBlock blk (fun b => { b with core := core, group := none, saved := none })).onDie b.lid (coreDie core) with
              fwds := s.fwds ++ [Forward.mk blk b.core (s.clk.toNat + 1000000) b.issued] }

/-- One copy of a block is saved: its region with its poison goes to the save area, behind what is saved there. -/
def State.saveOne (s : State) (blk : Nat) : State :=
  match s.block? blk with
  | none => s
  | some b =>
    match Tab.find s.ctxs b.ctx with
    | none => s
    | some c =>
      let ends := s.blocks.map (fun (p : Nat × Block) => if p.2.ctx = b.ctx then (match p.2.saved with | some o => o + p.2.scrSize | none => 0) else 0)
      let off := ends.foldl max 0
      let bad := (s.regionPoison b).map (fun i => 2 * ((c.save.toNat + off + 8 * i) / 8))
      let t := s.memWrite (atKeys (c.save.toNat + off) (s.scr.bytes (scrKey b.core b.scrBase) b.scrSize))
      { t.updBlock blk (fun b => { b with saved := some off, group := none }) with poison := t.poison ++ bad.filter (fun g => !t.poison.contains g) }

/-- Loft for the thread state of some blocks, if it fits. -/
def State.saveTake (s : State) (ks : List Nat) : Option State :=
  ks.foldl (fun (a : Option State) k => a.bind (fun s => match s.block? k with
    | none => some s
    | some b => s.loftTake b.ctx (coreDie b.core) (saveLoft b))) (some s)

/-- It is given back. -/
def State.saveGive (s : State) (ks : List Nat) : State :=
  ks.foldl (fun s k => match s.block? k with
    | none => s
    | some b => s.loftGive b.ctx (coreDie b.core) (saveLoft b)) s

/-- A block and its twin. -/
def State.copies (s : State) (blk : Nat) : List Nat :=
  match (s.block? blk).bind (fun b => b.twin) with
  | some k => [blk, k]
  | none => [blk]

/-- A block of a pre-emption victim that may be saved, after its commit: the thread state of its copies goes to the loft, their regions to the save area
(R366, R374). -/
def State.saveBlock (s : State) (blk : Nat) : State :=
  match s.block? blk with
  | none => s
  | some b0 =>
    if b0.grid then s
    else
      let s := s.updLaunch b0.lid (fun l => { l with victim := true })
      if !(s.movable blk b0) || b0.saved.isSome then s
      else
        let ks := s.copies blk
        match s.saveTake ks with
        | none => s
        | some t =>
          let t := t.commitBlock blk
          match t.block? blk with
          | none => t
          | some b => if b.epoch = b0.epoch then t.saveGive ks else ks.foldl State.saveOne t

/-! ## Events of a block (R355, R357) -/

/-- EVPEND as it reads: bit 4 follows the fault queue, bits above 5 read 0. -/
def State.evpend (s : State) (b : Block) : Word :=
  let fq := match Tab.find s.ctxs b.ctx with | some c => !c.queue.isEmpty | none => false
  (b.evpend &&& 0x2F) ||| (if fq then 0x10 else 0)

/-- Bits of EVPEND set in the blocks that satisfy a test. -/
def State.setEvents (s : State) (test : Block → Bool) (bits : Word) : State :=
  { s with blocks := s.blocks.map (fun p => if test p.2 then (p.1, { p.2 with evpend := p.2.evpend ||| bits }) else p) }

/-- WAITEV ends in a thread: D = EVPEND & B, and HOST and ERR are cleared when it returns them. -/
def State.waitevEnd (s : State) (t : TRef) (mask : Word) (d slot : Nat) (wbs : Bool) : State :=
  match s.block? t.blk with
  | none => s
  | some b =>
    let v := s.evpend b &&& mask
    let s := s.updBlock t.blk (fun b => { b with evpend := b.evpend &&& ~~~(v &&& 0x21) })
    (s.updThread t Thread.unheld).oweTo t slot true (toW wbs (BitVec.ofNat 7 d) [v])

/-! ## What a cancel does to a block (R180, R336) -/

/-- Waits that a cancel ends (R180). -/
def Hold.cut : Hold → Bool
  | .acq _ _ | .bar _ _ _ | .gbar _ | .swwait _ _ | .tlwait _ _ _ | .phset _ _ _ _ | .phwait _ => true
  | _ => false

/-- A thread's wait that a cancel ends is over. -/
def Thread.cut (th : Thread) : Thread := match th.hold with
  | some h => if h.cut then th.unheld else th
  | none => th

/-- A cancel ends a thread's wait, one for events with what has come (R180, R357). -/
def State.endWait (s : State) (t : TRef) : State :=
  match (s.thread? t).bind (fun th => th.hold) with
  | some (.waitev mask d slot wbs) => s.waitevEnd t mask d slot wbs
  | _ => s.updThread t Thread.cut

/-- Every such wait of a block ends, also as its checkpoint has it; an ACQ's request is withdrawn. -/
def State.endWaits (s : State) (blk : Nat) : State :=
  match s.block? blk with
  | none => s
  | some b => ((b.trefs blk).foldl State.endWait (s.withdraw blk)).updBlock blk (fun b =>
      { b with ckpt := b.ckpt.map (fun ws => ws.map (fun w => { w with threads := w.threads.map Thread.cut })) })

/-- The cause of a stopped thread of a block. -/
def Block.stopCause (b : Block) : Option Nat :=
  (b.warps.findSome? (fun w => w.threads.findSome? (fun th => if th.live then th.stop else none))).map Stop.cause

/-- A block has something that a cancel can stop: a live thread, or a tile program (R30, R248). -/
def State.stoppable (s : State) (blk : Nat) : Bool :=
  s.forked blk || (s.copies blk).any (fun k => match s.block? k with
    | some b => b.warps.any (fun w => w.threads.any (fun th => th.live))
    | none => false)

/-- A cancel reaches a running block: its tile programs are killed (R248), its waits end, and it is killed when a thread of it is stopped (R350).
Both copies of a twinned block are reached; one of which nothing is left to stop is not (R30). -/
def State.cutBlock (s : State) (blk : Nat) : State :=
  match s.block? blk with
  | none => s
  | some b =>
    if !s.stoppable blk then s
    else
      let both := s.copies blk
      let s := both.foldl (fun s k => (s.updBlock k (fun b => { b with evpend := b.evpend ||| 4 })).killTiles k) s
      let s := s.updLaunch b.lid (fun l => { l with cuts := if l.cuts.contains b.idx then l.cuts else b.idx :: l.cuts })
      match both.findSome? (fun k => (s.block? k).bind Block.stopCause) with
      | some c => s.killBlock blk c
      | none => both.foldl (fun s k => s.endWaits k) s

/-- The running blocks of a launch that a cancel of it reaches. -/
def State.cutList (s : State) (lid : Nat) : List Nat :=
  (s.blocks.filter (fun p => p.2.lid == lid && p.2.primary && p.2.kind != .handler)).map (fun p => p.1)

end Sys2Proof.Machine
end

