-- ==== Sys2Proof/Machine/Engine.lean ====
section
/-!
DEFINITION. Engine accesses to memory and scratchpad, and the copy engine (R163 to R166).
-/

namespace Sys2Proof.Machine

/-! ## Engine accesses -/

/-- An engine's translation, on the page table as it stands: the key of the byte and the leaf. -/
def State.engLeaf (s : State) (ctx : Nat) (a : Access) (va : DWord) : Except FInfo (Nat × DWord) :=
  match (Tab.find s.ctxs ctx).bind (fun c => (walk s.mem c.root va).map (fun e => (c, e))) with
  | none => .error (.acc 0x07 va a)
  | some (c, e) =>
    let pa := pteBase e.pte + (va.toNat - e.base)
    if inRange s.mem c (pteLoc e.pte) pa then .ok (memKey (pteLoc e.pte) pa, e.pte) else .error (.acc 0x07 va a)

/-- One page part of an engine's access: the checks of R139, and R369 for what the walk reads and the peer table holds. -/
def State.engPart (s : State) (ctx blk : Nat) (w : Want) (va : DWord) (n : Nat) : Except FInfo (Nat × DWord) :=
  if s.walkBad ctx va then .error (.acc 0x10 va w.acc) else
  match s.engLeaf ctx w.acc va with
  | .error x => .error x
  | .ok (k, pte) =>
    if !permitted pte w.acc w.atom then .error (.acc 0x08 va w.acc)
    else if !w.fmt pte then .error (.acc 0x09 va w.acc)
    else if w.bound && w.acc.writes && s.unheld ctx blk va n then .error (.acc 0x0B va w.acc)
    else if pteLoc pte == 3 && s.peerBad ctx (k - memKey 3 0) then .error (.acc 0x10 va w.acc)
    else .ok (k, pte)

/-- The parts in ascending order: the first key, the length and the leaf of each. -/
def State.engParts (s : State) (ctx blk : Nat) (w : Want) : List (DWord × Nat) → Except FInfo (List (Nat × Nat × DWord))
  | [] => .ok []
  | (va, n) :: ps =>
    match s.engPart ctx blk w va n with
    | .error e => .error e
    | .ok (k, pte) =>
      match s.engParts ctx blk w ps with
      | .error e => .error e
      | .ok rs => .ok ((k, n, pte) :: rs)

/-- An engine's access of n bytes, alignment first. -/
def State.engAccess (s : State) (ctx blk : Nat) (w : Want) (align : Nat) (va : DWord) (n : Nat) : Except FInfo (List (Nat × Nat × DWord)) :=
  if va.toNat % align ≠ 0 then .error (.acc 0x06 va w.acc)
  else if n = 0 then .ok []
  else s.engParts ctx blk w (frames (n / 65536 + 2) va n)

/-- The keys of checked parts. -/
def partKeys (ps : List (Nat × Nat × DWord)) : List Nat := (ps.map (fun p => (List.range p.2.1).map (fun i => p.1 + i))).flatten

/-- Bytes an engine reads for a block. An uncorrectable error in them is consumed (R369). -/
def State.engRead (s : State) (ctx blk : Nat) (w : Want) (align : Nat) (va : DWord) (n : Nat) : Except FInfo (List Byte) :=
  match s.engAccess ctx blk w align va n with
  | .error e => .error e
  | .ok ps =>
    let keys := partKeys ps
    if s.memBad keys then .error (.acc 0x10 va .read)
    else
      let m := s.heldView blk
      .ok (keys.map m.byte)

/-- Bytes written to checked parts. What goes to a LOC 3 page goes as a message (log entry 24). -/
def State.engPut (s : State) (ctx core : Nat) (t : TRef) : List (Nat × Nat × DWord) → List Byte → State
  | [], _ => s
  | (k, n, pte) :: ps, bs =>
    let s := if pteLoc pte = 3 then s.sendPeer ctx core [t] (k - memKey 3 0) (bs.take n) else s.engMem t.blk (atKeys k (bs.take n))
    s.engPut ctx core t ps (bs.drop n)

/-- Bytes written by an engine: every page is checked, then the bytes are stored. -/
def State.engWrite (s : State) (ctx core : Nat) (t : TRef) (w : Want) (align : Nat) (va : DWord) (bs : List Byte) : Except FInfo State :=
  match s.engAccess ctx t.blk w align va bs.length with
  | .error e => .error e
  | .ok ps => .ok (s.engPut ctx core t ps bs)

/-- The core on which an engine finds the region of a command's block: where the block is now (R376), or where it was at issue. -/
def State.homeCore (s : State) (blk core : Nat) : Nat := match s.block? blk with | some b => b.core | none => core

/-- Formats a byte copy may reach: all but BIN, SYNC, the reserved one, and BFP with the reserved geometry (R163). -/
def fmtCopy (pte : DWord) : Bool := decide (pteFmt pte ≤ 12) && !(isBfp (pteFmt pte) && pteGeo pte == 3)

/-! ## Copy commands (R163 to R166) -/

/-- The bytes of n scratchpad bytes for an engine. -/
def State.engScrRead (s : State) (blk core off n : Nat) : Except FInfo (List Byte) :=
  match s.engScrBytes blk core off n with
  | none => .error (.of 0x10)
  | some bs => .ok bs

/-- A cluster-offset range of a command resolved to a core and offset (R152): the block must be a member, the slot must have one. -/
def State.engMember (s : State) (blk off n : Nat) (write : Bool) : Except FInfo (Nat × Nat) :=
  match s.block? blk with
  | none => .error (.local 0x1C write)
  | some b =>
    if 2 ^ 22 ≤ off then .error (.local 0x08 write)
    else
      match b.group.bind (fun g => s.member b g.1 (off / 2 ^ 18)) with
      | none => .error (.local 0x1C write)
      | some k => if k.scrSize < off % 2 ^ 18 + n then .error (.local 0x08 write) else .ok (k.core, k.scrBase + off % 2 ^ 18)

/-- The bytes of several spans from an address, in order. -/
def State.engSpans (s : State) (ctx blk : Nat) (w : Want) (va : DWord) : List (Nat × Nat) → Except FInfo (List Byte)
  | [] => .ok []
  | (o, n) :: ps =>
    match s.engRead ctx blk w 1 (va + BitVec.ofNat 64 o) n with
    | .error f => .error f
    | .ok bs =>
      match s.engSpans ctx blk w va ps with
      | .error f => .error f
      | .ok cs => .ok (bs ++ cs)

/-- Element i from a base, read by an engine: the base's page as for LDE (R139, R145, R163, log entry 15), then the element's bytes. -/
def elemRead (s : State) (ctx blk : Nat) (base : DWord) (i : Nat) : Except FInfo NumVal :=
  match s.engLeaf ctx .read base with
  | .error x => .error x
  | .ok (_, pte) =>
    if fmtElem pte ∧ base.toNat % baseAlign (pteFmt pte) ≠ 0 then .error (.acc 0x06 base .read)
    else if !permitted pte .read false then .error (.acc 0x08 base .read)
    else if !fmtElem pte then .error (.acc 0x09 base .read)
    else
      let x := elemAt pte base i
      match s.engSpans ctx blk ⟨.read, false, sameFmt pte, false⟩ x.va (elemSpans false x) with
      | .error f => .error f
      | .ok bs => .ok (elemNum x bs)

/-- Elements i to i + n - 1 from a base, as bf16 bytes (R146). -/
def State.elemRow (s : State) (ctx blk : Nat) (base : DWord) : Nat → Nat → Except FInfo (List Byte)
  | _, 0 => .ok []
  | i, n + 1 =>
    match elemRead s ctx blk base i with
    | .error f => .error f
    | .ok v =>
      match s.elemRow ctx blk base (i + 1) n with
      | .error f => .error f
      | .ok bs => .ok (leBytes 2 (fmtBf16.round .rn v) ++ bs)

/-- Row r of a command's source, as the bytes of its destination row. -/
def State.copySrc (s : State) (k : CopyCmd) (r : Nat) : Except FInfo (List Byte) :=
  let blk := k.t.blk
  let a := cwAddr k.w0
  let len := cwLen k.w2
  if cwOp k.w3 = 1 then s.elemRow k.ctx blk (BitVec.ofNat 64 a) (cwSpitch k.w2 * r) len
  else
    let at_ := a + 16 * cwSpitch k.w2 * r
    match cwKind k.w0 with
    | 0 => s.engRead k.ctx blk ⟨.read, false, fmtCopy, false⟩ 1 (BitVec.ofNat 64 at_) len
    | 1 => s.engScrRead blk (s.homeCore blk k.core) at_ len
    | _ =>
      match s.engMember blk at_ len false with
      | .error f => .error f
      | .ok (core, off) => s.engScrRead blk core off len

/-- What a command's destination pages must be. -/
def copyWant (k : CopyCmd) : Want := ⟨.write, false, if cwOp k.w3 = 1 then fmtRaw else fmtCopy, true⟩

/-- The first address of a destination row. -/
def CopyCmd.dst (k : CopyCmd) (r : Nat) : Nat := cwAddr k.w1 + 16 * cwDpitch k.w2 * r

/-- One destination row written. -/
def State.copyDst (s : State) (k : CopyCmd) (r : Nat) (bs : List Byte) : Except FInfo State :=
  let blk := k.t.blk
  let at_ := k.dst r
  match cwKind k.w1 with
  | 0 => s.engWrite k.ctx (s.homeCore blk k.core) k.t (copyWant k) 1 (BitVec.ofNat 64 at_) bs
  | 1 => .ok (s.engScr blk (s.homeCore blk k.core) at_ bs)
  | _ =>
    match s.engMember blk at_ bs.length true with
    | .error f => .error f
    | .ok (core, off) => .ok (s.engScr blk core off bs)

/-- Rows from r on, each read wholly before it is written; what was written before a failure remains (R163, R164). -/
def State.copyRows (k : CopyCmd) : Nat → Nat → State → State × Option FInfo
  | 0, _, s => (s, none)
  | n + 1, r, s =>
    match s.copySrc k r with
    | .error f => (s, some f)
    | .ok bs =>
      match s.copyDst k r bs with
      | .error f => (s, some f)
      | .ok s => State.copyRows k n (r + 1) s

/-- A tile header before a base address: its key, checked as 16 aligned bytes of a RAW page (R165). An uncorrectable error in the version is consumed
(R369). -/
def State.tileHdr (s : State) (k : CopyCmd) (a : Access) (base : Nat) : Except FInfo Nat :=
  let va := BitVec.ofNat 64 base - 16
  match s.engAccess k.ctx k.t.blk ⟨a, false, fmtRaw, true⟩ 16 va 16 with
  | .error f => .error f
  | .ok ps => match ps with
    | [] => .error (.acc 0x07 va a)
    | (key, _, _) :: _ => if s.memBad [key] then .error (.acc 0x10 va a) else .ok key

/-- The header of an all-or-nothing destination, which is read and written (R165). -/
def State.tileDst (s : State) (k : CopyCmd) : Except FInfo Nat := s.tileHdr k .rw (cwAddr k.w1)

/-- The version at a tile header, as a block's engine sees it. -/
def State.version (s : State) (blk key : Nat) : DWord := entryAt (s.heldView blk) key

/-- All rows of the source (AON, step 2). -/
def State.copyAll (s : State) (k : CopyCmd) : Nat → Nat → Except FInfo (List (List Byte))
  | 0, _ => .ok []
  | n + 1, r =>
    match s.copySrc k r with
    | .error f => .error f
    | .ok bs => match s.copyAll k n (r + 1) with
      | .error f => .error f
      | .ok rs => .ok (bs :: rs)

/-- Every destination page translated and checked (AON, step 1): the parts of each row. -/
def State.copyChecks (s : State) (k : CopyCmd) : Nat → Nat → Except FInfo (List (List (Nat × Nat × DWord)))
  | 0, _ => .ok []
  | n + 1, r =>
    match s.engAccess k.ctx k.t.blk (copyWant k) 1 (BitVec.ofNat 64 (k.dst r)) (cwDstRow k.w2 k.w3) with
    | .error f => .error f
    | .ok ps => match s.copyChecks k n (r + 1) with
      | .error f => .error f
      | .ok rs => .ok (ps :: rs)

/-- What failed an operation, of a fault. -/
def FInfo.fail (f : FInfo) : Fail := ⟨f.cause, f.va, f.wr⟩

/-- The rows of an all-or-nothing command are written where its checks of step 1 have found them (R165, step 4). -/
def State.copyTile (s : State) (k : CopyCmd) (rows : List (List Byte)) : State :=
  match k.dest with
  | none => s
  | some d => (d.2.zip rows).foldl (fun s p => s.engPut k.ctx (s.homeCore k.t.blk k.core) k.t p.1 p.2) s

/-- The version of a tile set. -/
def State.setVersion (s : State) (blk key : Nat) (v : DWord) : State := s.engMem blk (atKeys key (leBytes 8 v.toNat))

/-- AON, step 3: the version goes from an even v to v + 1; an odd one is waited for, and an uncorrectable error in it is consumed (R369). -/
def State.copyLock (s : State) (k : CopyCmd) (key : Nat) (rows : List (List Byte)) : State × CopyStage :=
  if s.memBad [key] then (s, .done (some ⟨0x10, some (BitVec.ofNat 64 (cwAddr k.w1) - 16), true⟩))
  else
    let v := s.version k.t.blk key
    if v.getLsbD 0 then (s, .lock key rows) else (s.setVersion k.t.blk key (v + 1), .write key v rows)

/-- The source is read and written: rows one by one, or, all or nothing, the whole source first (R163, R165). The stage after it is `next` of the rows
that an all-or-nothing command has read. -/
def State.copyMain (s : State) (k : CopyCmd) (next : State → List (List Byte) → State × CopyStage) : State × CopyStage :=
  if cwAon k.w3 then
    match s.copyAll k (cwRows k.w2) 0 with
    | .error f => (s, .done (some f.fail))
    | .ok rows => next s rows
  else
    match State.copyRows k (cwRows k.w2) 0 s with
    | (s, some f) => (s, .done (some f.fail))
    | (s, none) => next s []

/-- What follows the copy: an all-or-nothing command takes its destination's version, any other has ended. -/
def State.copyOut (s : State) (k : CopyCmd) (rows : List (List Byte)) : State × CopyStage :=
  match k.dest with
  | some d => s.copyLock k d.1 rows
  | none => (s, .done none)

/-- VCHK, step 1: an odd version is waited for, an even one recorded. A command without VCHK copies at once. -/
def State.copyIn (s : State) (k : CopyCmd) : State × CopyStage :=
  if cwVchk k.w3 then
    match s.tileHdr k .read (cwAddr k.w0) with
    | .error f => (s, .done (some f.fail))
    | .ok key => let v := s.version k.t.blk key; if v.getLsbD 0 then (s, .wait) else (s, .read key v)
  else s.copyMain k (fun s rows => s.copyOut k rows)

/-- AON, step 1: the tile header and every destination page, before anything else. The command keeps what it has checked (log entry 65). -/
def State.copyCheck (s : State) (k : CopyCmd) : Except FInfo CopyCmd :=
  if cwAon k.w3 then
    match s.tileDst k with
    | .error f => .error f
    | .ok key =>
      match s.copyChecks k (cwRows k.w2) 0 with
      | .error f => .error f
      | .ok rows => .ok { k with dest := some (key, rows) }
  else .ok k

/-- The command goes on as it is. -/
def keeps (k : CopyCmd) (r : State × CopyStage) : State × CopyCmd × CopyStage := (r.1, k, r.2)

/-- A command's first stage. -/
def State.copyStart (s : State) (k : CopyCmd) : State × CopyCmd × CopyStage :=
  match s.copyCheck k with
  | .error f => (s, k, .done (some f.fail))
  | .ok k => keeps k (s.copyIn k)

/-- The command in execution goes one stage on (R163, R165). -/
def State.copyStep (s : State) (k : CopyCmd) : CopyStage → State × CopyCmd × CopyStage
  | .start => s.copyStart k
  | .wait => keeps k (s.copyIn k)
  | .read key v0 => keeps k (s.copyMain k (fun s rows => (s, .again key v0 rows)))
  | .again key v0 rows => keeps k (if s.version k.t.blk key = v0 then s.copyOut k rows else (s, .wait))
  | .lock key rows => keeps k (s.copyLock k key rows)
  | .write key v rows => (s.copyTile k rows, k, .unlock key v)
  | .unlock key v => (s.setVersion k.t.blk key (v + 2), k, .done none)
  | .done f => (s, k, .done f)

/-- A record of this engine still waits for the fault queue (R346). -/
def State.enginePosting (s : State) (c eng : Nat) : Bool := s.ctxs.any (fun p => p.2.waiting.any (fun q => q.unit == .engine c eng))

/-- COPY_COMMAND_EXECUTE: the oldest queued command leaves the queue, is running, and takes its first stage; the command in execution takes its next
one (R162, R163, R165). -/
def execCopyCommandExecute (c : Nat) (s : State) : Host.Outcome State Fault Refusal :=
  let k := s.cluster c
  match k.ceRun, k.ceQ with
  | some (cmd, st), _ =>
    let r := s.copyStep cmd st
    .next (r.1.updCluster c (fun k => { k with ceRun := some r.2 }))
  | none, cmd :: rest =>
    if s.enginePosting c 0 then .next s
    else
      let r := s.copyStart cmd
      .next (r.1.updCluster c (fun k => { k with
        ceQ := rest, ceRun := some r.2, ceStat := keepStat copyKeep (k.tl 0).issued k.ceStat cmd.num ⟨1, 0, false⟩ }))
  | none, [] => .next s

/-- The update of a sync word by a number of bytes (R166): count and generation after it. -/
def syncAdd (target count gen n : Nat) : Nat × Nat :=
  let c := (count + n) % 2 ^ 32
  if target = 0 then (c, gen) else (c % target, (gen + c / target) % 2 ^ 32)

/-- A sync word takes a completed command's bytes; none where it holds an uncorrectable error (R369). -/
def State.syncUpdate (s : State) (blk core off n : Nat) : Option State :=
  (s.engScrBytes blk core off 12).map fun bs =>
    let w (i : Nat) : Nat := leVal ((bs.drop (4 * i)).take 4)
    let r := syncAdd (w 0) (w 1) (w 2) n
    s.engScr blk core (off + 4) (leBytes 4 r.1 ++ leBytes 4 r.2)

/-- A command that has copied everything updates the sync word that it names (R166). -/
def State.copySync (s : State) (k : CopyCmd) : State × Option Fail :=
  if cwSync k.w3 then
    match s.syncUpdate k.t.blk (s.homeCore k.t.blk k.core) (cwSyncoff k.w3) (cwRows k.w2 * cwDstRow k.w2 k.w3) with
    | some s => (s, none)
    | none => (s, some ⟨0x10, none, false⟩)
  else (s, none)

/-- COPY_COMMAND_COMPLETE: the sync word, the state, the timeline and the phase's ENG count; or the failure's record (R164, R166). -/
def execCopyCommandComplete (c : Nat) (s : State) : Host.Outcome State Fault Refusal :=
  match (s.cluster c).ceRun with
  | some (k, .done f) =>
    let core := s.homeCore k.t.blk k.core
    let r : State × Option Fail := match f with
      | none => s.copySync k
      | some x => (s, some x)
    let st : Stat := match r.2 with
      | none => ⟨2, 0, false⟩
      | some x => ⟨3, x.cause, false⟩
    let s := match r.2 with
      | none => r.1
      | some x => r.1.engineReport k.ctx 3 k.t x.cause x.va x.wr k.num (.engine c 0)
    let s := s.updCluster c (fun q => { q with ceRun := none, ceStat := keepStat copyKeep (q.tl 0).issued q.ceStat k.num st })
    .next ((s.tlFinish c 0 k.num).phHere k.ctx core ⟨0, 0, -1, 0, 0⟩)
  | _ => .next s

end Sys2Proof.Machine
end

