-- ==== Sys2Proof/Machine/Float.lean ====
section
/-!
DEFINITION. GEN floating-point instructions (R117 to R123): each computes exactly and rounds once.
-/

namespace Sys2Proof.Machine

/-! ## Arithmetic (R118) -/

def faddV (m : Mode) (a b : Word) : Word := toF32 m (NumVal.add m.isDown (f32 a) (f32 b))
def fsubV (m : Mode) (a b : Word) : Word := toF32 m (NumVal.add m.isDown (f32 a) (f32 b).neg)
def fmulV (m : Mode) (a b : Word) : Word := toF32 m (NumVal.mul (f32 a) (f32 b))
/-- The product is not rounded. -/
def ffmaV (m : Mode) (a b d : Word) : Word := toF32 m (NumVal.add m.isDown (NumVal.mul (f32 a) (f32 b)) (f32 d))

def execFadd (f : FmtA) (s : State) : Host.Outcome State Fault Refusal := alu2 .fadd f (faddV .rn) s
def execFaddRz (f : FmtA) (s : State) : Host.Outcome State Fault Refusal := alu2 .faddRz f (faddV .rz) s
def execFaddRu (f : FmtA) (s : State) : Host.Outcome State Fault Refusal := alu2 .faddRu f (faddV .ru) s
def execFaddRd (f : FmtA) (s : State) : Host.Outcome State Fault Refusal := alu2 .faddRd f (faddV .rd) s
def execFsub (f : FmtA) (s : State) : Host.Outcome State Fault Refusal := alu2 .fsub f (fsubV .rn) s
def execFsubRz (f : FmtA) (s : State) : Host.Outcome State Fault Refusal := alu2 .fsubRz f (fsubV .rz) s
def execFsubRu (f : FmtA) (s : State) : Host.Outcome State Fault Refusal := alu2 .fsubRu f (fsubV .ru) s
def execFsubRd (f : FmtA) (s : State) : Host.Outcome State Fault Refusal := alu2 .fsubRd f (fsubV .rd) s
def execFmul (f : FmtA) (s : State) : Host.Outcome State Fault Refusal := alu2 .fmul f (fmulV .rn) s
def execFmulRz (f : FmtA) (s : State) : Host.Outcome State Fault Refusal := alu2 .fmulRz f (fmulV .rz) s
def execFmulRu (f : FmtA) (s : State) : Host.Outcome State Fault Refusal := alu2 .fmulRu f (fmulV .ru) s
def execFmulRd (f : FmtA) (s : State) : Host.Outcome State Fault Refusal := alu2 .fmulRd f (fmulV .rd) s
def execFfma (f : FmtA) (s : State) : Host.Outcome State Fault Refusal := alu3 .ffma f (ffmaV .rn) s
def execFfmaRz (f : FmtA) (s : State) : Host.Outcome State Fault Refusal := alu3 .ffmaRz f (ffmaV .rz) s
def execFfmaRu (f : FmtA) (s : State) : Host.Outcome State Fault Refusal := alu3 .ffmaRu f (ffmaV .ru) s
def execFfmaRd (f : FmtA) (s : State) : Host.Outcome State Fault Refusal := alu3 .ffmaRd f (ffmaV .rd) s

/-! ## Minimum, maximum and compares (R119, R120) -/

/-- The order of R119 on non-NaN values: by value, -0 below +0. -/
def belowZ (a b : NumVal) : Bool :=
  NumVal.lt a b || (match a, b with
    | .fin true 0 _, .fin false 0 _ => true
    | _, _ => false)

/-- Minimum or maximum: `num` takes the other input for a NaN (Table 4-4). -/
def fminmaxV (max num : Bool) (a b : Word) : Word :=
  let x := f32 a
  let y := f32 b
  match x.isNan, y.isNan with
  | true, true => nanF32
  | true, false => if num then b else nanF32
  | false, true => if num then a else nanF32
  | false, false => if belowZ x y == max then b else a

def execFmin (f : FmtA) (s : State) : Host.Outcome State Fault Refusal := alu2 .fmin f (fminmaxV false false) s
def execFmax (f : FmtA) (s : State) : Host.Outcome State Fault Refusal := alu2 .fmax f (fminmaxV true false) s
def execFminnum (f : FmtA) (s : State) : Host.Outcome State Fault Refusal := alu2 .fminnum f (fminmaxV false true) s
def execFmaxnum (f : FmtA) (s : State) : Host.Outcome State Fault Refusal := alu2 .fmaxnum f (fminmaxV true true) s

def execFcmpEq (f : FmtA) (s : State) : Host.Outcome State Fault Refusal := cmp2 .fcmpEq f (fun a b => feq (f32 a) (f32 b)) s
def execFcmpLt (f : FmtA) (s : State) : Host.Outcome State Fault Refusal := cmp2 .fcmpLt f (fun a b => NumVal.lt (f32 a) (f32 b)) s
def execFcmpLe (f : FmtA) (s : State) : Host.Outcome State Fault Refusal := cmp2 .fcmpLe f (fun a b => fle (f32 a) (f32 b)) s
def execFcmpUn (f : FmtA) (s : State) : Host.Outcome State Fault Refusal := cmp2 .fcmpUn f (fun a b => funord (f32 a) (f32 b)) s

/-! ## Two halves (R122) -/

/-- A bf16x2 operation, each half on its own, rounded once. -/
def halves (v : Nat → NumVal) : Word := packHalves (fmtBf16.round .rn (v 0)) (fmtBf16.round .rn (v 1))

def execHadd2 (f : FmtA) (s : State) : Host.Outcome State Fault Refusal :=
  alu2 .hadd2 f (fun a b => halves (fun h => NumVal.add false (bf16 a h) (bf16 b h))) s
def execHsub2 (f : FmtA) (s : State) : Host.Outcome State Fault Refusal :=
  alu2 .hsub2 f (fun a b => halves (fun h => NumVal.add false (bf16 a h) (bf16 b h).neg)) s
def execHmul2 (f : FmtA) (s : State) : Host.Outcome State Fault Refusal :=
  alu2 .hmul2 f (fun a b => halves (fun h => NumVal.mul (bf16 a h) (bf16 b h))) s
def execHfma2 (f : FmtA) (s : State) : Host.Outcome State Fault Refusal :=
  alu3 .hfma2 f (fun a b d => halves (fun h => NumVal.add false (NumVal.mul (bf16 a h) (bf16 b h)) (bf16 d h))) s

/-! ## Signs and classes (R121) -/

def fabsV (a : Word) : Word := if (f32 a).isNan then nanF32 else a &&& 0x7FFFFFFF
def fnegV (a : Word) : Word := if (f32 a).isNan then nanF32 else a ^^^ 0x80000000
def fcpsgnV (a b : Word) : Word := if (f32 a).isNan then nanF32 else (a &&& 0x7FFFFFFF) ||| (b &&& 0x80000000)

def execFabs (f : FmtA) (s : State) : Host.Outcome State Fault Refusal := alu1 .fabs f fabsV s
def execFneg (f : FmtA) (s : State) : Host.Outcome State Fault Refusal := alu1 .fneg f fnegV s
def execFcpsgn (f : FmtA) (s : State) : Host.Outcome State Fault Refusal := alu2 .fcpsgn f fcpsgnV s
def execFclass (f : FmtA) (s : State) : Host.Outcome State Fault Refusal := alu1 .fclass f (fun a => BitVec.twoPow 32 (fclassOf a)) s

/-! ## Conversions (R123) -/

/-- An f32 rounded to bf16. -/
def toBf16 (m : Mode) (a : Word) : Nat := fmtBf16.round m (f32 a)

/-- A word with byte k replaced. -/
def setByte (d : Word) (k v : Nat) : Word :=
  (d &&& ~~~((0xFF : Word) <<< (8 * k))) ||| (BitVec.ofNat 32 (v % 256) <<< (8 * k))

/-- Byte k of a word, as a value of a format, widened to f32 exactly. -/
def widenByte (fmt : FloatFmt) (a : Word) (k : Nat) : Word := toF32 .rn (fmt.decode (a.toNat / 2 ^ (8 * k) % 256))

/-- The stochastic mode of a participant of a collective conversion: its neighbours' discarded bits, inactive ones 0 (R111). -/
def srMode (fmt : FloatFmt) (f : FmtA) (g : List Env) (e : Env) : Mode :=
  let d (m : Nat) : Nat := byIndex g m 0 (fun x => fmt.discarded (f32 (x.a f)))
  .sr (srFraction (d ((e.m + 31) % 32)) (d ((e.m + 1) % 32)) e.m)

def execCvtBf16F32 (f : FmtA) (s : State) : Host.Outcome State Fault Refusal :=
  alu1 .cvtBf16F32 f (fun a => BitVec.ofNat 32 (toBf16 .rn a)) s
def execCvtBf16F32Sr (f : FmtA) (s : State) : Host.Outcome State Fault Refusal :=
  groupStep .cvtBf16F32Sr (.a f) (fun g => genW f (fun e => BitVec.ofNat 32 (toBf16 (srMode fmtBf16 f g e) (e.a f)))) s
def execCvtF32Bf16 (f : FmtA) (s : State) : Host.Outcome State Fault Refusal :=
  alu2 .cvtF32Bf16 f (fun a b => toF32 .rn (bf16 a (b.toNat % 2))) s
def execCvtF32I32 (f : FmtA) (s : State) : Host.Outcome State Fault Refusal := alu1 .cvtF32I32 f (fun a => toF32 .rn (intNum (sx a))) s
def execCvtI32F32RzSat (f : FmtA) (s : State) : Host.Outcome State Fault Refusal :=
  alu1 .cvtI32F32RzSat f (fun a => BitVec.ofInt 32 (clampInt .rz (-2147483648) 2147483647 (f32 a))) s
def execCvtI32F32Sat (f : FmtA) (s : State) : Host.Outcome State Fault Refusal :=
  alu1 .cvtI32F32Sat f (fun a => BitVec.ofInt 32 (clampInt .rn (-2147483648) 2147483647 (f32 a))) s
def execCvtF32N32 (f : FmtA) (s : State) : Host.Outcome State Fault Refusal := alu1 .cvtF32N32 f (fun a => toF32 .rn (intNum (zx a))) s
def execCvtN32F32RzSat (f : FmtA) (s : State) : Host.Outcome State Fault Refusal :=
  alu1 .cvtN32F32RzSat f (fun a => BitVec.ofInt 32 (clampInt .rz 0 4294967295 (f32 a))) s

/-- A byte-merging conversion (R123). -/
def mergeByte (op : Op) (fmt : FloatFmt) (f : FmtA) (mode : List Env → Env → Mode) (s : State) : Host.Outcome State Fault Refusal :=
  groupStep op (.a f) (fun g => genW f (fun e => setByte (e.d f.d) ((e.b f).toNat % 4) (fmt.round (mode g e) (f32 (e.a f))))) s

def execCvtE4m3 (f : FmtA) (s : State) : Host.Outcome State Fault Refusal := mergeByte .cvtE4m3 fmtE4m3 f (fun _ _ => .rn) s
def execCvtE4m3Sr (f : FmtA) (s : State) : Host.Outcome State Fault Refusal := mergeByte .cvtE4m3Sr fmtE4m3 f (srMode fmtE4m3 f) s
def execCvtE5m2 (f : FmtA) (s : State) : Host.Outcome State Fault Refusal := mergeByte .cvtE5m2 fmtE5m2 f (fun _ _ => .rn) s
def execCvtE5m2Sr (f : FmtA) (s : State) : Host.Outcome State Fault Refusal := mergeByte .cvtE5m2Sr fmtE5m2 f (srMode fmtE5m2 f) s
def execCvtF32E4m3 (f : FmtA) (s : State) : Host.Outcome State Fault Refusal :=
  alu2 .cvtF32E4m3 f (fun a b => widenByte fmtE4m3 a (b.toNat % 4)) s
def execCvtF32E5m2 (f : FmtA) (s : State) : Host.Outcome State Fault Refusal :=
  alu2 .cvtF32E5m2 f (fun a b => widenByte fmtE5m2 a (b.toNat % 4)) s
def execPack2 (f : FmtA) (s : State) : Host.Outcome State Fault Refusal :=
  alu2 .pack2 f (fun a b => packHalves (toBf16 .rn a) (toBf16 .rn b)) s

end Sys2Proof.Machine
end

