-- ==== Sys2Proof/Machine/Xu.lean ====
section
/-!
DEFINITION. XU functions, each correctly rounded (R124, R125), the q registers (R126 to R128), lane exchange and ranking (R96 to R100), and
the generator (R129). A function value is enclosed between two integers at a working precision; when both ends round to one f32 that is
the result, else the precision doubles (log entry 10).
-/

namespace Sys2Proof.Machine

/-! ## Exact quotients and roots -/

/-- The integer square root, by bits from 2^k down. -/
def isqrtBits (n : Nat) : Nat → Nat → Nat
  | 0, r => if (r + 1) * (r + 1) ≤ n then r + 1 else r
  | k + 1, r => isqrtBits n k (if (r + 2 ^ (k + 1)) * (r + 2 ^ (k + 1)) ≤ n then r + 2 ^ (k + 1) else r)

/-- The largest r with r × r ≤ n, for n below 2^256. -/
def isqrt (n : Nat) : Nat := isqrtBits n 127 0

/-- A truncated value with one bit below it that is set when something was cut off: it rounds as the exact value does. -/
def stickyNum (neg : Bool) (m : Nat) (e : Int) (cut : Bool) : NumVal := .fin neg (2 * m + (if cut then 1 else 0)) (e - 1)

/-- A / B rounded once (FDIV, FRCP). -/
def fdivN (a b : NumVal) : Word :=
  match a, b with
  | .nan, _ => nanF32
  | _, .nan => nanF32
  | .inf _, .inf _ => nanF32
  | .inf s, .fin t _ _ => toF32 .rn (.inf (s != t))
  | .fin s _ _, .inf t => toF32 .rn (.fin (s != t) 0 0)
  | .fin s m e, .fin t n f =>
    if n = 0 then (if m = 0 then nanF32 else toF32 .rn (.inf (s != t)))
    else
      let x := m * 2 ^ 64
      toF32 .rn (stickyNum (s != t) (x / n) (e - f - 64) (decide (x % n ≠ 0)))

/-- √A rounded once. -/
def fsqrtN (a : NumVal) : Word :=
  match a with
  | .nan => nanF32
  | .inf s => if s then nanF32 else toF32 .rn (.inf false)
  | .fin s 0 _ => toF32 .rn (.fin s 0 0)
  | .fin true _ _ => nanF32
  | .fin false m e =>
    let k : Nat := if e % 2 = 0 then 64 else 65
    let x := m * 2 ^ k
    let r := isqrt x
    toF32 .rn (stickyNum false r ((e - k) / 2) (decide (r * r ≠ x)))

/-- 1 / √A rounded once. -/
def frsqN (a : NumVal) : Word :=
  match a with
  | .nan => nanF32
  | .inf s => if s then nanF32 else 0
  | .fin s 0 _ => toF32 .rn (.inf s)
  | .fin true _ _ => nanF32
  | .fin false m e =>
    let k : Nat := if e % 2 = 0 then 160 else 161
    let q := 2 ^ k / m
    let r := isqrt q
    toF32 .rn (stickyNum false r ((-e - k) / 2) (decide (r * r * m ≠ 2 ^ k)))

/-! ## Enclosures -/

/-- What both ends of [v - err, v + err] × 2^e round to, when they agree. -/
def enclose (neg : Bool) (v err : Nat) (e : Int) : Option Word :=
  let lo := toF32 .rn (.fin neg (v - err) e)
  let hi := toF32 .rn (.fin neg (v + err) e)
  if lo = hi then some lo else none

/-- The precision doubles until an enclosure settles; the last resort is the middle of the last one. -/
def refine (f : Nat → Bool × Nat × Int) (err : Nat) : Nat → Nat → Word
  | 0, p => let r := f p; toF32 .rn (.fin r.1 r.2.1 r.2.2)
  | fuel + 1, p =>
    let r := f p
    (enclose r.1 r.2.1 err r.2.2).getD (refine f err fuel (2 * p))

/-- Units in the last place that bound the error of the sums below. -/
def xuErr : Nat := 2 ^ 20

/-- Σ over k of 1 / (k × 2^k): ln 2 at precision p. -/
def ln2At (p : Nat) : Nat := (List.range p).foldl (fun s k => s + 2 ^ (p - (k + 1)) / (k + 1)) 0

/-- atan(1 / n) at precision p, by the alternating series. -/
def atanInv (n p : Nat) : Int :=
  (List.range (p / 4 + 1)).foldl (fun (s : Int) k =>
    let t : Int := ((2 ^ p / n ^ (2 * k + 1) / (2 * k + 1) : Nat) : Int)
    if k % 2 = 0 then s + t else s - t) 0

/-- π at precision p. -/
def piAt (p : Nat) : Nat := (16 * atanInv 5 p - 4 * atanInv 239 p).toNat

/-- The Taylor terms t^n / n! at precision p, from a start term, summed with a sign rule. -/
def taylor (t p : Nat) (alt : Bool) (stride : Nat) : Nat → Nat → Nat → Int → Int
  | 0, _, _, acc => acc
  | fuel + 1, n, term, acc =>
    let acc := if alt && (n / stride) % 2 = 1 then acc - (term : Int) else acc + (term : Int)
    let next := (List.range stride).foldl (fun x i => x * t / 2 ^ p / (n + i + 1)) term
    taylor t p alt stride fuel (n + stride) next acc

/-- e^t for t in [0, 1), as integers at precision p. -/
def expFrac (t p : Nat) : Nat := (taylor t p false 1 (p / 2 + 8) 0 (2 ^ p) 0).toNat
/-- sin t and cos t for t in [0, 2). -/
def sinFrac (t p : Nat) : Int := taylor t p true 2 (p / 4 + 8) 1 t 0
def cosFrac (t p : Nat) : Int := taylor t p true 2 (p / 4 + 8) 0 (2 ^ p) 0

/-- A value m × 2^e as a fixed-point integer at precision p, rounded down. -/
def fixAt (m : Nat) (e : Int) (p : Nat) : Nat :=
  let q := e + p
  if 0 ≤ q then m * 2 ^ q.toNat else m / 2 ^ (-q).toNat

/-- 2^(k + t) for t in [0, 1) at precision p. -/
def exp2At (k : Int) (t p : Nat) : Bool × Nat × Int := (false, expFrac (t * ln2At p / 2 ^ p) p, k - p)

/-- 2^A (FEXP2): exact at an integer. -/
def fexp2N (a : NumVal) : Word :=
  match a with
  | .nan => nanF32
  | .inf s => if s then 0 else toF32 .rn (.inf false)
  | .fin s m e =>
    if NumVal.lt (.fin false 512 0) (.fin false m e) then (if s then 0 else toF32 .rn (.inf false))
    else
      let x := signInt s (fixAt m e 160)
      let k := x / 2 ^ 160
      let t := (x % 2 ^ 160).toNat
      if t = 0 then toF32 .rn (.fin false 1 k)
      else refine (fun p => exp2At k (fixAt t (-160) p) p) xuErr 3 192

/-- e^A (FEXP). -/
def fexpN (a : NumVal) : Word :=
  match a with
  | .nan => nanF32
  | .inf s => if s then 0 else toF32 .rn (.inf false)
  | .fin s m e =>
    if m = 0 then 0x3F800000
    else if NumVal.lt (.fin false 512 0) (.fin false m e) then (if s then 0 else toF32 .rn (.inf false))
    else
      refine (fun p =>
        let y := signInt s (fixAt m e (p + 16) * 2 ^ p / ln2At p)
        let k := y / 2 ^ (p + 16)
        exp2At k ((y % 2 ^ (p + 16)).toNat / 2 ^ 16) p) xuErr 3 192

/-- ln of v / 2^p for v in [2^p, 2^(p + 1)): twice the inverse hyperbolic tangent of (v - 1) / (v + 1). -/
def lnAt (v p : Nat) : Nat :=
  let z := (v - 2 ^ p) * 2 ^ p / (v + 2 ^ p)
  let z2 := z * z / 2 ^ p
  let r := (List.range (p / 3 + 4)).foldl (fun (acc : Nat × Nat) k => (acc.1 + acc.2 / (2 * k + 1), acc.2 * z2 / 2 ^ p)) (0, z)
  2 * r.1

/-- log2 A (FLOG2): exact at a power of two. -/
def flog2N (a : NumVal) : Word :=
  match a with
  | .nan => nanF32
  | .inf s => if s then nanF32 else toF32 .rn (.inf false)
  | .fin _ 0 _ => toF32 .rn (.inf true)
  | .fin true _ _ => nanF32
  | .fin false m e =>
    let l := bitLen m - 1
    let k : Int := e + l
    if m = 2 ^ l then toF32 .rn (intNum k)
    else
      refine (fun p =>
        let x : Int := k * 2 ^ p + ((lnAt (fixAt m (-(l : Int)) p) p * 2 ^ p / ln2At p : Nat) : Int)
        (decide (x < 0), x.natAbs, -(p : Int))) xuErr 3 192

/-- tanh A (FTANH). -/
def ftanhN (a : NumVal) : Word :=
  match a with
  | .nan => nanF32
  | .inf s => toF32 .rn (.fin s 1 0)
  | .fin s 0 _ => toF32 .rn (.fin s 0 0)
  | .fin s m e =>
    if NumVal.lt (.fin false 32 0) (.fin false m e) then toF32 .rn (.fin s 1 0)
    else
      refine (fun p =>
        let q := p + 64
        let y := fixAt m (e + 1) q * 2 ^ q / ln2At q
        let k := y / 2 ^ q
        let x := expFrac (y % 2 ^ q * ln2At q / 2 ^ q) q * 2 ^ k
        (s, (x - 2 ^ q) * 2 ^ p / (x + 2 ^ q), -(p : Int))) xuErr 3 224

/-- The quadrant of A and the rest of the reduction by π/2, at precision p: exact over the whole range, since π is taken to 192 more
bits (R124). -/
def reduceAt (m : Nat) (e : Int) (p : Nat) : Nat × Nat :=
  let q := p + 192
  let half := piAt q / 2
  let x := fixAt m e q
  (x / half % 4, x % half / 2 ^ 192)

/-- sin or cos of |A| at precision p: the quadrant gives the function and the sign. -/
def sincosAt (cos : Bool) (m : Nat) (e : Int) (p : Nat) : Bool × Nat × Int :=
  let r := reduceAt m e p
  let k := (r.1 + if cos then 1 else 0) % 4
  let v := if k % 2 = 0 then sinFrac r.2 p else cosFrac r.2 p
  (decide (2 ≤ k) != decide (v < 0), v.natAbs, -(p : Int))

def fsinN (a : NumVal) : Word :=
  match a with
  | .nan => nanF32
  | .inf _ => nanF32
  | .fin s 0 _ => toF32 .rn (.fin s 0 0)
  | .fin s m e => refine (fun p => let r := sincosAt false m e p; (s != r.1, r.2)) xuErr 3 224

def fcosN (a : NumVal) : Word :=
  match a with
  | .nan => nanF32
  | .inf _ => nanF32
  | .fin _ 0 _ => 0x3F800000
  | .fin _ m e => refine (fun p => sincosAt true m e p) xuErr 3 224

/-- A one-input XU function. -/
def xu1 (op : Op) (f : FmtA) (v : NumVal → Word) (s : State) : Host.Outcome State Fault Refusal :=
  laneStep op (.a f) (longRegs (fun _ e => toW f.wbs f.d [v (f32 (e.a f))])) s

def execFrcp (f : FmtA) (s : State) : Host.Outcome State Fault Refusal := xu1 .frcp f (fun a => fdivN (.fin false 1 0) a) s
def execFrsq (f : FmtA) (s : State) : Host.Outcome State Fault Refusal := xu1 .frsq f frsqN s
def execFsqrt (f : FmtA) (s : State) : Host.Outcome State Fault Refusal := xu1 .fsqrt f fsqrtN s
def execFdiv (f : FmtA) (s : State) : Host.Outcome State Fault Refusal :=
  laneStep .fdiv (.a f) (longRegs (fun _ e => toW f.wbs f.d [fdivN (f32 (e.a f)) (f32 (e.b f))])) s
def execFexp2 (f : FmtA) (s : State) : Host.Outcome State Fault Refusal := xu1 .fexp2 f fexp2N s
def execFlog2 (f : FmtA) (s : State) : Host.Outcome State Fault Refusal := xu1 .flog2 f flog2N s
def execFexp (f : FmtA) (s : State) : Host.Outcome State Fault Refusal := xu1 .fexp f fexpN s
def execFtanh (f : FmtA) (s : State) : Host.Outcome State Fault Refusal := xu1 .ftanh f ftanhN s
def execFsin (f : FmtA) (s : State) : Host.Outcome State Fault Refusal := xu1 .fsin f fsinN s
def execFcos (f : FmtA) (s : State) : Host.Outcome State Fault Refusal := xu1 .fcos f fcosN s
def execFsincos (f : FmtA) (s : State) : Host.Outcome State Fault Refusal :=
  laneStep .fsincos (.a f) (longRegs (fun _ e => toW f.wbs f.d [fsinN (f32 (e.a f)), fcosN (f32 (e.a f))])) s

/-! ## q registers (R126, R127) -/

/-- The q register that D[1:0] or A[1:0] names. A thread's instructions on one q take effect in program order, since a q still owed is waited
for (R38, R128). -/
def Env.qD (e : Env) (f : FmtA) : QReg := e.th.rq (f.d.toNat % 4)
def Env.qA (e : Env) (f : FmtA) : QReg := e.th.rq (f.a.toNat % 4)
/-- The window of a q register. -/
def QReg.w (q : QReg) : Int := q.win.toInt
/-- A contribution at a q register's window. -/
def QReg.contrib (q : QReg) (v : NumVal) : QReg := { q with bits := contribute q.bits q.w v }

/-- A q instruction that writes the q that D names. -/
def qOp (op : Op) (f : FmtA) (v : Env → QReg → QReg) (s : State) : Host.Outcome State Fault Refusal :=
  laneStep op (.a f) (longRegs (fun _ e => toQ f.wbs f.d (v e (e.qD f)))) s

def execQclr (f : FmtA) (s : State) : Host.Outcome State Fault Refusal := qOp .qclr f (fun _ q => { q with bits := 0 }) s
def execQaddf (f : FmtA) (s : State) : Host.Outcome State Fault Refusal := qOp .qaddf f (fun e q => q.contrib (f32 (e.a f))) s
def execQdot2 (f : FmtA) (s : State) : Host.Outcome State Fault Refusal :=
  qOp .qdot2 f (fun e q => (q.contrib (NumVal.mul (bf16 (e.a f) 0) (bf16 (e.b f) 0))).contrib (NumVal.mul (bf16 (e.a f) 1) (bf16 (e.b f) 1))) s
def execQsubf (f : FmtA) (s : State) : Host.Outcome State Fault Refusal := qOp .qsubf f (fun e q => q.contrib (f32 (e.a f)).neg) s
def execQrnd (f : FmtA) (s : State) : Host.Outcome State Fault Refusal :=
  laneStep .qrnd (.a f) (longRegs (fun _ e => toW f.wbs f.d [drainF32 (e.qA f).bits (e.qA f).w])) s
def execQrndh (f : FmtA) (s : State) : Host.Outcome State Fault Refusal :=
  laneStep .qrndh (.a f) (longRegs (fun _ e => toW f.wbs f.d [packHalves (drainBf16 (e.qA f).bits (e.qA f).w) 0])) s
def execQwin (f : FmtA) (s : State) : Host.Outcome State Fault Refusal :=
  laneStep .qwin (.a f) (fun s e =>
    if winOk (sx (e.a f)) then longRegs (fun _ e => toQ f.wbs f.d ⟨0, BitVec.ofInt 8 (sx (e.a f))⟩) s e
    else (s, .fault (.of 0x03))) s

/-- A q collective: all windows must be equal, or every participant raises operand (0x03) (R127). -/
def qColl (op : Op) (f : FmtA) (take : List Env → Env → List Env) (s : State) : Host.Outcome State Fault Refusal :=
  groupStep op (.a f) (fun g s e =>
    if g.any (fun x => (x.qD f).win != ((leadOf g e).qD f).win) then (s, .fault (.of 0x03))
    else longRegs (fun _ e => toQ f.wbs f.d
      { e.qD f with bits := ((take g e).map (fun x => (x.qD f).bits)).foldl binCombine 0 }) s e) s

def execQred (f : FmtA) (s : State) : Host.Outcome State Fault Refusal := qColl .qred f (fun g _ => g) s
def execQscan (f : FmtA) (s : State) : Host.Outcome State Fault Refusal := qColl .qscan f (fun g e => g.filter (fun x => decide (x.m ≤ e.m))) s

/-- The four words of a bin, lowest first. -/
def binWords (b : BinBits) : List Word := [b.extractLsb' 0 32, b.extractLsb' 32 32, b.extractLsb' 64 32, b.extractLsb' 96 32]
/-- Four words as a bin, bits [127:124] cleared. -/
def wordsBin (a b c d : Word) : BinBits := binClean (d ++ c ++ b ++ a)

def execQsave (f : FmtA) (s : State) : Host.Outcome State Fault Refusal :=
  laneStep .qsave (.a f) (longRegs (fun _ e => toW f.wbs f.d (binWords (e.qA f).bits))) s
def execQload (f : FmtA) (s : State) : Host.Outcome State Fault Refusal :=
  qOp .qload f (fun e q => { q with bits := wordsBin (e.th.rw f.a.toNat) (e.th.rw (f.a.toNat + 1)) (e.th.rw (f.a.toNat + 2)) (e.th.rw (f.a.toNat + 3)) }) s

/-! ## Lane exchange and ranking (R96 to R100) -/

/-- A collective whose result is owed. -/
def collLong (op : Op) (f : FmtA) (v : List Env → Env → Word) (s : State) : Host.Outcome State Fault Refusal :=
  groupStep op (.a f) (fun g => longRegs (fun _ e => toW f.wbs f.d [v g e])) s

/-- SWAP1 completes within its pass and pushes no latch (R96). -/
def execSwap1 (f : FmtA) (s : State) : Host.Outcome State Fault Refusal :=
  groupStep .swap1 (.a f) (fun g s e => (s.updLane e.lane (fun th => th.puts (toW f.wbs f.d [byIndex g (e.m ^^^ 1) 0 (fun x => x.a f)])), .stay)) s
def execShfl (f : FmtA) (s : State) : Host.Outcome State Fault Refusal :=
  collLong .shfl f (fun g e => byIndex g ((e.b f).toNat % 32) 0 (fun x => x.a f)) s
def execShflx (f : FmtA) (s : State) : Host.Outcome State Fault Refusal :=
  collLong .shflx f (fun g e => byIndex g (e.m ^^^ ((e.b f).toNat % 32)) 0 (fun x => x.a f)) s
def execScan (f : FmtA) (s : State) : Host.Outcome State Fault Refusal :=
  collLong .scan f (fun g e => ((g.filter (fun x => decide (x.m ≤ e.m))).map (fun x => x.a f)).foldl (· + ·) 0) s

/-- RANKF's order: descending by value, every NaN last (R99). -/
def aboveF (a b : Word) : Bool := if (f32 a).isNan then false else if (f32 b).isNan then true else NumVal.lt (f32 b) (f32 a)
/-- RANKI's order: descending as i32. -/
def aboveI (a b : Word) : Bool := ltI b a

/-- The position of a participant: how many stand before it, equal values by tid (R99). -/
def rankOf (above : Word → Word → Bool) (f : FmtA) (g : List Env) (e : Env) : Word :=
  BitVec.ofNat 32 (g.filter (fun x => above (x.a f) (e.a f) || (!above (e.a f) (x.a f) && decide (x.m < e.m)))).length

def execRankf (f : FmtA) (s : State) : Host.Outcome State Fault Refusal := collLong .rankf f (rankOf aboveF f) s
def execRanki (f : FmtA) (s : State) : Host.Outcome State Fault Refusal := collLong .ranki f (rankOf aboveI f) s

/-- The greatest or least value that is not a NaN, -0 below +0; the canonical NaN when all are NaN (R100). -/
def extremeOf (max : Bool) (f : FmtA) (g : List Env) : Word :=
  match (g.map (fun x => x.a f)).filter (fun w => !(f32 w).isNan) with
  | [] => nanF32
  | w :: ws => ws.foldl (fminmaxV max true) w

def execMaxw (f : FmtA) (s : State) : Host.Outcome State Fault Refusal := collLong .maxw f (fun g _ => extremeOf true f g) s
def execMinw (f : FmtA) (s : State) : Host.Outcome State Fault Refusal := collLong .minw f (fun g _ => extremeOf false f g) s

/-! ## The generator (R129) -/

/-- The rounds of G. -/
def genRounds : Nat → Word → Word → Word
  | 0, _, x => x
  | n + 1, k, x =>
    let x := (x ^^^ k) * 0x85EBCA6B
    genRounds n (k + 0x9E3779B9) (x ^^^ (x >>> 13))

def execRnd32 (f : FmtA) (s : State) : Host.Outcome State Fault Refusal :=
  laneStep .rnd32 (.a f) (longRegs (fun _ e => toW f.wbs f.d [genRounds 4 (e.a f) (e.b f)])) s
def execRndf (f : FmtA) (s : State) : Host.Outcome State Fault Refusal :=
  laneStep .rndf (.a f) (longRegs (fun _ e => toW f.wbs f.d [toF32 .rn (.fin false (genRounds 4 (e.a f) (e.b f) >>> 8).toNat (-24))])) s

end Sys2Proof.Machine
end

