-- ==== Sys2Proof/Machine/Pairs.lean ====
section
/-!
DEFINITION. Pair launches: the descriptor and its checks, candidates and the test, homes, batches and bins, the instructions of pair threads,
drain, suspension, replay, kill and cancel (R209 to R241, R402).
-/

namespace Sys2Proof.Machine

/-! ## The descriptor (R211 to R214) -/

/-- The fields of Table 8-2 from the 128 bytes. -/
def PDesc.of (h : List Byte) : PDesc :=
  let w (o : Nat) : Word := BitVec.ofNat 32 (hdrNat h o 4)
  let d (o : Nat) : DWord := BitVec.ofNat 64 (hdrNat h o 8)
  let n (o : Nat) : Nat := hdrNat h o 4
  { recA := d 0x00, countA := n 0x08, strideA := n 0x0C, recB := d 0x10, countB := n 0x18, strideB := n 0x1C, posA := d 0x20, posB := d 0x28,
    cut := w 0x30, lx := w 0x34, ly := w 0x38, lz := w 0x3C, src := d 0x40, kind := w 0x48, geo := w 0x4C, excl := d 0x50, outA := d 0x58,
    outB := d 0x60, win := sx (w 0x68), nclus := n 0x6C, entry := d 0x70, arg := d 0x78 }

/-- The fields of Table 8-3. -/
def PDesc.source (d : PDesc) : Nat := (d.kind.extractLsb' 0 4).toNat
def PDesc.self (d : PDesc) : Bool := d.kind.getLsbD 4
def PDesc.emit (d : PDesc) : Bool := d.kind.getLsbD 5
def PDesc.useExcl (d : PDesc) : Bool := d.kind.getLsbD 6
def PDesc.notest (d : PDesc) : Bool := d.kind.getLsbD 7
def PDesc.nb (d : PDesc) : Nat := (d.kind.extractLsb' 8 4).toNat
def PDesc.binsB (d : PDesc) : Bool := d.kind.getLsbD 12
def PDesc.wrapc (d : PDesc) : Bool := d.kind.getLsbD 13
def PDesc.scr (d : PDesc) : Nat := (d.kind.extractLsb' 14 10).toNat
/-- C, the number of logical clusters. -/
def PDesc.clusters (d : PDesc) : Nat := if d.nclus = 0 then 256 else d.nclus
/-- Set B is set A (SELF, RANGE). -/
def PDesc.oneSet (d : PDesc) : Bool := d.self || d.source == 3
/-- Records of the set of j. -/
def PDesc.countJ (d : PDesc) : Nat := if d.oneSet then d.countA else d.countB
/-- A PCON may target j (R223). -/
def PDesc.jBins (d : PDesc) : Bool := d.binsB || d.oneSet

/-- A field of Table 8-4's geometry word. -/
def PDesc.g (d : PDesc) (lo n : Nat) : Nat := (d.geo.extractLsb' lo n).toNat

/-- Finite and at least 0. -/
def nonNegFinite (w : Word) : Bool :=
  match f32 w with
  | .fin neg m _ => !neg || m == 0
  | _ => false

/-- Records of a set of n homed on logical cluster c of C (R223). -/
def homed (n cs c : Nat) : Nat := ((c + 1) * n + cs - 1) / cs - (c * n + cs - 1) / cs

/-- Bins of logical cluster c (R214); EMIT reserves none (R226). -/
def PDesc.binsOf (d : PDesc) (c : Nat) : Nat :=
  if d.emit then 0
  else (homed d.countA d.clusters c + (if d.binsB then homed d.countB d.clusters c else 0)) * (d.nb + 1)

/-- The bins of every logical cluster number 65,536 at most: cluster 0 has the most, ceil(n / C) records of each set of n. -/
def PDesc.binsFit (d : PDesc) : Bool := decide (d.binsOf 0 ≤ 65536)

/-- The limits of Tables 8-2 to 8-4: whether each holds, with the least offset among the fields it involves. -/
def PDesc.limits (d : PDesc) : List (Bool × Nat) :=
  let m16 (v : DWord) : Bool := v.toNat % 16 == 0
  let stride (n : Nat) : Bool := n % 16 == 0 && decide (16 ≤ n)
  let one := d.oneSet
  [ (m16 d.recA, 0x00), (decide (d.countA < 2 ^ 31), 0x08), (stride d.strideA, 0x0C),
    (if one then d.recB == 0 else m16 d.recB, 0x10),
    (if one then d.countB == 0 else decide (d.countB < 2 ^ 31), 0x18),
    (if one then d.strideB == 0 else stride d.strideB, 0x1C),
    (m16 d.posA && (d.notest || d.posA != 0), 0x20),
    (if one then d.posB == 0 else m16 d.posB && (d.notest || d.posB != 0), 0x28),
    (d.notest || nonNegFinite d.cut, 0x30),
    (nonNegFinite d.lx, 0x34), (nonNegFinite d.ly, 0x38), (nonNegFinite d.lz, 0x3C),
    (d.src.toNat % 4 == 0 && (d.source != 4 || d.src == 0), 0x40),
    (decide (d.source ≤ 4) && decide (d.nb ≤ 7) && d.kind.extractLsb' 24 8 == 0, 0x48),
    (!(d.binsB && one), 0x48), (!(d.wrapc && d.source != 3), 0x48), (!(d.emit && d.scr != 0), 0x48),
    (d.source != 0 || (d.g 30 2 == 0 && d.g 0 10 != 0 && d.g 10 10 != 0 && d.g 20 10 != 0), 0x48),
    (d.source != 4 || d.geo == 0, 0x48),
    (m16 d.excl, 0x50), (!d.useExcl || d.excl != 0, 0x48),
    (d.outA.toNat % 4 == 0, 0x58),
    (!d.emit || (d.outB.extractLsb' 0 32 != 0 && d.outB.extractLsb' 32 32 == 0), 0x48),
    (d.emit || d.outB.toNat % 4 == 0, 0x60), (d.emit || d.binsB || d.outB == 0, 0x48),
    (winOk d.win, 0x68), (!d.emit || d.win == 0, 0x48),
    (decide (d.nclus ≤ 256), 0x6C), (!d.emit || d.entry == 0, 0x48),
    (d.binsFit, 0x08) ]

/-- The offset a broken descriptor is reported at (R214). -/
def PDesc.bad (d : PDesc) : Option Nat := ((d.limits.filter (fun l => !l.1)).map (fun l => l.2)).min?

/-- Logical clusters onto healthy ones, from the issuing cluster on in package order, round and round (R210). -/
def State.mapClusters (s : State) (c n : Nat) : List Nat :=
  let p := packageOrder.idxOf c
  let hs := (packageOrder.drop p ++ packageOrder.take p).filter (fun k => (s.cluster k).healthy)
  (List.range n).map (fun k => hs.getD (k % hs.length) c)

/-- Bins a mapping asks of a physical cluster. -/
def binsAsked (d : PDesc) (phys : List Nat) (k : Nat) : Nat := ((phys.zipIdx.filter (fun p => p.1 == k)).map (fun p => d.binsOf p.2)).sum

/-! ## Status (R236) -/

/-- Work of a pair launch is cancelled: by PCANCEL or with a level that holds it. -/
def State.pairCancelled (s : State) (l : Nat) (p : PairLaunch) : Bool := p.cancelled || s.lidCancelled l

/-- The 64 bytes of Table 8-10. -/
def statusBytes (p : PairLaunch) (state : Nat) (cancelled : Bool) (abandoned : Nat) : List Byte :=
  leBytes 4 state ++
    leBytes 4 ((if p.ovf then 1 else 0) + (if p.trunc then 2 else 0) + (if cancelled then 4 else 0) + (if p.killed then 8 else 0)) ++
    leBytes 8 p.cands ++ leBytes 8 p.items.length ++ leBytes 8 p.excluded ++ leBytes 4 p.failed.length ++ leBytes 4 p.replayed ++
    leBytes 4 abandoned ++ leBytes 4 p.dropped ++ leBytes 4 p.skipped ++ leBytes 4 p.ovfbins ++ leBytes 8 0

/-- What the Thresher's writes must reach (R402). -/
def wantRaw (a : Access) : Want := ⟨a, false, fmtRaw, true⟩
/-- RAW or F32 pages. -/
def fmtRawF32 (pte : DWord) : Bool := decide (pteFmt pte ≤ 1)

/-- Bytes the Thresher reads for a launch. -/
def State.thRead (s : State) (p : PairLaunch) (fmt : DWord → Bool) (align : Nat) (va : DWord) (n : Nat) : Except FInfo (List Byte) :=
  s.engRead p.ctx p.blk ⟨.read, false, fmt, false⟩ align va n

/-- Bytes the Thresher writes for a launch. -/
def State.thWrite (s : State) (p : PairLaunch) (fmt : DWord → Bool) (va : DWord) (bs : List Byte) : Except FInfo State :=
  s.engWrite p.ctx (4 * p.cluster) ⟨p.blk, 0, 0⟩ ⟨.write, false, fmt, true⟩ 4 va bs

/-- The status record is written. -/
def State.writeStatus (s : State) (p : PairLaunch) (state : Nat) (cancelled : Bool) (abandoned : Nat) : Except FInfo State :=
  s.thWrite p fmtRaw (p.area + 0x80) (statusBytes p state cancelled abandoned)

/-- A launch's record in the table. -/
def State.pair? (s : State) (l : Nat) : Option PairLaunch := Tab.find s.pairs l
def State.updPair (s : State) (l : Nat) (f : PairLaunch → PairLaunch) : State := { s with pairs := Tab.upd s.pairs l f }

/-- A launch goes to a state. The record is written at the change where its page takes it; only the final write must be made (R236, log
entry 26). -/
def State.pairTo (s : State) (l : Nat) (state : Nat) : State :=
  let s := s.updPair l (fun p => { p with state := state })
  match s.pair? l with
  | none => s
  | some p => match s.writeStatus p state false p.abandoned with
    | .ok s => s
    | .error _ => s

/-- A failed access of the Thresher, in the work of a logical cluster: a record that awaits FRESUME, FREPLAY or FKILL (R239). -/
def State.pairFault (s : State) (l : Nat) (p : PairLaunch) (c : Nat) (f : FInfo) : State :=
  (s.updPair l (fun p => { p with accFaults := p.accFaults ++ [c] })).report p.ctx
    ⟨f.cause, 0, 2, faultFlags f false 8, 0, l, 0, f.field, l⟩ (.pairAccess l c)

/-- A bin's record (R234, R235). -/
def State.binReport (s : State) (l : Nat) (p : PairLaunch) (cause record bin : Nat) (u : FUnit) : State :=
  s.report p.ctx ⟨cause, 0, 2, 0, 0, l, 0, 0, record * 8 + bin⟩ u

/-- The physical cluster whose Thresher does the work of a logical one; the issuing one's does that of the launch as a whole. -/
def PairLaunch.thresher (p : PairLaunch) (c : Nat) : Nat := p.phys.getD c p.cluster

/-- A record of a cluster's Thresher still waits for the fault queue, so that it starts no further operation (R346). -/
def State.thPosting (s : State) (k : Nat) : Bool :=
  s.ctxs.any (fun x => x.2.waiting.any (fun q => match q.unit with
    | .thresher j => j == k
    | .pairAccess l c => (match s.pair? l with | some p => p.thresher c == k | none => false)
    | _ => false))

/-! ## PLAUNCH and PCANCEL (R228, R229) -/

/-- A launch is accepted: its number, its id, and its place in state 0. -/
def State.acceptPair (s : State) (e : Env) (area : DWord) (d : PDesc) (phys : List Nat) : State × Nat :=
  let c := coreCluster e.core
  let up := s.launch? (s.lidOf e.blk)
  let (s, n) := s.nextNum c 1 e.blk
  let l : Launch := {
    ctx := e.ctx, graph := (up.map Launch.graph).getD 0, phase := (up.map Launch.phase).getD 0, job := (up.map Launch.job).getD 0,
    prio := (up.map Launch.prio).getD 0, count := 1, complete := false, cancelled := false, failed := false, succ := 0, desc := LDesc.none,
    lo := 0, hi := 0, curZ := 0, curD := 0, victim := false, placed := 0, skips := [], cuts := [], bads := [], after := [],
    dies := [] }
  let (s, lid) := s.newLaunch l
  let p : PairLaunch := {
    ctx := e.ctx, area := area, desc := d, cluster := c, num := n, state := 0, ovf := false, trunc := false, cancelled := false,
    killed := false, cands := 0, excluded := 0, replayed := 0, abandoned := 0, dropped := 0, skipped := 0, ovfbins := 0, phys := phys,
    items := [], nextItem := [], nextBatch := [], again := [], running := [], finished := 0, failed := [], apply := [], bins := [],
    reserved := false, got := [], tests := [], tested := false, pos := [], accFaults := [], final := false, stage := 0, blk := e.blk }
  (({ s with pairs := Tab.ins s.pairs lid p } : State).pairTo lid 0, n)

/-- PLAUNCH: the area, as one access that reads and writes (log entry 70), then the descriptor, then whether its bins could ever be placed (R214). In a unit that a cancel has
reached no launch is made (R30), as for LAUNCH in R336, and the number is 0 (log entry 83). -/
def execPlaunch (f : FmtA) (s : State) : Host.Outcome State Fault Refusal :=
  laneStep .plaunch (.a f) (fun s e =>
    let area := e.pair f.a
    let s := s.settleLane e
    match s.access e.core e.ctx e.blk ⟨.rw, false, fmtRaw, false⟩ 64 area 192 with
    | (s, .error x) => (s, .fault x)
    | (s, .ok (keys, _)) =>
      match s.readBytes e area (keys.take 128) with
      | (s, .error x) => (s, .fault x)
      | (s, .ok bs) =>
        let d := PDesc.of bs
        match d.bad with
        | some o => (s, .fault { FInfo.of 0x13 with va := some (area + BitVec.ofNat 64 o) })
        | none =>
          let phys := s.mapClusters (coreCluster e.core) d.clusters
          if phys.any (fun k => !(s.cluster k).healthy || decide (Config.clusterBins < binsAsked d phys k)) then (s, .fault (.of 0x14))
          else if s.blkCut e.blk then (s.owe e true (toW f.wbs f.d [0, 0]), .stay)
          else
            let (s, n) := s.acceptPair e area d phys
            (s.owe e true (toW f.wbs f.d (lohi (BitVec.ofNat 64 n))), .stay)) s

/-- A launch whose drain has begun, or that has ended. -/
def PairLaunch.begunDrain (p : PairLaunch) : Bool := decide (4 ≤ p.state) || (p.state == 3 && decide (4 ≤ p.stage))

/-- PCANCEL takes effect on a launch, as a cancel of its level does: no further item starts, and waits of its running threads end (R229, R180). -/
def State.cancelPair (s : State) (l : Nat) : State :=
  let s := (s.updPair l (fun p => { p with cancelled := true })).updLaunch l (fun l => { l with cancelled := true })
  (s.cutList l).foldl State.cutBlock s

/-- PCANCEL: true when the launch will end cancelled, be it cancelled already (log entry 73). -/
def execPcancel (f : FmtA) (s : State) : Host.Outcome State Fault Refusal :=
  laneStep .pcancel (.a f) (fun s e =>
    let n := (e.pair f.a).toNat
    let c := s.numCluster e.blk 1 n
    match s.pairs.find? (fun q => q.2.cluster == c && q.2.num == n && q.2.ctx == e.ctx && !q.2.begunDrain) with
    | none => (s.owe e true (toP f.wbs f.d false), .stay)
    | some (l, _) => ((s.cancelPair l).owe e true (toP f.wbs f.d true), .stay)) s

/-! ## Candidates (R215 to R219) -/

/-- What a candidate source yields, with the counts of SKIPPED and DROPPED. -/
structure Source where
  cands   : List Cand
  skipped : Nat
  dropped : Nat

/-- A list of reads, each of which may fail. -/
def mapE {α β : Type} (f : α → Except FInfo β) : List α → Except FInfo (List β)
  | [] => .ok []
  | x :: xs =>
    match f x with
    | .error e => .error e
    | .ok y => match mapE f xs with
      | .error e => .error e
      | .ok ys => .ok (y :: ys)

/-- Cells of a CELL launch. -/
def PDesc.cells (d : PDesc) : Nat := d.g 0 10 * d.g 10 10 * d.g 20 10

/-- Words of a launch's candidate source (Table 8-4). -/
def PDesc.sourceWords (d : PDesc) : Nat :=
  match d.source with
  | 0 => if d.self then d.cells + 1 else 2 * (d.cells + 1)
  | 1 => 2 * d.geo.toNat
  | 2 => 3 * d.geo.toNat
  | 3 => (d.g 0 12 + 1) * (d.g 12 12 + 1)
  | _ => 0

/-- An entry breaks a cell table's rules, given the words before it: a table begins at 0, does not decrease, and ends at its set's count (R216). -/
def PDesc.breaks (d : PDesc) (got : List Nat) (v : Nat) : Bool :=
  let n := d.cells + 1
  let k := got.length % n
  let count := if got.length < n then d.countJ else d.countA
  d.source == 0 && ((k == 0 && v != 0) || (k != 0 && decide (v < got.getLastD 0)) || (k + 1 == n && v != count))

/-- The candidate source read word by word, from where it stands (R239). A broken cell table fails the read of the entry that breaks its rules (log entry
74). -/
def State.readSource (s : State) (p : PairLaunch) : Nat → List Nat → List Nat × Option FInfo
  | 0, got => (got, none)
  | n + 1, got =>
    let va := p.desc.src + BitVec.ofNat 64 (4 * got.length)
    match s.thRead p fmtRaw 4 va 4 with
    | .error f => (got, some f)
    | .ok bs =>
      if p.desc.breaks got (leVal bs) then (got, some (.acc 0x13 va .read)) else s.readSource p n (got ++ [leVal bs])

/-- The neighbours of a coordinate at offsets -1, 0, 1: wrapped in a periodic dimension, left out where they fall outside. -/
def neighbourOf (n c : Nat) (wraps : Bool) (o : Int) : Option Nat :=
  let v : Int := c + o
  if wraps then some (v % n).toNat else if 0 ≤ v ∧ v < n then some v.toNat else none

/-- A box length other than 0. -/
def periodicL (w : Word) : Bool := !(f32 w).isZero

/-- The stencil of cell k: distinct cells in order, oz outermost. -/
def PDesc.stencil (d : PDesc) (k : Nat) : List Nat :=
  let nx := d.g 0 10
  let ny := d.g 10 10
  let nz := d.g 20 10
  let cx := k % nx
  let cy := k / nx % ny
  let cz := k / nx / ny
  let os : List (Int × Int × Int) := (List.range 27).map (fun n => ((n / 9 : Nat) - 1, (n / 3 % 3 : Nat) - 1, (n % 3 : Nat) - 1))
  (os.filterMap (fun o =>
    (neighbourOf nz cz (periodicL d.lz) o.1).bind (fun z => (neighbourOf ny cy (periodicL d.ly) o.2.1).bind (fun y =>
      (neighbourOf nx cx (periodicL d.lx) o.2.2).map (fun x => x + nx * (y + ny * z)))))).eraseDups

/-- CELL candidates of the tables' words. -/
def PDesc.cellSource (d : PDesc) (ws : List Nat) : Source :=
  let tb := ws.take (d.cells + 1)
  let ta := if d.self then tb else ws.drop (d.cells + 1)
  let rows := (List.range d.cells).map (fun k =>
    let st := d.stencil k
    (List.range' (ta.getD k 0) (ta.getD (k + 1) 0 - ta.getD k 0)).map (fun i =>
      (st.map (fun q => (List.range' (tb.getD q 0) (tb.getD (q + 1) 0 - tb.getD q 0)).map (fun j => Cand.mk i j 0 q))).flatten))
  ⟨rows.flatten.flatten, 0, 0⟩

/-- LIST and RULE candidates of the entries' words; an entry out of range is skipped (R217). -/
def PDesc.listSource (d : PDesc) (ws : List Nat) (rule : Bool) : Source :=
  let size := if rule then 3 else 2
  let all := (List.range d.geo.toNat).map (fun n =>
    Cand.mk (ws.getD (size * n) 0) (ws.getD (size * n + 1) 0) (if rule then ws.getD (size * n + 2) 0 else n) 0)
  let ok (c : Cand) : Bool := decide (c.i < d.countA) && decide (c.j < d.countJ) && !(d.self && decide (c.j ≤ c.i))
  ⟨all.filter ok, (all.filter (fun c => !ok c)).length, 0⟩

/-- Points of the range buffer (R218). -/
def rangeMax : Nat := 262144

/-- RANGE candidates over the kept pixels of the map's words, each with its record (R218). -/
def PDesc.rangeSource (d : PDesc) (ws : List Nat) : Source :=
  let rows := d.g 0 12 + 1
  let cols := d.g 12 12 + 1
  let h := d.g 24 4
  let w := d.g 28 4
  let occ := (ws.zipIdx).filter (fun x => decide (1 ≤ x.1) && decide (x.1 ≤ d.countA))
  let kept := occ.take rangeMax
  let target (px : Nat) (dr dc : Nat) : Option Nat :=
    let r : Int := (px / cols : Nat) + (dr : Int) - h
    let c : Int := (px % cols : Nat) + (dc : Int) - w
    if r < 0 ∨ (rows : Int) ≤ r then none
    else if d.wrapc then some (r.toNat * cols + (c % cols).toNat)
    else if c < 0 ∨ (cols : Int) ≤ c then none
    else some (r.toNat * cols + c.toNat)
  let ofPixel (x : Nat × Nat) : List Cand :=
    let ts : List (Option (Nat × Nat)) := ((List.range (2 * h + 1)).map (fun dr => (List.range (2 * w + 1)).map (fun dc =>
      (target x.2 dr dc).map (fun t => (t, dr * (2 * w + 1) + dc))))).flatten
    let ts := (ts.filterMap id).foldl (fun (acc : List (Nat × Nat)) t => if acc.any (fun u => u.1 == t.1) then acc else acc ++ [t]) []
    ts.filterMap (fun t => (kept.find? (fun y => y.2 == t.1)).map (fun y => Cand.mk (x.1 - 1) (y.1 - 1) t.2 t.1))
  ⟨(kept.map ofPixel).flatten, (ws.filter (fun v => decide (d.countA < v))).length, occ.length - kept.length⟩

/-- ALL candidates (R219). -/
def allSource (d : PDesc) : Source :=
  ⟨((List.range d.countA).map (fun i => (List.range d.countJ).map (fun j => Cand.mk i j 0 0))).flatten, 0, 0⟩

/-- The candidates of a launch in logical order, of its source's words; under SELF those with i ≥ j are none (R215). -/
def PDesc.candidates (d : PDesc) (ws : List Nat) : Source :=
  let q := match d.source with
    | 0 => d.cellSource ws
    | 1 => d.listSource ws false
    | 2 => d.listSource ws true
    | 3 => d.rangeSource ws
    | _ => allSource d
  { q with cands := if d.self then q.cands.filter (fun c => decide (c.i < c.j)) else q.cands }

/-! ## The test (R220, R221) -/

/-- A record's exclusion entry holds an offset; 0 marks an unused slot. -/
def entryHolds (bs : List Byte) (o : Int) : Bool :=
  o != 0 && (List.range 8).any (fun k => sextNat 16 (hdrNat bs (2 * k) 2) == o)

/-- The exclusion class of a candidate. -/
def State.exclClass (s : State) (p : PairLaunch) (c : Cand) : Except FInfo Bool :=
  let d := p.desc
  if d.excl = 0 then .ok false
  else
    let at_ (n : Nat) : DWord := d.excl + BitVec.ofNat 64 (16 * n)
    match s.thRead p fmtRaw 16 (at_ c.i) 16, s.thRead p fmtRaw 16 (at_ (if d.oneSet then c.j else d.countA + c.j)) 16 with
    | .error e, _ => .error e
    | _, .error e => .error e
    | .ok a, .ok b => .ok (entryHolds a ((c.j : Int) - c.i) || entryHolds b ((c.i : Int) - c.j))

/-- An f32 rounded to an integer, ties to even. -/
def rintF32 (w : Word) : Word :=
  match f32 w with
  | .fin neg m e => toF32 .rn (.fin neg (roundMag .rn neg m e 0) 0)
  | x => toF32 .rn x

/-- One axis of the test: the difference, brought back into the box. -/
def axis (xi xj l : Word) : Word :=
  let d := fsubV .rn xj xi
  if (f32 l).isZero then d
  else
    let s := rintF32 (fmulV .rn d (fdivN (.fin false 1 0) (f32 l)))
    ffmaV .rn (fnegV s) l d

/-- dx, dy, dz and d2 of two positions. -/
def separation (d : PDesc) (a b : List Word) : Word × Word × Word × Word :=
  let dx := axis (a.getD 0 0) (b.getD 0 0) d.lx
  let dy := axis (a.getD 1 0) (b.getD 1 0) d.ly
  let dz := axis (a.getD 2 0) (b.getD 2 0) d.lz
  (dx, dy, dz, ffmaV .rn dz dz (ffmaV .rn dy dy (fmulV .rn dx dx)))

/-- The position of a record: x, y, z (Table 8-2). -/
def State.position (s : State) (p : PairLaunch) (base : DWord) (n : Nat) : Except FInfo (List Word) :=
  match s.thRead p fmtRawF32 4 (base + BitVec.ofNat 64 (16 * n)) 12 with
  | .error e => .error e
  | .ok bs => .ok (bytesToWords bs)

/-- One candidate judged. -/
def State.judge (s : State) (p : PairLaunch) (c : Cand) : Except FInfo Verdict :=
  let d := p.desc
  match s.exclClass p c with
  | .error e => .error e
  | .ok listed =>
    if d.useExcl && listed then .ok .excluded
    else
      let tag := if d.source = 0 ∨ d.source = 4 then (if listed then 1 else 0) else c.tag
      let baseB := if d.oneSet then d.posA else d.posB
      if d.posA = 0 ∨ baseB = 0 then .ok (.accepted ⟨0, c.i, c.j, tag, c.cell, 0, 0, 0, 0⟩)
      else
        match s.position p d.posA c.i, s.position p baseB c.j with
        | .error e, _ => .error e
        | _, .error e => .error e
        | .ok a, .ok b =>
          let (dx, dy, dz, d2) := separation d a b
          if d.notest || NumVal.lt (f32 d2) (f32 d.cut) then .ok (.accepted ⟨0, c.i, c.j, tag, c.cell, dx, dy, dz, d2⟩) else .ok .rejected

/-- Candidates judged in order, up to the first failed access. -/
def State.judgeFrom (s : State) (p : PairLaunch) : List Cand → List Verdict × Option FInfo
  | [] => ([], none)
  | c :: cs =>
    match s.judge p c with
    | .error f => ([], some f)
    | .ok v => let r := s.judgeFrom p cs; (v :: r.1, r.2)

/-- The accepted items with their logical indices (R222). -/
def itemsOf (vs : List Verdict) : List PairItem :=
  ((vs.filterMap (fun v => match v with | .accepted it => some it | _ => none)).zipIdx).map (fun x => { x.1 with n := x.2 })

/-- Part c of n things shared out in order among m. -/
def partOf {α : Type} (xs : List α) (m c : Nat) : List α :=
  (xs.drop (c * xs.length / m)).take ((c + 1) * xs.length / m - c * xs.length / m)

/-- A launch's verdicts so far in logical order, and what its status counts of them (Table 8-10). -/
def PairLaunch.tally (p : PairLaunch) (q : Source) : PairLaunch :=
  let cs := List.range p.desc.clusters
  let vs := (cs.map (fun c => Tab.get [] p.tests c)).flatten
  { p with
    tested := cs.all (fun c => (Tab.get [] p.tests c).length == (partOf q.cands p.desc.clusters c).length)
    items := itemsOf vs, cands := vs.length, skipped := q.skipped, dropped := q.dropped,
    excluded := (vs.filter (fun v => v == .excluded)).length }

/-- Logical cluster c goes on with the test of its share, up to its end or a failed access (log entry 69). -/
def State.testShare (l : Nat) (cands : List Cand) (s : State) (c : Nat) : State :=
  match s.pair? l with
  | none => s
  | some p =>
    if s.thPosting (p.thresher c) then s else
    let done := Tab.get [] p.tests c
    let r := s.judgeFrom p ((partOf cands p.desc.clusters c).drop done.length)
    let s := s.updPair l (fun p => { p with tests := Tab.put [] p.tests c (done ++ r.1) })
    match r.2 with
    | none => s
    | some f => s.pairFault l p c f

/-- Testing goes on: the rest of the candidate source, then the share of every cluster whose access has not failed. It ends when all candidates are
judged, or rests where accesses have failed (R239). -/
def State.testPair (s : State) (l : Nat) : State :=
  match s.pair? l with
  | none => s
  | some p =>
    let n := p.desc.sourceWords - p.got.length
    if 0 < n ∧ s.thPosting p.cluster = true then s else
    let r := s.readSource p n p.got
    let s := s.updPair l (fun p => { p with got := r.1 })
    match r.2 with
    | some f => s.pairFault l p p.desc.clusters f
    | none =>
      let q := p.desc.candidates r.1
      (((List.range p.desc.clusters).filter (fun c => !p.accFaults.contains c)).foldl (State.testShare l q.cands) s).updPair l (fun p => p.tally q)

/-! ## Start, testing, batches -/

/-- Bins reserved on a physical cluster. -/
def State.binsHeld (s : State) (k : Nat) : Nat :=
  (s.pairs.map (fun q => if q.2.reserved then binsAsked q.2.desc q.2.phys k else 0)).sum

/-- The physical clusters of a launch that waits: as mapped at its issue, or, when one of them has been fenced since, as they can be mapped now (R12,
R210). -/
def State.pairPhys (s : State) (p : PairLaunch) : List Nat :=
  if p.phys.all (fun k => (s.cluster k).healthy) then p.phys else s.mapClusters p.cluster p.desc.clusters

/-- The launch's bins fit beside those reserved, no launch accepted before it still waits (R237), and no Silo load is copying on a die of its clusters
(R393). -/
def State.pairMayStart (s : State) (l : Nat) (p : PairLaunch) : Bool :=
  let phys := s.pairPhys p
  phys.all (fun k => (s.cluster k).healthy && s.dieOpen (k / 64) && decide (s.binsHeld k + binsAsked p.desc phys k ≤ Config.clusterBins)) &&
    !s.pairs.any (fun q => decide (q.1 < l) && q.2.state == 0 && !s.pairCancelled q.1 q.2)

/-- PAIR_LAUNCH_START: bins are reserved and the candidates tested; testing goes on after a resume, and in the shares that no failed access has stopped
(R239). -/
def execPairLaunchStart (l : Nat) (s : State) : Host.Outcome State Fault Refusal :=
  match s.pair? l with
  | none => .next s
  | some p =>
    if s.pairCancelled l p || p.accFaults.contains p.desc.clusters then .next s
    else if p.state = 0 ∧ s.thPosting p.cluster = false ∧ s.pairMayStart l p = true then
      .next (((s.updPair l (fun p => { p with phys := s.pairPhys p, reserved := true, bins := [] })).pairTo l 1).testPair l)
    else if p.state = 1 ∧ p.tested = false then .next (s.testPair l)
    else .next s

/-- The items of logical cluster c (R222). -/
def PairLaunch.share (p : PairLaunch) (c : Nat) : List PairItem := partOf p.items p.desc.clusters c

/-- The logical cluster that runs item n: the last whose first item is at or before it. -/
def PairLaunch.clusterOf (p : PairLaunch) (n : Nat) : Nat :=
  ((List.range p.desc.clusters).filter (fun c => decide (c * p.items.length / p.desc.clusters ≤ n))).getLast?.getD 0

/-- Work of a cluster's Thresher element by element, from where it stands; the first failure stops it there (R239), and so
does a record that its Thresher `t` has to post (R346). -/
def State.thShare (l c t : Nat) (work : State → Nat → Except FInfo State) : Nat → Nat → State → State × Option FInfo
  | 0, _, s => (s, none)
  | n + 1, k, s =>
    if s.thPosting t then (s, none)
    else
      match work s k with
      | .error f => (s, some f)
      | .ok s => State.thShare l c t work n (k + 1) (s.updPair l (fun p => { p with pos := Tab.put 0 p.pos c (k + 1) }))

/-- A stage of writes: every logical cluster finishes its share or stops at its failed access; one that has stopped stays so (R239). -/
def State.thStage (s : State) (l : Nat) (p : PairLaunch) (size : Nat → Nat) (work : Nat → State → Nat → Except FInfo State) : State :=
  ((List.range p.desc.clusters).filter (fun c => !p.accFaults.contains c)).foldl (fun s c =>
    let k := Tab.get 0 p.pos c
    match State.thShare l c (p.thresher c) (work c) (size c - k) k s with
    | (s, none) => s
    | (s, some f) => s.pairFault l p c f) s

/-- Every share of a stage is written. -/
def PairLaunch.written (p : PairLaunch) (size : Nat → Nat) : Bool :=
  (List.range p.desc.clusters).all (fun c => Tab.get 0 p.pos c == size c)

/-- One entry of an emitted list (R226). -/
def emitOne (p : PairLaunch) (c : Nat) (s : State) (k : Nat) : Except FInfo State :=
  match (p.share c)[k]? with
  | none => .ok s
  | some it =>
    if (p.desc.outB.extractLsb' 0 32).toNat ≤ it.n then .ok s
    else s.thWrite p fmtRaw (p.desc.outA + BitVec.ofNat 64 (12 * it.n)) (leBytes 4 it.i ++ leBytes 4 it.j ++ leBytes 4 it.tag)

/-- The list of an EMIT launch is written from where it stands. -/
def State.emitList (s : State) (l : Nat) : State :=
  match s.pair? l with
  | none => s
  | some p =>
    if !p.desc.emit then s
    else
      let s := s.updPair l (fun p => { p with trunc := decide ((p.desc.outB.extractLsb' 0 32).toNat < p.items.length) })
      s.thStage l p (fun c => (p.share c).length) (emitOne p)

/-- PAIR_TESTING_COMPLETE: the launch runs, or writes its list; a resumed list goes on. -/
def execPairTestingComplete (l : Nat) (s : State) : Host.Outcome State Fault Refusal :=
  match s.pair? l with
  | none => .next s
  | some p =>
    if s.pairCancelled l p then .next s
    else if p.state = 1 ∧ p.tested = true ∧ p.accFaults = [] then .next ((s.pairTo l 2).emitList l)
    else if p.state = 2 then .next (s.emitList l)
    else .next s

/-- Items that a cluster's next batch takes: those to replay, or the next ones (R224, R240). -/
def PairLaunch.batch (p : PairLaunch) (c : Nat) : List PairItem × Bool :=
  match (p.share c).filter (fun it => p.again.contains it.n) with
  | [] => (((p.share c).drop (Tab.get 0 p.nextItem c)).take 32, false)
  | r => (r.take 32, true)

/-- The entry state of a batch (Table 8-7). -/
def batchUni (c l b n base : Nat) (d : PDesc) : Vector Word 64 :=
  let w (v : Nat) : Word := BitVec.ofNat 32 v
  uniRegs ([w c, 0, 0, 0] ++ lohi d.arg ++ lohi (BitVec.ofNat 64 l) ++ [w d.clusters, w n, w base, 0, w b])

/-- PAIR_BATCH_START: a cluster's next items start as a block of one warp on a core of the cluster that holds it now. -/
def execPairBatchStart (l : Nat) (c : Nat) (core : Nat) (s : State) : Host.Outcome State Fault Refusal :=
  match s.pair? l with
  | none => .next s
  | some p =>
    let d := p.desc
    let phys := p.phys.getD c 0
    let home := if (s.cluster phys).healthy then phys else s.standIn phys
    let b := p.batch c
    if p.state ≠ 2 || d.emit || s.pairCancelled l p || b.1.isEmpty || decide (d.clusters ≤ c) || decide (1024 ≤ core) ||
        coreCluster core != home || !(s.cluster home).healthy || !s.dieOpen (coreDie core) then .next s
    else
      match s.coreFits core 1 (256 * d.scr) with
      | none => .next s
      | some base =>
        let idx := Tab.get 0 p.nextBatch c
        let a : Start := ⟨p.ctx, l, idx, .pair, 128, 64, b.1.length, 256 * d.scr, 0, 0, false, 0, 0, d.entry⟩
        let (s, key) := s.startBlock a core base (batchUni c l idx b.1.length base d)
        let s := s.updBlock key (fun k => k.updWarp 0 (fun w => { w with threads := w.threads.zipIdx.map (fun x =>
          { x.1 with item := b.1[x.2]?, q := Vector.replicate 4 ⟨0, BitVec.ofInt 8 d.win⟩ }) }))
        let ns := b.1.map (fun it => it.n)
        .next (s.updPair l (fun p => { p with
          running := p.running ++ ns, nextBatch := Tab.put 0 p.nextBatch c (idx + 1),
          again := p.again.filter (fun n => !ns.contains n), replayed := p.replayed + (if b.2 then ns.length else 0),
          nextItem := if b.2 then p.nextItem else Tab.put 0 p.nextItem c (Tab.get 0 p.nextItem c + ns.length) }))

/-! ## Instructions of pair threads (R230 to R233) -/

/-- An item field written to w D (R230). -/
def itemField (op : Op) (f : FmtA) (v : PairItem → Word) (s : State) : Host.Outcome State Fault Refusal :=
  laneStep op (.a f) (fun s e =>
    match e.th.item with
    | none => (s, .fault (.of 0x02))
    | some it => (s.updLane e.lane (fun th => th.puts (toW f.wbs f.d [v it])), .stay)) s

def execPi (f : FmtA) (s : State) : Host.Outcome State Fault Refusal := itemField .pi f (fun it => BitVec.ofNat 32 it.i) s
def execPj (f : FmtA) (s : State) : Host.Outcome State Fault Refusal := itemField .pj f (fun it => BitVec.ofNat 32 it.j) s
def execPtag (f : FmtA) (s : State) : Host.Outcome State Fault Refusal := itemField .ptag f (fun it => BitVec.ofNat 32 it.tag) s
def execPcell (f : FmtA) (s : State) : Host.Outcome State Fault Refusal := itemField .pcell f (fun it => BitVec.ofNat 32 it.cell) s
def execPdx (f : FmtA) (s : State) : Host.Outcome State Fault Refusal := itemField .pdx f (fun it => it.dx) s
def execPdy (f : FmtA) (s : State) : Host.Outcome State Fault Refusal := itemField .pdy f (fun it => it.dy) s
def execPdz (f : FmtA) (s : State) : Host.Outcome State Fault Refusal := itemField .pdz f (fun it => it.dz) s
def execPdsq (f : FmtA) (s : State) : Host.Outcome State Fault Refusal := itemField .pdsq f (fun it => it.d2) s

/-- One or two words of record i or j, as a load (R231). A word beyond the record is looked for before the alignment (log entry 89). -/
def recordWords (op : Op) (f : FmtA) (ofJ : Bool) (n : Nat) (s : State) : Host.Outcome State Fault Refusal :=
  laneStep op (.a f) (fun s e =>
    match e.th.item, s.pair? (s.lidOf e.blk) with
    | some it, some p =>
      let d := p.desc
      let o := 4 * (e.a f).toNat
      let setB := ofJ && !d.oneSet
      let stride := if setB then d.strideB else d.strideA
      if stride < o + n then (s, .fault (.of 0x03))
      else
        let va := (if setB then d.recB else d.recA) + BitVec.ofNat 64 ((if ofJ then it.j else it.i) * stride + o)
        match s.access e.core e.ctx e.blk ⟨.read, false, fmtRaw, true⟩ n va n with
        | (s, .error x) => (s, .fault x)
        | (s, .ok (keys, _)) =>
          match s.readBytes e va keys with
          | (s, .error x) => (s, .fault x)
          | (s, .ok bs) => (s.owe e true (toW f.wbs f.d (zextWords bs)), .stay)
    | _, _ => (s, .fault (.of 0x02))) s

def execPreci (f : FmtA) (s : State) : Host.Outcome State Fault Refusal := recordWords .preci f false 4 s
def execPrecj (f : FmtA) (s : State) : Host.Outcome State Fault Refusal := recordWords .precj f true 4 s
def execPreci2 (f : FmtA) (s : State) : Host.Outcome State Fault Refusal := recordWords .preci2 f false 8 s
def execPrecj2 (f : FmtA) (s : State) : Host.Outcome State Fault Refusal := recordWords .precj2 f true 8 s

/-- Entries a thread may have staged (R232). -/
def stagedMax : Nat := 16

/-- A contribution staged. -/
def stageEntry (op : Op) (f : FmtA) (form : Nat) (s : State) : Host.Outcome State Fault Refusal :=
  laneStep op (.a f) (fun s e =>
    match s.pair? (s.lidOf e.blk) with
    | none => (s, .fault (.of 0x02))
    | some p =>
      let b := (e.b f).toNat
      if p.desc.nb + 1 ≤ b || (form != 2 && !p.desc.jBins) || decide (stagedMax ≤ e.th.staged.length) then (s, .fault (.of 0x03))
      else (s.updLane e.lane (fun th => { th with staged := th.staged ++ [⟨form, e.a f, b⟩] }), .stay)) s

def execPconOpp (f : FmtA) (s : State) : Host.Outcome State Fault Refusal := stageEntry .pconOpp f 0 s
def execPconSym (f : FmtA) (s : State) : Host.Outcome State Fault Refusal := stageEntry .pconSym f 1 s
def execPconI (f : FmtA) (s : State) : Host.Outcome State Fault Refusal := stageEntry .pconI f 2 s
def execPconJ (f : FmtA) (s : State) : Host.Outcome State Fault Refusal := stageEntry .pconJ f 3 s

def execPdrop (f : FmtA) (s : State) : Host.Outcome State Fault Refusal :=
  laneStep .pdrop (.a f) (fun s e => (s.updLane e.lane (fun th => { th with staged := [] }), .stay)) s

/-! ## Bins (R234) -/

/-- The key of a bin of a launch: its set, record and number. -/
def binIndex (setB : Bool) (record b : Nat) : Nat := ((if setB then 2 ^ 32 else 0) + record) * 8 + b
/-- The poison key of a bin (log entry 17). -/
def binKey (l k : Nat) : Nat := 2 ^ 160 + (l * 2 ^ 40 + k) * 16

/-- What a staged entry adds: to which set's record, and the value (Table 8-9). -/
def entryAdds (d : PDesc) (it : PairItem) (x : PEntry) : List (Bool × Nat × NumVal) :=
  let v := f32 x.v
  let i : List (Bool × Nat × NumVal) := if x.form = 3 then [] else [(false, it.i, v)]
  let j : List (Bool × Nat × NumVal) := if x.form = 2 then [] else [(!d.oneSet, it.j, if x.form = 0 then v.neg else v)]
  i ++ j

/-- One addition at a bin; a bin that holds an uncorrectable error stays as it is and is reported. -/
def State.addBin (s : State) (l : Nat) (p : PairLaunch) (b : Nat) (a : Bool × Nat × NumVal) : State :=
  let k := binIndex a.1 a.2.1 b
  if s.memBad [binKey l k] then s.binReport l p 0x10 a.2.1 b (.bins l)
  else s.updPair l (fun p => { p with bins := Tab.put 0 p.bins k (contribute (Tab.get 0 p.bins k) p.desc.win a.2.2) })

/-- A record of a launch's bins still waits for the fault queue, so that nothing more is added (R346). -/
def State.binsPosting (s : State) (l : Nat) : Bool := s.ctxs.any (fun x => x.2.waiting.any (fun q => q.unit == .bins l))

/-- PAIR_ENTRY_APPLY: the entries of the oldest exited item are added, and the item has completed. -/
def execPairEntryApply (l : Nat) (s : State) : Host.Outcome State Fault Refusal :=
  match s.pair? l with
  | none => .next s
  | some p =>
    match p.apply, s.binsPosting l with
    | [], _ | _, true => .next s
    | (it, es) :: rest, false =>
      let s := es.foldl (fun s x => (entryAdds p.desc it x).foldl (fun s a => s.addBin l p x.b a) s) s
      .next (s.updPair l (fun p => { p with apply := rest, finished := p.finished + 1 }))

/-! ## Suspend, drain, end (R235 to R240) -/

/-- Nothing of the launch runs or is about to be applied. -/
def State.pairQuiet (s : State) (l : Nat) (p : PairLaunch) : Bool :=
  p.running.isEmpty && p.apply.isEmpty && !s.blocks.any (fun b => b.2.lid == l && b.2.kind == .pair)

/-- Every item has run once, or EMIT has written its list. -/
def PairLaunch.ran (p : PairLaunch) : Bool :=
  if p.desc.emit then p.written (fun c => (p.share c).length)
  else p.again.isEmpty && (List.range p.desc.clusters).all (fun c => Tab.get 0 p.nextItem c == (p.share c).length)

/-- Elements that cluster c drains: its homed records of set A, then of set B (R235). -/
def PDesc.drainSize (d : PDesc) (c : Nat) : Nat :=
  if d.emit then 0
  else ((if d.outA = 0 then 0 else homed d.countA d.clusters c) + (if d.binsB ∧ d.outB ≠ 0 then homed d.countB d.clusters c else 0)) * (d.nb + 1)

/-- Every logical cluster has stopped at a failed access or has finished its share of the stage. -/
def PairLaunch.stageRests (p : PairLaunch) (size : Nat → Nat) : Bool :=
  (List.range p.desc.clusters).all (fun c => p.accFaults.contains c || Tab.get 0 p.pos c == size c)

/-- Nothing remains to be tested: the candidate source cannot be read on, or every logical cluster has stopped at a failed access or has judged its
share. -/
def PairLaunch.testRests (p : PairLaunch) : Bool :=
  p.accFaults.contains p.desc.clusters ||
    (let cands := (p.desc.candidates p.got).cands
     (List.range p.desc.clusters).all (fun c =>
       p.accFaults.contains c || (Tab.get [] p.tests c).length == (partOf cands p.desc.clusters c).length))

/-- Nothing remains to be done in the stage an access has failed in. -/
def PairLaunch.accStuck (p : PairLaunch) : Bool :=
  p.accFaults != [] &&
    (if p.state = 1 then p.testRests
     else if p.state = 4 then p.stageRests p.desc.drainSize
     else if p.state = 2 ∧ p.desc.emit then p.stageRests (fun c => (p.share c).length)
     else true)

/-- PAIR_LAUNCH_SUSPEND: nothing remains in the stage and something has failed. -/
def execPairLaunchSuspend (l : Nat) (s : State) : Host.Outcome State Fault Refusal :=
  match s.pair? l with
  | none => .next s
  | some p =>
    let stuck := p.accStuck || (p.state == 2 && !p.desc.emit && p.ran && !p.failed.isEmpty && !s.pairCancelled l p)
    if stuck && s.pairQuiet l p && decide (p.state ≠ 3) && decide (p.state < 5) then
      .next ((s.updPair l (fun p => { p with stage := p.state })).pairTo l 3)
    else .next s

/-- The k-th element that cluster c drains: its set, record and bin. -/
def PDesc.drainAt (d : PDesc) (c k : Nat) : Bool × Nat × Nat :=
  let first (n : Nat) : Nat := (c * n + d.clusters - 1) / d.clusters
  let inA := if d.outA = 0 then 0 else homed d.countA d.clusters c
  let r := k / (d.nb + 1)
  if r < inA then (false, first d.countA + r, k % (d.nb + 1)) else (true, first d.countB + (r - inA), k % (d.nb + 1))

/-- One bin drained to its element. -/
def drainOne (l : Nat) (p : PairLaunch) (c : Nat) (s : State) (k : Nat) : Except FInfo State :=
  let d := p.desc
  let (setB, r, b) := d.drainAt c k
  let i := binIndex setB r b
  let bin := Tab.get 0 p.bins i
  let bad := s.memBad [binKey l i]
  let v := if bad || drainOvf bin then nanF32 else drainF32 bin d.win
  let va := (if setB then d.outB else d.outA) + BitVec.ofNat 64 (4 * (r * (d.nb + 1) + b))
  match s.thWrite p fmtRawF32 va (leBytes 4 v.toNat) with
  | .error f => .error f
  | .ok s =>
    let u : FUnit := .thresher (p.thresher c)
    if bad then .ok (s.binReport l p 0x10 r b u)
    else if drainOvf bin then .ok ((s.binReport l p 0x12 r b u).updPair l (fun p => { p with ovf := true, ovfbins := p.ovfbins + 1 }))
    else .ok s

/-- PAIR_LAUNCH_DRAIN: the bins go to the output arrays, from where they stand. -/
def execPairLaunchDrain (l : Nat) (s : State) : Host.Outcome State Fault Refusal :=
  match s.pair? l with
  | none => .next s
  | some p =>
    let go (s : State) : State := match s.pair? l with
      | none => s
      | some p => s.thStage l p p.desc.drainSize (drainOne l p)
    if p.state = 2 && p.ran && p.accFaults.isEmpty && s.pairQuiet l p && p.failed.isEmpty && !s.pairCancelled l p then
      .next (go ((s.updPair l (fun p => { p with pos := [] })).pairTo l 4))
    else if p.state = 4 then .next (go s)
    else .next s

/-- Pending records of a launch that has ended become resolved. -/
def resolvePair (l : Nat) (c : Ctx) : Ctx :=
  { c with seqs := c.seqs.map (fun q => match q.2.qrec.unit with
      | .pairItem k _ => if k = l ∧ q.2.state = 1 then (q.1, { q.2 with state := 2 }) else q
      | .pairAccess k _ => if k = l ∧ q.2.state = 1 then (q.1, { q.2 with state := 2 }) else q
      | _ => q) }

/-- The launch ends: bins released, timeline advanced, the launch's own unit counted (R193, R236). -/
def State.pairEnd (s : State) (l : Nat) (p : PairLaunch) (state abandoned : Nat) (cancelled : Bool) : State :=
  let s := s.updPair l (fun p => { p with
    state := state, abandoned := abandoned, cancelled := cancelled, reserved := false, bins := [], items := [], again := [], accFaults := [] })
  let s := (s.launchDown l).updCtx p.ctx (resolvePair l)
  (s.tlFinish p.cluster 1 p.num).phHere p.ctx (4 * p.cluster) ⟨0, 0, -1, 0, 0⟩

/-- Items that have not completed. -/
def PairLaunch.left (p : PairLaunch) : Nat := if p.desc.emit then 0 else p.items.length - p.finished - p.abandoned

/-- PAIR_LAUNCH_COMPLETE: the final status record, then the end; a record that cannot be written keeps the launch (R239). -/
def execPairLaunchComplete (l : Nat) (s : State) : Host.Outcome State Fault Refusal :=
  match s.pair? l with
  | none => .next s
  | some p =>
    let fin (state abandoned : Nat) (cancelled : Bool) : State :=
      match s.writeStatus p state cancelled abandoned with
      | .error f => (s.pairFault l p p.desc.clusters f).updPair l (fun p => { p with final := true })
      | .ok s => s.pairEnd l p state abandoned cancelled
    if (p.accFaults != [] && (p.final || p.begunDrain || !s.pairCancelled l p)) || s.thPosting p.cluster then .next s
    else if p.state = 4 && p.written p.desc.drainSize then .next (fin 5 p.abandoned false)
    else if !p.begunDrain && s.pairCancelled l p && s.pairQuiet l p then
      .next (fin 6 (p.abandoned + (p.left - p.failed.length)) true)
    else .next s

/-! ### What the handler's instructions do to a suspended launch (R240) -/

/-- Replay: failed items run again, a failed access goes on. -/
def State.pairReplay (s : State) (l : Nat) : State :=
  match s.pair? l with
  | none => s
  | some p =>
    if p.state ≠ 3 then s
    else (s.updPair l (fun p => { p with again := p.failed.mergeSort (fun a b => decide (a ≤ b)), failed := [], accFaults := [] })).pairTo l p.stage

/-- Kill: failed items are abandoned and the launch drains; with a failed access pending the launch ends. -/
def State.pairKill (s : State) (l : Nat) : State :=
  match s.pair? l with
  | none => s
  | some p =>
    if p.state ≠ 3 then s
    else
      let s := s.markFailed l
      if p.accFaults != [] then
        let p := { p with killed := true, failed := [] }
        let n := p.abandoned + p.left
        let s := s.updPair l (fun _ => p)
        let c := s.pairCancelled l p && !p.begunDrain
        let s := match s.writeStatus p 6 c n with
          | .ok s => s
          | .error _ => s
        s.pairEnd l p 6 n c
      else (s.updPair l (fun p => { p with killed := true, abandoned := p.abandoned + p.failed.length, failed := [] })).pairTo l p.stage

end Sys2Proof.Machine
end

