-- ==== Sys2Proof/Machine/Tile.lean ====
section
/-!
DEFINITION. Tile programs: FORK, RDV and FORKSTAT, the start and the end of a program (R245 to R251).
-/

namespace Sys2Proof.Machine

/-- Programs that wait beside the running one (R245). -/
def tileQueueMax : Nat := 8

/-- A program is queued with its number (R249). -/
def State.forkAccept (s : State) (e : Env) (t : TRef) (entry : DWord) (arg : Word) (wr : DWord → List RegVal) : State :=
  let c := coreCluster e.core
  let (s, n) := s.nextNum c 2 t.blk
  let s := s.updCluster c (fun k => { k with
    tileQ := k.tileQ ++ [⟨n, t, entry, arg⟩], tileStat := keepStat tileKeep n k.tileStat n ⟨0, 0, false⟩ })
  s.owe e true (wr (BitVec.ofNat 64 n))

/-- FORK (R249): the program observes what the thread did before. A thread waits while the queue is full. -/
def execFork (f : FmtA) (s : State) : Host.Outcome State Fault Refusal :=
  laneStep .fork (.a f) (fun s e =>
    let entry := e.pair f.a
    if entry.toNat % 4 ≠ 0 then (s, .fault (.of 0x0C))
    else
      match e.lane with
      | .tile _ => (s, .fault (.of 0x02))
      | .thr t =>
        let s := s.settle t
        if (s.cluster (coreCluster e.core)).tileQ.length < tileQueueMax then
          (s.forkAccept e t entry (e.b f) (fun n => toW f.wbs f.d (lohi n)), .stay)
        else (s, .hold (.engine ⟨waitFork, entry, e.b f, [], f.d.toNat, e.slot, f.wbs⟩))) s

/-- The status word of a program (Table 10-2). -/
def State.tileWord (s : State) (c n : Nat) : Word :=
  let k := s.cluster c
  let w := numStatus (k.tl 2) tileKeep k.tileStat n
  match k.tile with
  | some r => if r.num = n ∧ r.ovf = true then w ||| 512 else w
  | none => w

/-- What RDV gives for a program that has ended, or that was never issued (R250). -/
def State.rdvWords (s : State) (c n : Nat) : Option (List Word) :=
  let w := s.tileWord c n
  if w.getLsbD 8 then some [0, w]
  else if w.getLsbD 1 then some [Tab.get 0 (s.cluster c).tileK0 n, w]
  else none

/-- RDV waits until the program has ended (R250). -/
def execRdv (f : FmtA) (s : State) : Host.Outcome State Fault Refusal :=
  laneStep .rdv (.a f) (fun s e =>
    let n := (e.pair f.a).toNat
    let c := s.numCluster e.blk 2 n
    match s.rdvWords c n with
    | some ws => (s.owe e true (toW f.wbs f.d ws), .stay)
    | none => (s, .hold (.rdv c n f.d.toNat e.slot f.wbs))) s

def execForkstat (f : FmtA) (s : State) : Host.Outcome State Fault Refusal :=
  laneStep .forkstat (.a f) (longRegs (fun s e =>
    let n := (e.pair f.a).toNat
    toW f.wbs f.d [s.tileWord (s.numCluster e.blk 2 n) n])) s

/-- The sequencer's registers at a program's start (R246): k0 the argument, k1 the region's base, k2 the thread's warp, k3 the block's s0. -/
def tileThread (b : Block) (r : TileReq) : Thread :=
  { Thread.new r.entry with
    w := (((Vector.replicate 128 (0 : Word)).setIfInBounds 0 r.arg).setIfInBounds 1 (BitVec.ofNat 32 b.scrBase)).setIfInBounds 2
      (BitVec.ofNat 32 r.t.wp) |>.setIfInBounds 3 (BitVec.ofNat 32 b.idx) }

/-- The record of a cluster's tile program waits to be posted (R346). -/
def State.tilePosting (s : State) (c : Nat) : Bool := s.ctxs.any (fun p => p.2.waiting.any (fun q => q.unit == .tile c))

/-- TILE_PROGRAM_START: the next queued program, once nothing of an earlier one is left on the units or to be posted; sequencer and units are reset (R245,
R246). -/
def execTileProgramStart (c : Nat) (s : State) : Host.Outcome State Fault Refusal :=
  let k := s.cluster c
  match k.tileQ, k.tile with
  | r :: rest, none =>
    if [0, 1, 2, 3].any (fun i => !(s.mat (4 * c + i)).queue.isEmpty) || s.tilePosting c then .next s
    else
      match s.block? r.t.blk with
      | none => .next s
      | some b =>
        let s := s.updCluster c (fun k => { k with
          tileQ := rest, tile := some ⟨r.num, r.t, tileThread b r, false, false⟩,
          tileStat := keepStat tileKeep (k.tl 2).issued k.tileStat r.num ⟨1, 0, false⟩ })
        .next ([0, 1, 2, 3].foldl (fun (s : State) i =>
          let core := 4 * c + i
          (List.range 8).foldl (fun s a => s.cleanAcc core a) (s.updMat core (fun _ => MatUnit.new))) s)
  | _, _ => .next s

/-- TILE_PROGRAM_END: the program has exited and its MAT operations have completed (R245). -/
def execTileProgramEnd (c : Nat) (s : State) : Host.Outcome State Fault Refusal :=
  match (s.cluster c).tile with
  | some r => if r.ended && !s.matBusy c r.num then .next (s.tileEnd c 2 0) else .next s
  | none => .next s

end Sys2Proof.Machine
end

