-- ==== Sys2Proof/Machine/Granary.lean ====
section
/-!
DEFINITION. The Granary: descriptors, PKQ, PKG and PKSTAT, and the operations its units serve (R272 to R285).
-/

namespace Sys2Proof.Machine

/-! ## The descriptor (R274, R281) -/

/-- The fields of Table 11-1 from the 64 bytes. -/
def GDesc.of (h : List Byte) : GDesc :=
  let d (o : Nat) : DWord := BitVec.ofNat 64 (hdrNat h o 8)
  { qaddr := d 0x00, k1base := d 0x08, k2base := d 0x10, vbase := d 0x18, obase := d 0x20, iwbase := d 0x28, rowdim := hdrNat h 0x30 2,
    qdim := hdrNat h 0x32 2, c := hdrNat h 0x34 2, k := hdrNat h 0x36 1, h := hdrNat h 0x37 1, tag := hdrNat h 0x38 2,
    sw := sextNat 8 (hdrNat h 0x3A 1), ow := sextNat 8 (hdrNat h 0x3B 1), fmt := hdrNat h 0x3C 1, flags := hdrNat h 0x3D 1 }

/-- RIW: the index and weight record is written. -/
def GDesc.riw (d : GDesc) : Bool := d.flags % 2 == 1
def GDesc.vfmt (d : GDesc) : Nat := d.fmt % 4
/-- The output is bf16. -/
def GDesc.outHalf (d : GDesc) : Bool := d.fmt / 4 % 2 == 1
/-- Bytes of the key tables. -/
def GDesc.tableBytes (d : GDesc) : Nat := 2 * d.h * d.c * d.qdim
/-- The row stride RS. -/
def GDesc.stride (d : GDesc) : Nat :=
  match d.vfmt with
  | 0 => 2 * d.rowdim
  | 1 => 4 * d.rowdim
  | 2 => 36 * d.rowdim / 32
  | _ => 20 * d.rowdim / 32

/-- SRAM bytes of a unit. -/
def granSram : Nat := 8388608

/-- The limits of Table 11-1: whether each holds, with the least offset among the fields it involves. -/
def GDesc.limits (d : GDesc) (bwd : Bool) (rest : Nat) : List (Bool × Nat) :=
  let mult (v : DWord) (n : Nat) : Bool := v.toNat % n == 0
  let dim (n hi : Nat) : Bool := n % 32 == 0 && decide (32 ≤ n) && decide (n ≤ hi)
  let both : List (Bool × Nat) :=
    [ (dim d.rowdim 4096, 0x30), (decide (4 ≤ d.c) && decide (d.c ≤ 8192), 0x34), (decide (1 ≤ d.k) && decide (d.k ≤ 32), 0x36),
      (decide (d.k ≤ d.c), 0x34), (decide (1 ≤ d.h) && decide (d.h ≤ 8), 0x37), (rest == 0, 0x3E) ]
  if bwd then
    both ++ [ (mult d.qaddr 4, 0x00), (d.k1base == 0, 0x08), (d.k2base == 0, 0x10), (mult d.vbase 16, 0x18), (d.obase == 0, 0x20),
      (mult d.iwbase 8 && d.iwbase != 0, 0x28), (d.qdim == 0, 0x32), (d.tag == 0, 0x38), (d.sw == 0, 0x3A), (d.ow == 0, 0x3B),
      (d.fmt == 0, 0x3C), (d.flags == 0, 0x3D) ]
  else
    both ++ [ (mult d.qaddr 2, 0x00), (mult d.k1base 64, 0x08), (mult d.k2base 64, 0x10), (mult d.vbase 64, 0x18), (mult d.obase 4, 0x20),
      (if d.riw then mult d.iwbase 8 && d.iwbase != 0 else d.iwbase == 0, 0x28), (dim d.qdim 1024, 0x32),
      (winOk d.sw, 0x3A), (winOk d.ow, 0x3B), (decide (d.fmt < 8), 0x3C), (decide (d.flags < 2), 0x3D),
      (decide (d.tableBytes ≤ granSram), 0x32) ]

/-- The offset a broken descriptor is reported at. -/
def GDesc.bad (d : GDesc) (bwd : Bool) (rest : Nat) : Option Nat := (((d.limits bwd rest).filter (fun l => !l.1)).map (fun l => l.2)).min?

/-! ## The instructions (R280 to R285) -/

/-- The unit that serves a cluster (R272). -/
def granUnitOf (c : Nat) : Nat := 2 * (c / 64) + c % 64 / 32

def State.gran (s : State) (u : Nat) : GranUnit := Tab.get GranUnit.new s.grans u
def State.updGran (s : State) (u : Nat) (f : GranUnit → GranUnit) : State := { s with grans := Tab.put GranUnit.new s.grans u (f (s.gran u)) }

/-- Room in a unit's queue: 16 besides the one it serves (R285). -/
def GranUnit.room (g : GranUnit) : Bool := decide (g.queue.length < if g.run.isSome then 16 else 17)

/-- Granary operations whose status is kept (R283). -/
def granKeep : Nat := 256

/-- An operation is numbered and queued. -/
def State.granAccept (s : State) (e : Env) (t : TRef) (bwd : Bool) (d : GDesc) (wr : DWord → List RegVal) : State :=
  let c := coreCluster e.core
  let (s, n) := s.nextNum c 3 t.blk
  let s := s.updCluster c (fun k => { k with granStat := keepStat granKeep n k.granStat n ⟨0, 0, false⟩ })
  let s := s.updGran (granUnitOf c) (fun g => { g with queue := g.queue ++ [⟨n, e.ctx, c, t, bwd, d⟩] })
  s.owe e true (wr (BitVec.ofNat 64 n))

/-- PKQ and PKG: the descriptor is read and checked once, at issue. -/
def granIssue (op : Op) (f : FmtA) (bwd : Bool) (s : State) : Host.Outcome State Fault Refusal :=
  laneStep op (.a f) (fun s e =>
    let va := e.pair f.a
    match e.lane with
    | .tile _ => (s, .fault (.of 0x02))
    | .thr t =>
      let s := s.settle t
      match s.access e.core e.ctx e.blk ⟨.read, false, fmtRaw, true⟩ 64 va 64 with
      | (s, .error x) => (s, .fault x)
      | (s, .ok (keys, _)) =>
        match s.readBytes e va keys with
        | (s, .error x) => (s, .fault x)
        | (s, .ok bs) =>
          let d := GDesc.of bs
          match d.bad bwd (hdrNat bs 0x3E 2) with
          | some o => (s, .fault { FInfo.of 0x16 with va := some (va + BitVec.ofNat 64 o) })
          | none =>
            if (s.gran (granUnitOf (coreCluster e.core))).room then (s.granAccept e t bwd d (fun n => toW f.wbs f.d (lohi n)), .stay)
            else (s, .hold (.engine ⟨if bwd then waitPkg else waitPkq, 0, 0, bytesToWords bs, f.d.toNat, e.slot, f.wbs⟩))) s

def execPkq (f : FmtA) (s : State) : Host.Outcome State Fault Refusal := granIssue .pkq f false s
def execPkg (f : FmtA) (s : State) : Host.Outcome State Fault Refusal := granIssue .pkg f true s

def execPkstat (f : FmtA) (s : State) : Host.Outcome State Fault Refusal :=
  laneStep .pkstat (.a f) (longRegs (fun s e =>
    let n := (e.pair f.a).toNat
    let c := s.cluster (s.numCluster e.blk 3 n)
    toW f.wbs f.d [numStatus (c.tl 3) granKeep c.granStat n])) s

/-! ## Serving an operation -/

/-- Pages of one format, GEO 0 where blocks are meant. -/
def fmtIs (n : Nat) (pte : DWord) : Bool := pteFmt pte == n && (!isBfp n || pteGeo pte == 0)

/-- Bytes an operation reads. -/
def State.granRead (s : State) (o : GranOp) (n : Nat) (va : DWord) (len : Nat) : Except FInfo (List Byte) :=
  s.engRead o.ctx o.t.blk ⟨.read, false, fmtIs n, false⟩ 1 va len

/-- bf16 elements of bytes. -/
def halvesOf : List Byte → List NumVal
  | a :: b :: t => fmtBf16.decode (a.toNat + 256 * b.toNat) :: halvesOf t
  | _ => []

/-- f32 elements of bytes. -/
def floatsOf (bs : List Byte) : List NumVal := (bytesToWords bs).map f32

/-- The poison key of resident tables (log entry 17). -/
def granKey (u ctx tag : Nat) : Nat := 2 ^ 180 + ((u * 64 + ctx) * 65536 + tag) * 8

/-- The tables of an operation: the resident copy, or K1 and K2 from memory (R273); the bytes of K1 then K2. -/
def State.granTables (s : State) (u : Nat) (o : GranOp) : Except FInfo (List Byte × Bool) :=
  let d := o.desc
  let half := d.h * d.c * d.qdim
  match (if d.tag = 0 then none else (s.gran u).tabs.find? (fun t => t.ctx == o.ctx && t.tag == d.tag && t.h == d.h && t.c == d.c && t.d == d.qdim)) with
  | some t => if s.memBad [granKey u o.ctx d.tag] then .error (.of 0x10) else .ok (t.keys, true)
  | none =>
    match s.granRead o 2 d.k1base half, s.granRead o 2 d.k2base half with
    | .error e, _ => .error e
    | _, .error e => .error e
    | .ok a, .ok b => .ok (a ++ b, false)

/-- Tables kept most recent first, the least recently used evicted to make room. -/
def keepTabs : Nat → List GranTab → List GranTab
  | _, [] => []
  | room, t :: ts => if room < t.keys.length then [] else t :: keepTabs (room - t.keys.length) ts

/-- A unit's tables after an operation used or loaded them. -/
def State.granTouch (s : State) (u : Nat) (o : GranOp) (keys : List Byte) (resident : Bool) : State :=
  let d := o.desc
  let others := (s.gran u).tabs.filter (fun t => !(t.ctx == o.ctx && t.tag == d.tag))
  let room := granSram - keys.length
  let s := if resident then s else { s with poison := s.poison.filter (fun g => g != 2 * (granKey u o.ctx d.tag / 8)) }
  let tabs : List GranTab :=
    if d.tag = 0 then keepTabs room (s.gran u).tabs else ⟨o.ctx, d.tag, d.h, d.c, d.qdim, keys⟩ :: keepTabs room others
  s.updGran u (fun g => { g with tabs := tabs })

/-- x stands before y in selection order: greater first, then the lower index (R277). -/
def selectedBefore (x y : Word × Nat) : Bool := aboveF x.1 y.1 || (!aboveF y.1 x.1 && decide (x.2 ≤ y.2))

/-- The k greatest, in selection order. -/
def topK (k : Nat) (xs : List (Word × Nat)) : List (Word × Nat) := (xs.mergeSort selectedBefore).take k

/-- The score of a query half against a key (R276). -/
def keyScore (sw : Int) (q key : List NumVal) : Word :=
  drainF32 ((q.zip key).foldl (fun b p => contribute b sw (NumVal.mul p.1 p.2)) 0) sw

/-- The scores of one half for head h: every key's score with its index. -/
def halfScores (d : GDesc) (table : List Byte) (h : Nat) (q : List NumVal) : List (Word × Nat) :=
  (List.range d.c).map (fun c => (keyScore d.sw q (halvesOf ((table.drop (d.qdim * (h * d.c + c))).take d.qdim)), c))

/-- The selected rows of head h with their weights (R276). -/
def headRows (d : GDesc) (keys query : List Byte) (h : Nat) : List (Nat × Word) :=
  let q := halvesOf ((query.drop (2 * d.qdim * h)).take (2 * d.qdim))
  let n := d.h * d.c * d.qdim
  let t1 := topK d.k (halfScores d (keys.take n) h (q.take (d.qdim / 2)))
  let t2 := topK d.k (halfScores d (keys.drop n) h (q.drop (d.qdim / 2)))
  let sel := topK d.k ((t1.map (fun a => t2.map (fun b => (faddV .rn a.1 b.1, a.2 * d.c + b.2)))).flatten)
  let mx := (sel.headD (0, 0)).1
  let es := sel.map (fun x => fexpN (f32 (fsubV .rn x.1 mx)))
  let z := drainF32 (es.foldl (fun b e => contribute b (-64) (f32 e)) 0) (-64)
  (sel.zip es).map (fun x => (x.1.2, fdivN (f32 x.2) (f32 z)))

/-- The elements of a value row (R276). -/
def rowElems (vfmt : Nat) (bs : List Byte) : List NumVal :=
  let bfp (b : Nat) : List NumVal :=
    let st := bfpStride b 32
    ((List.range (bs.length / st)).map (fun k =>
      let blk := (bs.drop (st * k)).take st
      let raw := leVal (blk.drop 4)
      (List.range 32).map (fun i => bfpValue b (blk.headD 0).toNat (raw / 2 ^ (b * i))))).flatten
  match vfmt with
  | 0 => halvesOf bs
  | 1 => floatsOf bs
  | 2 => bfp 8
  | _ => bfp 4

/-- The page format that VFMT names. -/
def valueFmt (vfmt : Nat) : Nat := match vfmt with | 0 => 2 | 1 => 1 | 2 => 5 | _ => 9

/-- The output bins over the weighted rows. -/
def outBins (d : GDesc) (rows : List (Word × List NumVal)) : List BinBits :=
  (List.range d.rowdim).map (fun c => rows.foldl (fun b r => contribute b d.ow (NumVal.mul (f32 r.1) (r.2.getD c .nan))) 0)

/-- Where an operation will write bytes, every page checked; bound regions are looked at when it writes (R279, R282). -/
def State.granPlace (s : State) (o : GranOp) (fmt : DWord → Bool) (va : DWord) (bs : List Byte) :
    Except FInfo (List (DWord × Nat × DWord × List Byte)) :=
  match s.engAccess o.ctx o.t.blk ⟨.write, false, fmt, false⟩ 1 va bs.length with
  | .error e => .error e
  | .ok ps =>
    .ok (ps.foldl (fun (acc : List (DWord × Nat × DWord × List Byte) × Nat) p =>
      (acc.1 ++ [(va + BitVec.ofNat 64 acc.2, p.1, p.2.2, (bs.drop acc.2).take p.2.1)], acc.2 + p.2.1)) ([], 0)).1

/-- PKQ served: its reads, its results, and the checks of what it will write (R276 to R278). With no output it gathers no value row (log entry 90). -/
def State.pkqRun (s : State) (u : Nat) (o : GranOp) : Except FInfo (State × GranResult) :=
  let d := o.desc
  match s.granRead o 2 d.qaddr (2 * d.qdim * d.h) with
  | .error e => .error e
  | .ok query =>
    match s.granTables u o with
    | .error e => .error e
    | .ok (keys, resident) =>
      let s := s.granTouch u o keys resident
      let sel := (List.range d.h).map (headRows d keys query)
      let rows := if d.obase = 0 then [] else sel.flatten
      match mapE (fun (r : Nat × Word) => match s.granRead o (valueFmt d.vfmt) (d.vbase + BitVec.ofNat 64 (r.1 * d.stride)) d.stride with
        | .error e => .error e
        | .ok bs => .ok (r.2, rowElems d.vfmt bs)) rows with
      | .error e => .error e
      | .ok vs =>
        let bins := if d.obase = 0 then [] else outBins d vs
        let out := (bins.map (fun b => if d.outHalf then leBytes 2 (drainBf16 b d.ow) else leBytes 4 (drainF32 b d.ow).toNat)).flatten
        let record := if d.riw then (sel.flatten.map (fun r => leBytes 4 r.1 ++ leBytes 4 r.2.toNat)).flatten else []
        let want (pte : DWord) : Bool := pteFmt pte == 0 || pteFmt pte == (if d.outHalf then 2 else 1)
        match s.granPlace o want d.obase out, s.granPlace o fmtRaw d.iwbase record with
        | .error e, _ => .error e
        | _, .error e => .error e
        | .ok a, .ok b => .ok (s, ⟨a ++ b, [], bins.any drainOvf, none⟩)

/-- The bins of one entry of a PKG: D bins of the row, each with its factors (R279). -/
def State.pkgRow (s : State) (o : GranOp) (g : List Word) (at_ : DWord) (row : Nat) (w : Word) :
    Except FInfo (List (DWord × Nat × Int × Word × Word)) :=
  let d := o.desc
  if d.c * d.c ≤ row then .error { FInfo.of 0x16 with va := some at_ }
  else
    let va := d.vbase + BitVec.ofNat 64 (16 * (row * d.rowdim))
    match s.engAccess o.ctx o.t.blk ⟨.write, true, fmtBin true, false⟩ 16 va (16 * d.rowdim) with
    | .error e => .error e
    | .ok ps =>
      if s.memBad (partKeys ps) then .error (.acc 0x10 va .write)
      else
        .ok ((ps.foldl (fun (acc : List (DWord × Nat × Int × Word × Word) × Nat) p =>
          (acc.1 ++ (List.range (p.2.1 / 16)).map (fun i =>
            (va + BitVec.ofNat 64 (16 * (acc.2 + i)), p.1 + 16 * i, pteWin p.2.2, w, g.getD (acc.2 + i) 0)), acc.2 + p.2.1 / 16)) ([], 0)).1)

/-- PKG served: record, gradient and rows are read and checked (R279). -/
def State.pkgRun (s : State) (o : GranOp) : Except FInfo GranResult :=
  let d := o.desc
  match s.granRead o 0 d.iwbase (8 * d.h * d.k), s.granRead o 1 d.qaddr (4 * d.rowdim) with
  | .error e, _ => .error e
  | _, .error e => .error e
  | .ok rec_, .ok gb =>
    let ws := bytesToWords rec_
    match mapE (fun i => s.pkgRow o (bytesToWords gb) (d.iwbase + BitVec.ofNat 64 (8 * i)) (ws.getD (2 * i) 0).toNat (ws.getD (2 * i + 1) 0))
        (List.range (d.h * d.k)) with
    | .error e => .error e
    | .ok rows => .ok ⟨[], rows.flatten, false, none⟩

/-- The result of an operation that failed. -/
def GranResult.failed (f : FInfo) : GranResult := ⟨[], [], false, some (f.cause, f.va, f.wr)⟩

/-- GRANARY_OPERATION: the unit serves its next operation, unless a record of its cluster's Granary still waits for the queue (R346). -/
def execGranaryOperation (u : Nat) (s : State) : Host.Outcome State Fault Refusal :=
  let g := s.gran u
  match g.queue, g.run with
  | o :: rest, none =>
    if s.enginePosting o.c 3 then .next s
    else
      let s := s.updGran u (fun g => { g with queue := rest })
      let s := s.updCluster o.c (fun k => { k with granStat := keepStat granKeep (k.tl 3).issued k.granStat o.num ⟨1, 0, false⟩ })
      let done (s : State) (r : GranResult) : State := s.updGran u (fun g => { g with run := some (o, r) })
      if o.bwd then
        match s.pkgRun o with
        | .error f => .next (done s (.failed f))
        | .ok r => .next (done s r)
      else
        match s.pkqRun u o with
        | .error f => .next (done s (.failed f))
        | .ok (s, r) => .next (done s r)
  | _, _ => .next s

/-- A write into a region whose object the issuing block does not hold (R179, R279). -/
def State.granUnheld (s : State) (o : GranOp) (r : GranResult) : Option DWord :=
  let spans : List (DWord × Nat) := r.writes.map (fun (w : DWord × Nat × DWord × List Byte) => (w.1, w.2.2.2.length)) ++
    r.adds.map (fun (a : DWord × Nat × Int × Word × Word) => (a.1, 16))
  (spans.find? (fun w => s.unheld o.ctx o.t.blk w.1 w.2)).map (fun w => w.1)

/-- What the operation writes is written, whole. -/
def State.granWrite (s : State) (o : GranOp) (r : GranResult) : State :=
  let core := s.homeCore o.t.blk (4 * o.c)
  let s := r.writes.foldl (fun s w => s.engPut o.ctx core o.t [(w.2.1, w.2.2.2.length, w.2.2.1)] w.2.2.2) s
  r.adds.foldl (fun s a => s.engAdd o.t.blk a.2.1 a.2.2.1 a.2.2.2.1 a.2.2.2.2) s

/-- GRANARY_OPERATION_DONE: all of the results are written, or none; records, status and timeline (R278, R282). -/
def execGranaryOperationDone (u : Nat) (s : State) : Host.Outcome State Fault Refusal :=
  match (s.gran u).run with
  | none => .next s
  | some (o, r0) =>
    let r := match r0.fail, s.granUnheld o r0 with
      | none, some va => GranResult.failed (.acc 0x0B va .write)
      | _, _ => r0
    let s := s.updGran u (fun g => { g with run := none })
    let core := s.homeCore o.t.blk (4 * o.c)
    let (s, st) : State × Stat := match r.fail with
      | some (c, va, wr) => (s.engineReport o.ctx 5 o.t c va wr o.num (.engine o.c 3), ⟨3, c, false⟩)
      | none =>
        let s := s.granWrite o r
        (if r.ovf then s.engineReport o.ctx 5 o.t 0x12 none false o.num (.engine o.c 3) else s, ⟨2, 0, r.ovf⟩)
    let s := s.updCluster o.c (fun k => { k with granStat := keepStat granKeep (k.tl 3).issued k.granStat o.num st })
    .next ((s.tlFinish o.c 3 o.num).phHere o.ctx core ⟨0, 0, -1, 0, 0⟩)

end Sys2Proof.Machine
end

