-- ==== Sys2Proof/Machine/Tasks.lean ====
section
/-!
DEFINITION. Task records, launches, items, dispatch and placement (R314 to R326).
-/

namespace Sys2Proof.Machine

/-! ## Task records (R314, R315) -/

/-- The fields of Table 15-1 from the 64 bytes. -/
def TaskRec.of (h : List Byte) : TaskRec :=
  let d (o : Nat) : DWord := BitVec.ofNat 64 (hdrNat h o 8)
  let w (o : Nat) : Word := BitVec.ofNat 32 (hdrNat h o 4)
  { entry := d 0x00, arg := d 0x08, tx := w 0x10, ty := w 0x14, tz := w 0x18, flags := w 0x1C, succ := d 0x20, lid := hdrNat h 0x28 6,
    graph := hdrNat h 0x2E 6, phase := hdrNat h 0x34 6, job := hdrNat h 0x3A 6 }

/-- The fields of Table 15-2. -/
def TaskRec.kind (r : TaskRec) : Nat := (r.flags.extractLsb' 0 2).toNat
def TaskRec.prot (r : TaskRec) : Nat := (r.flags.extractLsb' 2 2).toNat
def TaskRec.prio (r : TaskRec) : Nat := (r.flags.extractLsb' 4 4).toNat
def TaskRec.scr (r : TaskRec) : Nat := (r.flags.extractLsb' 8 10).toNat

/-- The limits of Tables 15-1 and 15-2 on a record's own fields. -/
def TaskRec.shapeOk (r : TaskRec) : Bool :=
  decide (r.kind ≤ 1) && r.flags.extractLsb' 18 14 == 0 && r.succ.toNat % 16 == 0 && r.lid == 0 &&
    (if r.kind = 0 then r.prot != 3
     else r.entry == 0 && r.tx == 0 && r.ty == 0 && r.tz == 0 && r.prot == 0 && r.scr == 0)

/-- The unit that makes a record: its context and levels; `host` for a record from outside, which names them itself (R314). `after` names the commit that
what it makes must not start before, by block and epoch. -/
structure Creator where
  ctx   : Nat
  graph : Nat
  phase : Nat
  job   : Nat
  host  : Bool
  after : List (Nat × Nat)

/-- The creator that a launch's work is. -/
def State.creatorOf (s : State) (ctx lid : Nat) : Creator :=
  match s.launch? lid with
  | some l => ⟨l.ctx, l.graph, l.phase, l.job, false, []⟩
  | none => ⟨ctx, 0, 0, 0, false, []⟩

/-- A live level of this id stands under that parent. -/
def parentIs (t : Tab Level) (id parent : Nat) : Bool :=
  match Tab.find t id with
  | some l => l.complete || l.parent == parent
  | none => true

/-- The level ids a record names fit its creator (Table 15-1, R314). -/
def TaskRec.idsOk (r : TaskRec) (c : Ctx) (k : Creator) : Bool :=
  if k.host then
    r.graph != 0 && r.phase != 0 && r.job != 0 && parentIs c.graphs r.graph r.phase && parentIs c.phases r.phase r.job
  else
    (r.phase == 0 || r.phase == k.phase) && (r.job == 0 || r.job == k.job) && (r.graph == 0 || parentIs c.graphs r.graph k.phase)

/-- A record that breaks no limit. -/
def State.recOk (s : State) (k : Creator) (r : TaskRec) : Bool :=
  r.shapeOk && (match Tab.find s.ctxs k.ctx with | some c => r.idsOk c k | none => false)

/-- The levels that will hold what a record makes. -/
def TaskRec.under (r : TaskRec) (k : Creator) : Creator :=
  { k with graph := if r.graph = 0 then k.graph else r.graph, phase := if r.phase = 0 then k.phase else r.phase,
           job := if r.job = 0 then k.job else r.job }

/-- One of the levels has been cancelled. -/
def State.cutOff (s : State) (u : Creator) : Bool :=
  match Tab.find s.ctxs u.ctx with
  | none => true
  | some c => c.dying || levelCancelled c.graphs u.graph || levelCancelled c.phases u.phase || levelCancelled c.jobs u.job

/-- A refused work record (R315): its cause and its address or window offset. -/
def State.refuse (s : State) (ctx lid cause : Nat) (va : DWord) : State := s.report ctx ⟨cause, 0, 7, 1, 0, lid, 0, va, 0⟩ .report

/-! ## Ready queues (R324) -/

def State.die (s : State) (d : Nat) : Die := Tab.get Die.new s.dies d
def State.updDie (s : State) (d : Nat) (f : Die → Die) : State := { s with dies := Tab.put Die.new s.dies d (f (s.die d)) }

/-- A change in every die, and in every cluster. -/
def State.everyDie (s : State) (f : Die → Die) : State := (s.dies.map (fun p => p.1)).foldl (fun s d => s.updDie d f) s
def State.everyCluster (s : State) (f : Cluster → Cluster) : State := (s.clusters.map (fun p => p.1)).foldl (fun s c => s.updCluster c f) s

/-- Records of a ready queue at most. -/
def readyMax : Nat := 65536

def State.readyRoom (s : State) (d : Nat) : Bool := decide ((s.die d).ready.length < readyMax)

/-- A launch-level unit at its start. -/
def Launch.make (u : Creator) (r : TaskRec) (count : Nat) (d : LDesc) (lo hi : Nat) : Launch :=
  { ctx := u.ctx, graph := u.graph, phase := u.phase, job := u.job, prio := r.prio, count := count, complete := false, cancelled := false,
    failed := false, succ := r.succ, desc := d, lo := lo, hi := hi, curZ := 0, curD := 0, victim := false, placed := 0, skips := [],
    cuts := [], bads := [], after := u.after, dies := [] }

/-- A record joins a ready queue. A task gets its launch id at once; a KIND 1 record gets one when it is performed. A host's record brings the
levels it names (log entry 21). -/
def State.queueRec (s : State) (d : Nat) (k : Creator) (r : TaskRec) (addr : DWord) : State :=
  let u := r.under k
  let s := if k.host then s.updCtx k.ctx (fun c => c.openHost u.phase u.job s.startCores) else s
  let (s, lid) :=
    if r.kind = 0 then s.newLaunch (Launch.make u r 1 LDesc.none 0 0)
    else (s.updCtx u.ctx (fun c => c.openGraph u.graph u.phase), 0)
  s.updDie d (fun q => { q with ready := q.ready ++ [⟨u.ctx, lid, addr, r, u.graph, u.phase, u.job⟩] })

/-! ## SPAWN (R321, R322) -/

/-- The commit that performs what a thread's block holds for it: held operations keep their order before an engine issue (R199, R321). -/
def State.heldBy (s : State) (e : Env) : List (Nat × Nat) :=
  let k := s.holder e.blk
  match s.block? k with
  | some b => if b.held.any (fun h => h.acts && h.by ⟨k, e.tid / 32, e.tid % 32⟩) then [(k, b.epoch)] else []
  | none => []

/-- The commits have been made, or their blocks are gone. -/
def State.lifted (s : State) (after : List (Nat × Nat)) : Bool :=
  after.all (fun a => match s.block? a.1 with | some b => b.epoch != a.2 | none => true)

/-- The launch's start waits for no commit. -/
def State.launchLifted (s : State) (lid : Nat) : Bool := match s.launch? lid with | some l => s.lifted l.after | none => true

/-- The creator that a thread is. -/
def State.maker (s : State) (e : Env) : Creator := { s.creatorOf e.ctx (s.lidOf e.blk) with after := s.heldBy e }

def execSpawn (f : FmtA) (s : State) : Host.Outcome State Fault Refusal :=
  laneStep .spawn (.a f) (fun s e =>
    let va := e.pair f.a
    match rawReader e (s.settleLane e) 64 va 64 with
    | (s, .error x) => (s, .fault x)
    | (s, .ok bs) =>
      let r := TaskRec.of bs
      let k := s.maker e
      if r.kind ≠ 0 ∨ s.recOk k r = false then (s, .fault (.of 0x03))
      else if s.blkCut e.blk || s.cutOff (r.under k) then (s, .stay)
      else if s.readyRoom (coreDie e.core) then (s.queueRec (coreDie e.core) k r va, .stay)
      else match e.lane with
        | .thr _ => (s, .hold (.engine ⟨waitSpawn, va, 0, bytesToWords bs, 0, 7, true⟩))
        | .tile _ => (s, .wait)) s

/-! ## SPAWNI (R323) -/

/-- Items of a full item warp. -/
def warpItems : Nat := 32

/-- A gathering becomes an item warp with the cluster's next sequence number. -/
def Cluster.form (c : Cluster) (g : Gather) : Cluster :=
  { c with formed := c.formed ++ [{ g with seq := c.itemSeq }], itemSeq := c.itemSeq + 1 }

/-- An item joins those of its launch bound for its entry address. -/
def Cluster.addItem (c : Cluster) (ctx lid : Nat) (entry : DWord) (pay : List Word) (now : Nat) (after : List (Nat × Nat)) : Cluster :=
  let mine (g : Gather) : Bool := g.ctx == ctx && g.lid == lid && g.entry == entry
  let g := (c.gather.find? mine).getD ⟨ctx, lid, entry, [], now, 0, []⟩
  let g := { g with items := g.items ++ [pay], after := g.after ++ after.filter (fun a => !g.after.contains a) }
  let rest := c.gather.filter (fun x => !mine x)
  if warpItems ≤ g.items.length then { c with gather := rest }.form g else { c with gather := rest ++ [g] }

def execSpawni (f : FmtA) (s : State) : Host.Outcome State Fault Refusal :=
  laneStep .spawni (.a f) (fun s e =>
    let entry := e.pair f.a
    if entry.toNat % 4 ≠ 0 then (s, .fault (.of 0x0C))
    else
      let s := s.settleLane e
      if s.blkCut e.blk then (s, .stay)
      else
        let lid := s.lidOf e.blk
        let pay := (List.range 4).map (fun i => e.reg (f.b.toNat + i))
        let s := s.updLaunch lid (fun l => { l with count := l.count + 1 })
        (s.updCluster (coreCluster e.core) (fun c => c.addItem e.ctx lid entry pay s.clk.toNat (s.heldBy e)), .stay)) s

/-- MHz of a clock step (Table 18-6). -/
def stepMhz (step : Nat) : Nat := 800 - 80 * step

/-- A number of core cycles of a die has passed since a time in ns. -/
def State.cyclesPast (s : State) (d since n : Nat) : Bool :=
  decide (n * 1000 ≤ (s.clk.toNat - since) * stepMhz (s.die d).step)

/-- ITEM_GATHER_TIMEOUT: 256 cycles after its first item. -/
def execItemGatherTimeout (c : Nat) (entry : DWord) (s : State) : Host.Outcome State Fault Refusal :=
  match (s.cluster c).gather.find? (fun g => g.entry == entry && s.cyclesPast (c / 64) g.start 256) with
  | none => .next s
  | some g => .next (s.updCluster c (fun k => ({ k with gather := k.gather.erase g } : Cluster).form g))

/-! ## Launch descriptors (R319, R320) -/

/-- The fields of Table 15-4 from the 64 bytes. -/
def LDesc.of (h : List Byte) : LDesc :=
  let d (o : Nat) : DWord := BitVec.ofNat 64 (hdrNat h o 8)
  { entry := d 0x00, arg := d 0x08, gx := hdrNat h 0x10 4, gy := hdrNat h 0x14 4, gz := hdrNat h 0x18 4, threads := hdrNat h 0x1C 2,
    regs := hdrNat h 0x1E 1, unif := hdrNat h 0x1F 1, scratch := hdrNat h 0x20 4, loft := hdrNat h 0x24 4, heap := d 0x28,
    quota := hdrNat h 0x30 4, lflags := BitVec.ofNat 32 (hdrNat h 0x34 4), group := d 0x38 }

def LDesc.prot (d : LDesc) : Nat := (d.lflags.extractLsb' 0 2).toNat
def LDesc.grid (d : LDesc) : Bool := d.lflags.getLsbD 2
def LDesc.record (d : LDesc) : Bool := d.lflags.getLsbD 3
/-- Blocks of the launch. -/
def LDesc.blocks (d : LDesc) : Nat := d.gx * d.gy * d.gz

/-- The limits of Table 15-4. -/
def LDesc.ok (d : LDesc) : Bool :=
  decide (1 ≤ d.gx) && decide (1 ≤ d.gy) && decide (1 ≤ d.gz) && decide (d.blocks < 2 ^ 32) &&
    decide (1 ≤ d.threads) && decide (d.threads ≤ 256) && decide (8 ≤ d.regs) && decide (d.regs ≤ 128) && d.regs % 8 == 0 &&
    decide (16 ≤ d.unif) && decide (d.unif ≤ 64) && d.unif % 8 == 0 && decide (d.scratch ≤ 262144) && d.scratch % 16 == 0 &&
    d.loft % 64 == 0 && d.heap.toNat % 16 == 0 && d.quota % 16 == 0 && (d.heap != 0 || d.quota == 0) && d.prot != 3 &&
    d.lflags.extractLsb' 4 28 == 0 && d.group.toNat % 64 == 0

/-- Bounds of rank r's share of n blocks over N ranks. -/
def shareOf (n ranks r : Nat) : Nat × Nat := (r * n / ranks, (r + 1) * n / ranks)

/-! ## Placement (R325) -/

/-- The order k of the square of side 2^k that covers the grid. -/
def LDesc.order (d : LDesc) : Nat := let m := max d.gx d.gy; if m ≤ 1 then 0 else Nat.log2 (m - 1) + 1

/-- A block's place on the curve: z, d and its coordinates. -/
structure GridPoint where
  z : Nat
  d : Nat
  x : Nat
  y : Nat

/-- The linear index of a block. -/
def LDesc.index (d : LDesc) (p : GridPoint) : Nat := p.x + d.gx * (p.y + d.gy * p.z)

/-- The first point from (z, d) on that is a block to be placed. -/
def Launch.seek (l : Launch) : Nat → Nat → Nat → Option GridPoint
  | 0, _, _ => none
  | fuel + 1, z, d =>
    if l.desc.gz ≤ z then none
    else if 4 ^ l.desc.order ≤ d then l.seek fuel (z + 1) 0
    else
      let h := hilbert l.desc.order d
      let p : GridPoint := ⟨z, d, h.1, h.2⟩
      let i := l.desc.index p
      if p.x < l.desc.gx ∧ p.y < l.desc.gy ∧ l.lo ≤ i ∧ i < l.hi ∧ l.skips.contains i = false then some p else l.seek fuel z (d + 1)

/-- The next block in the order of the curve. -/
def Launch.next (l : Launch) : Option GridPoint :=
  l.seek (l.desc.gz * (4 ^ l.desc.order + 1)) l.curZ l.curD

/-- Blocks of the share neither placed nor skipped. -/
def Launch.rest (l : Launch) : Nat := l.hi - l.lo - l.placed - l.skips.length

/-- What block `i` of a kernel launch is when it starts. -/
def Launch.start (l : Launch) (lid i : Nat) : Start :=
  let d := l.desc
  { ctx := l.ctx, lid := lid, idx := i, kind := .kernel, regs := d.regs, unif := d.unif, nthr := d.threads, size := d.scratch, loft := d.loft,
    prot := d.prot, grid := d.grid, heap := d.heap, quota := d.quota, entry := d.entry }

/-- A launch's next block is placed; none when there is none or no room. -/
def State.placeNext (s : State) (lid : Nat) : Option State :=
  match s.launch? lid with
  | none => none
  | some l =>
    match l.next with
    | none => none
    | some p =>
      let d := l.desc
      let w (n : Nat) : Word := BitVec.ofNat 32 n
      (s.placeBlock (l.start lid (d.index p)) (fun base =>
        entryUni (w (d.index p)) (w p.x) (w p.y) (w p.z) d.arg lid d.blocks d.threads base d.prot)).map
        (fun r => r.1.updLaunch lid (fun l => { l with curZ := p.z, curD := p.d + 1, placed := l.placed + 1 }))

/-- n blocks of a launch placed together, or none. -/
def State.placeAll : Nat → State → Nat → Option State
  | 0, s, _ => some s
  | n + 1, s, lid => match s.placeNext lid with
    | none => none
    | some s => State.placeAll n s lid

/-- BLOCK_PLACEMENT: a launch's next block where it fits; with GRID all of them together or none (R191). A cancelled launch and a pre-emption
victim get no further block (R336, R374). -/
def execBlockPlacement (l : Nat) (s : State) : Host.Outcome State Fault Refusal :=
  match s.launch? l with
  | none => .next s
  | some k =>
    if k.complete || k.victim || s.lidCancelled l || k.rest == 0 || !s.lifted k.after then .next s
    else if k.desc.grid then .next ((State.placeAll k.rest s l).getD s)
    else .next ((s.placeNext l).getD s)

/-- The device with nothing running, for the residency rule of R320. -/
def State.bare (s : State) (ctx : Nat) : State :=
  { s.updCtx ctx (fun c => { c with loftUsed := [0, 0, 0, 0] }) with blocks := [], issues := [], dev := { s.dev with siloLoad := none } }

/-- A launch that could never be resident (R191, R320). -/
def State.neverFits (s : State) (u : Creator) (r : TaskRec) (d : LDesc) (lo hi : Nat) : Bool :=
  if hi ≤ lo then false
  else
    let (b, lid) := (s.bare u.ctx).newLaunch (Launch.make u r 0 d lo hi)
    (State.placeAll (if d.grid then hi - lo else 1) b lid).isNone

/-! ## LAUNCH (R320, R322) -/

/-- What a launch will be once it is accepted: its descriptor with its bytes, and the share of this device. -/
structure Plan where
  desc  : LDesc
  bytes : List Byte
  lo    : Nat
  hi    : Nat

/-- A descriptor read and checked, its group, then loft and residency: the causes that LAUNCH gives. -/
def State.plan (s : State) (rd : Reader) (k : Creator) (r : TaskRec) : State × Except FInfo Plan :=
  match rd s 64 r.arg 64 with
  | (s, .error x) => (s, .error x)
  | (s, .ok bs) =>
    let d := LDesc.of bs
    if !d.ok then (s, .error (.of 0x03))
    else
      let g : State × Except FInfo (Nat × Nat) :=
        if d.group = 0 then (s, .ok (0, d.blocks))
        else match s.readGroup k.ctx rd d.group with
          | (s, .error x) => (s, .error x)
          | (s, .ok g) => (s, .ok (shareOf d.blocks g.ranks.length g.me))
      match g with
      | (s, .error x) => (s, .error x)
      | (s, .ok (lo, hi)) =>
        match Tab.find s.ctxs k.ctx with
        | none => (s, .error (.of 0x03))
        | some c =>
          let need := d.loft + commitArea d.prot ((d.threads + 31) / 32)
          if d.record ∧ (c.recbase = 0 ∨ c.recsize = 0) then (s, .error (.of 0x03))
          else if c.loft.all (fun u => decide (u * 65536 < need)) then (s, .error (.of 0x1A))
          else if s.neverFits (r.under k) r d lo hi then (s, .error (.of 0x14))
          else (s, .ok ⟨d, bs, lo, hi⟩)

/-- The regions of the input list at RECIN (R377); none when its count is over 16. -/
def State.recRegions (s : State) (c : Ctx) : Option (List (DWord × Nat)) :=
  if c.recin = 0 then some []
  else
    let n := leVal (s.rawBytes c c.recin 4)
    if 16 < n then none
    else some ((List.range n).map (fun i =>
      let h := s.rawBytes c (c.recin + BitVec.ofNat 64 (16 + 16 * i)) 16
      (BitVec.ofNat 64 (leVal (h.take 8)), leVal (h.drop 8))))

/-- The digest of a log entry. -/
def recDigest (bs : List Byte) : List Byte := (Config.shake256 32 bs ++ List.replicate 32 0).take 32

/-- The launch of the log that a re-run launch stands for: the one that follows those already re-run (log entry 77). -/
def State.recNext (s : State) (c : Ctx) : Option Nat := (recLaunches (s.recLog c))[c.recmap.length]?

/-- The start of a RECORD launch (R377, R379): the log entries to write, or none for a refusal. A re-run compares the digests of its logged launch and
writes nothing. -/
def State.recStart (s : State) (c : Ctx) (lid : Nat) (arg : DWord) (p : Plan) : Option (List Byte) :=
  match s.recRegions c with
  | none => none
  | some rs =>
    if c.rerun then
      let same (e : RecEntry) : Bool :=
        if some e.launch ≠ s.recNext c then true
        else if e.type = 1 then e.tail == recDigest p.bytes
        else if e.type = 2 then e.tail == recDigest (s.rawBytes c e.addr e.content.length)
        else true
      if (s.recLog c).all same then some [] else none
    else
      some (recContent 1 lid 0 arg p.bytes ++ (rs.map (fun r => recContent 2 lid 0 r.1 (s.rawBytes c r.1 r.2))).flatten)

/-- How an accepted launch goes on. -/
inductive Go where
  | wait
  | refused (cause : Nat)
  | done (s : State) (lid : Nat)

/-- A launch is accepted: it gets its id and counter. A RECORD launch writes its first log entries, and waits while they find no room. -/
def State.launchGo (s : State) (k : Creator) (r : TaskRec) (p : Plan) : Go :=
  let (t, lid) := s.newLaunch (Launch.make (r.under k) r (p.hi - p.lo) p.desc p.lo p.hi)
  if !p.desc.record then .done t lid
  else
    match Tab.find s.ctxs k.ctx with
    | none => .refused 0x03
    | some c =>
      match s.recStart c lid r.arg p with
      | none => .refused 0x03
      | some bs =>
        if c.rerun then .done (t.updCtx k.ctx (fun c => { c with recmap := c.recmap ++ ((s.recNext c).map (fun l => (lid, l))).toList })) lid
        else if c.recRoom bs.length then .done (if bs = [] then t else t.recPut k.ctx bs) lid else .wait

def execLaunch (f : FmtA) (s : State) : Host.Outcome State Fault Refusal :=
  laneStep .launch (.a f) (fun s e =>
    match rawReader e (s.settleLane e) 64 (e.pair f.a) 64 with
    | (s, .error x) => (s, .fault x)
    | (s, .ok bs) =>
      let r := TaskRec.of bs
      let k := s.maker e
      if r.kind ≠ 1 ∨ s.recOk k r = false then (s, .fault (.of 0x03))
      else
        match s.plan (rawReader e) k r with
        | (s, .error x) => (s, .fault x)
        | (s, .ok p) =>
          if s.blkCut e.blk || s.cutOff (r.under k) then (s.owe e true (toW f.wbs f.d [0, 0]), .stay)
          else match s.launchGo k r p with
            | .wait => (s, .wait)
            | .refused c => (s, .fault (.of c))
            | .done s lid => (s.owe e true (toW f.wbs f.d (lohi (BitVec.ofNat 64 lid))), .stay)) s

/-! ## Records without a thread: successors and entry windows (R318, R326) -/

/-- A unit's reads of RAW pages. -/
def unitReader (ctx : Nat) : Reader := fun s align va n => (s, s.engRead ctx 0 ⟨.read, false, fmtRaw, true⟩ align va n)

/-- A record from a successor counter or a window is queued, or refused with a record (R315). One whose level is cancelled is abandoned. -/
def State.takeRec (s : State) (d lid : Nat) (k : Creator) (r : TaskRec) (addr : DWord) : State :=
  if !s.recOk k r then s.refuse k.ctx lid 0x03 addr
  else if s.cutOff (r.under k) then s
  else s.queueRec d k r addr

/-- The record at a successor address is queued with the finishing unit as creator. -/
def State.queueSucc (s : State) (d lid : Nat) (k : Creator) (addr : DWord) : State :=
  match s.engRead k.ctx 0 ⟨.read, false, fmtRaw, true⟩ 64 addr 64 with
  | .error x => s.refuse k.ctx lid x.cause (x.va.getD addr)
  | .ok bs => if s.lidCancelled lid then s else s.takeRec d lid k (TaskRec.of bs) addr

/-- One decrement of a successor counter (R318). The record that it queues joins the ready queue of the counter's die (log entry 28). -/
def State.countDown (s : State) (lid : Nat) (l : Launch) : State :=
  match s.engAccess l.ctx 0 ⟨.write, true, fmtRaw, true⟩ 16 l.succ 16 with
  | .error x => s.refuse l.ctx lid x.cause l.succ
  | .ok ps =>
    let key := ((ps.map (fun p => p.1)).headD 0)
    if s.memBad ((List.range 16).map (fun i => key + i)) then s.refuse l.ctx lid 0x10 l.succ
    else
      let c : Int := (BitVec.ofNat 32 (leVal (s.mem.bytes key 4)) : Word).toInt
      let next := entryAt s.mem (key + 8)
      let s := s.memWrite (atKeys key (leBytes 4 (BitVec.ofInt 32 (c - 1)).toNat))
      let s := if c = 1 ∧ next ≠ 0 then s.queueSucc (ownerOf key / 64) lid (s.creatorOf l.ctx lid) next else s
      if c ≤ 0 then s.refuse l.ctx lid 0x03 l.succ else s

/-- The ready queue that a counter's successor would join has room. -/
def State.succRoom (s : State) (l : Launch) : Bool :=
  match s.engAccess l.ctx 0 ⟨.write, true, fmtRaw, true⟩ 16 l.succ 16 with
  | .error _ => true
  | .ok ps => s.readyRoom (ownerOf ((ps.map (fun p => p.1)).headD 0) / 64)

/-- The first die from d on, wrapping, that has a healthy cluster (R326). -/
def State.healthyDie (s : State) (d : Nat) : Nat :=
  (((List.range 4).map (fun i => (d + i) % 4)).find? (fun d => (List.range 64).any (fun c => (s.cluster (64 * d + c)).healthy))).getD d

/-- A write to an entry window (R326). None while the ready queue withholds credit. -/
def State.windowWrite (s : State) (slot off : Nat) (data : List Byte) : Option State :=
  match Tab.find s.ctxs slot with
  | none => some s
  | some _ =>
    if data.length ≠ 64 ∨ off % 64 ≠ 0 ∨ 4096 ≤ off then
      some ((s.updCtx slot (fun c => { c with drops := c.drops + 1 })).refuse slot 0 0x03 (BitVec.ofNat 64 off))
    else
      let d := s.healthyDie (off / 1024)
      if s.readyRoom d then some (s.takeRec d 0 ⟨slot, 0, 0, 0, true, []⟩ (TaskRec.of data) (BitVec.ofNat 64 off)) else none

/-! ### Arrivals and the log (R377, R379) -/

/-- Live launches of a context that record. -/
def State.recLive (s : State) (ctx : Nat) : List Nat :=
  (s.launches.filter (fun p => p.2.ctx == ctx && p.2.records && !p.2.complete)).map (fun p => p.1)

/-- The arrivals of a log, each once, whatever launches logged it. -/
def recArrivals (log : List RecEntry) : List RecEntry :=
  (log.filter (fun e => e.type == 3)).foldl (fun es e => if es.any (fun x => x.order == e.order) then es else es ++ [e]) []

/-- What an arrival at the device comes to: it takes effect itself, or on a re-run the log's next arrival takes effect in its place, and nothing once
the log has no more (R379). -/
inductive Arrived where
  | live
  | logged (addr : DWord) (data : List Byte)
  | over

/-- An arrival at the device for a context, by its destination and content. A recording launch logs it first; none while the log has no room. -/
def State.arrival (s : State) (ctx : Nat) (addr : DWord) (data : List Byte) : Option (State × Arrived) :=
  let pos := s.dev.arrivals + 1
  let t := { s with dev := { s.dev with arrivals := pos } }
  match s.recLive ctx, Tab.find s.ctxs ctx with
  | lid :: more, some c =>
    if c.rerun then
      some (t.updCtx ctx (fun c => { c with recpos := c.recpos + 1 }),
        match (recArrivals (s.recLog c))[c.recpos]? with
        | some e => .logged e.addr e.content
        | none => .over)
    else
      let bs := ((lid :: more).map (fun l => recContent 3 l pos addr data)).flatten
      if c.recRoom bs.length then some (t.recPut ctx bs, .live) else none
  | _, _ => some (t, .live)

/-! ## Dispatch (R324) -/

/-- What a freed slice can take: a ready record of the die or an item warp of the cluster. -/
inductive Waiting where
  | ready (r : ReadyRec)
  | items (g : Gather)

def Waiting.prio : Waiting → Nat
  | .ready r => r.task.prio
  | .items _ => 0

/-- A full item warp. -/
def Waiting.full : Waiting → Bool
  | .ready _ => false
  | .items g => decide (warpItems ≤ g.items.length)

/-- The logical id: the launch id of a record, the sequence number of an item warp. -/
def Waiting.id : Waiting → Nat
  | .ready r => r.lid
  | .items g => g.seq

/-- The context and the entry address. -/
def Waiting.entry : Waiting → Nat × DWord
  | .ready r => (r.ctx, r.task.entry)
  | .items g => (g.ctx, g.entry)

/-- The order of R324; `hot` tells which are resident in the core's instruction cache. -/
def Waiting.before (hot : Waiting → Bool) (a b : Waiting) : Bool :=
  decide (b.prio < a.prio) || (a.prio == b.prio && ((hot a && !hot b) || (hot a == hot b &&
    ((a.full && !b.full) || (a.full == b.full && decide (a.id < b.id))))))

/-- The one that comes first. -/
def Waiting.best (hot : Waiting → Bool) : List Waiting → Option Waiting
  | [] => none
  | a :: as => match Waiting.best hot as with
    | none => some a
    | some b => if b.before hot a then some b else some a

/-- A unit's entry address is resident in a core's instruction cache. -/
def State.hot (s : State) (core : Nat) (w : Waiting) : Bool := Config.resident s.clk.toNat core w.entry.1 w.entry.2

/-- A task's block (R316, Table 15-3). -/
def ReadyRec.start (r : ReadyRec) : Start :=
  { ctx := r.ctx, lid := r.lid, idx := 0, kind := .task, regs := 128, unif := 64, nthr := 32, size := 256 * r.task.scr, loft := 0,
    prot := r.task.prot, grid := false, heap := 0, quota := 0, entry := r.task.entry }

/-- An item warp's block (R323, Table 15-3): its region has no byte. -/
def Gather.startOf (g : Gather) : Start :=
  { ctx := g.ctx, lid := g.lid, idx := g.seq, kind := .item, regs := 128, unif := 64, nthr := g.items.length, size := 0, loft := 0, prot := 0,
    grid := false, heap := 0, quota := 0, entry := g.entry }

/-- A record leaves its die's queue. -/
def State.unready (s : State) (d : Nat) (r : ReadyRec) : State := s.updDie d (fun q => { q with ready := q.ready.erase r })

/-- A task starts on a core; its record counts as queued to that core under its phase (Table 6-6, log entry 29). -/
def State.startTask (s : State) (core : Nat) (r : ReadyRec) : Option State :=
  let k := r.task
  (s.placeOn r.start core (fun base => entryUni 0 k.tx k.ty k.tz k.arg r.lid 1 32 base k.prot)).map
    (fun x => (x.1.unready (coreDie core) r).phArrive r.ctx r.phase (s.hereCore r.ctx core) ⟨0, -1, 0, 0, 0⟩)

/-- A KIND 1 record is performed as LAUNCH performs it. -/
def State.startLaunch (s : State) (d : Nat) (r : ReadyRec) : Option State :=
  let k : Creator := ⟨r.ctx, r.graph, r.phase, r.job, false, []⟩
  let task : TaskRec := { r.task with graph := 0, phase := 0, job := 0 }
  match s.plan (unitReader r.ctx) k task with
  | (s, .error x) => some ((s.unready d r).refuse r.ctx 0 x.cause r.addr)
  | (s, .ok p) => match s.launchGo k task p with
    | .wait => none
    | .refused c => some ((s.unready d r).refuse r.ctx 0 c r.addr)
    | .done s _ => some (s.unready d r)

/-- An item warp starts on a core: thread t has item t's payload in w0 to w3. -/
def State.startItems (s : State) (core : Nat) (g : Gather) : Option State :=
  (s.placeOn g.startOf core (fun base => entryUni (BitVec.ofNat 32 g.seq) 0 0 0 0 g.lid 1 g.items.length base 0)).map (fun x =>
    let s := x.1.updBlock x.2 (fun b => b.updWarp 0 (fun w => { w with
      threads := w.threads.zipIdx.map (fun t => t.1.puts ((List.range 4).map (fun i => .w i ((g.items.getD t.2 []).getD i 0)))) }))
    s.updCluster (coreCluster core) (fun c => { c with formed := c.formed.erase g }))

/-- The unit starts on the core, if it fits there now. -/
def State.startOn (s : State) (core : Nat) : Waiting → Option State
  | .ready r =>
    if !s.dieOpen (coreDie core) || !s.launchLifted r.lid then none
    else if r.task.kind = 0 then s.startTask core r else s.startLaunch (coreDie core) r
  | .items g => if s.lifted g.after then s.startItems core g else none

/-- DISPATCH: the best unit that fits; a partial item warp whose start waits for no commit when nothing else waits (R321, R323). -/
def execDispatch (core : Nat) (s : State) : Host.Outcome State Fault Refusal :=
  let c := s.cluster (coreCluster core)
  let all : List Waiting := (s.die (coreDie core)).ready.map Waiting.ready ++ c.formed.map Waiting.items
  match Waiting.best (s.hot core) (all.filter (fun w => (s.startOn core w).isSome)) with
  | some w => .next ((s.startOn core w).getD s)
  | none =>
    match all, c.gather.find? (fun g => s.lifted g.after) with
    | [], some g =>
      let t := s.updCluster (coreCluster core) (fun k => ({ k with gather := k.gather.erase g } : Cluster).form g)
      .next ((t.startItems core { g with seq := c.itemSeq }).getD s)
    | _, _ => .next s

end Sys2Proof.Machine
end

