-- ==== Sys2Proof/Machine/Levels.lean ====
section
/-!
DEFINITION. Levels of work: what a cancel does, CANCEL and COUNTR, the completion of units, and the end of a phase (R29, R30, R180, R196, R335 to
R337).
-/

namespace Sys2Proof.Machine

/-! ## What a cancel does (R180, R336) -/

/-- A switch sequence without a rank's contribution (R334). -/
def SwSeq.without (q : SwSeq) (rank : Nat) : SwSeq := { q with got := q.got.filter (fun g => g.1 != rank) }

/-- A MSGREM withdraws its contribution and ends (R334). -/
def State.withdrawMsg (s : State) (c : Nat) (m : MsgOp) : State :=
  let s := (s.send (s.fnOf m.ctx) (.m3withdraw m.gid m.rank m.seq))
  let s := { s with switches := s.switches.map (fun (q : SwSeq) => if q.gid = m.gid ∧ q.seq = m.seq then q.without m.rank else q) }
  (s.tlFinish c 4 m.num).phHere m.ctx m.core ⟨0, 0, -1, 0, 0⟩

/-- The MSGREM operations that a cancel stops end. -/
def State.withdrawMsgs (s : State) (test : MsgOp → Bool) : State :=
  let hit (m : MsgOp) : Bool := m.kind == 2 && test m
  (s.clusters.map (fun p => p.1)).foldl (fun s c =>
    let mine := (s.cluster c).msgs.filter hit
    mine.foldl (fun s m => s.withdrawMsg c m) (s.updCluster c (fun k => { k with msgs := k.msgs.filter (fun m => !hit m) }))) s

/-- Items of a launch in a cluster's packing unit. -/
def Cluster.itemsOf (c : Cluster) (lid : Nat) : Nat :=
  (((c.gather ++ c.formed).filter (fun g => g.lid == lid)).map (fun g => g.items.length)).sum

/-- The record of a task still waits in a ready queue. -/
def State.queuedRec (s : State) (lid : Nat) : Bool := s.dies.any (fun p => p.2.ready.any (fun r => r.lid == lid))

/-- Items of a launch that have not started. -/
def State.itemsOf (s : State) (lid : Nat) : Nat := (s.clusters.map (fun p => p.2.itemsOf lid)).sum

/-- A launch has something that a cancel can stop: units that have not started, running ones, or a pair launch before its drain (R30, R229). -/
def State.launchLeft (s : State) (lid : Nat) (l : Launch) : Bool :=
  !l.complete && (s.queuedRec lid || decide (0 < l.rest) || decide (0 < s.itemsOf lid) || (s.cutList lid).any s.stoppable ||
    (match s.pair? lid with | some p => !p.begunDrain | none => false))

/-- A launch-level unit is cancelled: what has not started is abandoned as if it had finished, and its running blocks are reached. One none of
which had started lowers no successor counter. -/
def State.cancelLaunch (s : State) (lid : Nat) : State :=
  match s.launch? lid with
  | none => s
  | some l =>
    if l.cancelled || !s.launchLeft lid l then s
    else
      let queued := s.queuedRec lid
      let items := s.itemsOf lid
      let gone := (if queued then 1 else 0) + l.rest + items
      let whole := queued || (decide (l.lo < l.hi) && l.placed == 0)
      let s := s.updLaunch lid (fun l => { l with cancelled := true, count := l.count - gone, succ := if whole then 0 else l.succ })
      let s := s.everyDie (fun d => { d with ready := d.ready.filter (fun r => r.lid != lid || r.task.kind != 0) })
      let s := s.everyCluster (fun c => { c with
        gather := c.gather.filter (fun g => g.lid != lid), formed := c.formed.filter (fun g => g.lid != lid) })
      (s.cutList lid).foldl State.cutBlock s

/-- A launch is the level, or inside it. -/
def Launch.inLevel (l : Launch) (lid code id : Nat) : Bool :=
  match code with
  | 1 => lid == id
  | 2 => l.graph == id
  | 3 => l.phase == id
  | _ => l.job == id

/-- A queued KIND 1 record is inside the level. -/
def ReadyRec.inLevel (r : ReadyRec) (ctx code id : Nat) : Bool :=
  r.task.kind == 1 && r.ctx == ctx && (match code with
    | 1 => false
    | 2 => r.graph == id
    | 3 => r.phase == id
    | _ => r.job == id)

/-- Levels that satisfy a test, are live and have something left to stop show the cancel (R30). -/
def cutLevels (p : Level → Bool) (left : Nat → Bool) (t : Tab Level) : Tab Level :=
  t.map (fun x => if p x.2 && !x.2.complete && left x.1 then (x.1, { x.2 with cancelled := true }) else x)
def cutLevel (t : Tab Level) (id : Nat) : Tab Level := Tab.upd t id (fun l => { l with cancelled := true })

/-- The levels of a context that a cancel marks: the one named, and inside it those that have something left to stop. -/
def Ctx.cut (c : Ctx) (left : Nat → Nat → Bool) (code id : Nat) : Ctx :=
  match code with
  | 2 => { c with graphs := cutLevel c.graphs id }
  | 3 => { c with phases := cutLevel c.phases id, graphs := cutLevels (fun g => g.parent == id) (left 2) c.graphs }
  | 4 =>
    let inJob (ph : Nat) : Bool := match Tab.find c.phases ph with | some p => p.parent == id | none => false
    { c with jobs := cutLevel c.jobs id, phases := cutLevels (fun p => p.parent == id) (left 3) c.phases,
             graphs := cutLevels (fun g => inJob g.parent) (left 2) c.graphs }
  | _ => c

/-- The loaded phase of a context ends; PHASE is set in its blocks (Table 16-6). -/
def State.endPhase (s : State) (ctx : Nat) (cancelled : Bool) : State :=
  match (Tab.find s.ctxs ctx).bind (fun c => c.phase) with
  | none => s
  | some p =>
    let s := s.updCtx ctx (fun c => { c with
      phase := some { p with ended := true, cancelled := cancelled }, m2s := c.m2s.filter (fun m => m.1 != p.id) })
    s.setEvents (fun b => b.ctx == ctx) 2

/-- The loaded phase of a context is not over and stands in the level. -/
def Ctx.phaseIn (c : Ctx) (code id : Nat) : Bool :=
  match c.phase with
  | none => false
  | some p => !p.ended && (match code with
    | 3 => p.id == id
    | 4 => (match Tab.find c.phases p.id with | some l => l.parent == id | none => false)
    | _ => false)

/-- The launch of an operation is inside a level. -/
def State.inLevel (s : State) (ctx code id lid : Nat) : Bool :=
  match s.launch? lid with
  | some l => l.ctx == ctx && l.inLevel lid code id
  | none => false

/-- Something of a level is left to stop: units, queued records, MSGREM operations, or its phase. -/
def State.levelLeft (s : State) (ctx code id : Nat) : Bool :=
  s.launches.any (fun p => p.2.ctx == ctx && p.2.inLevel p.1 code id && s.launchLeft p.1 p.2) ||
    s.dies.any (fun d => d.2.ready.any (fun r => r.inLevel ctx code id)) ||
    s.clusters.any (fun c => c.2.msgs.any (fun m => m.kind == 2 && s.inLevel ctx code id m.lid)) ||
    (match Tab.find s.ctxs ctx with | some c => c.phaseIn code id | none => false)

/-- The level of a context with an id. -/
def Ctx.level? (c : Ctx) (code id : Nat) : Option Level :=
  match code with
  | 2 => Tab.find c.graphs id
  | 3 => Tab.find c.phases id
  | _ => Tab.find c.jobs id

/-- A launch of a context. -/
def State.launchIn (s : State) (ctx lid : Nat) : Option Launch := (s.launch? lid).bind (fun l => if l.ctx = ctx then some l else none)

/-- The level is live. -/
def State.levelLive (s : State) (ctx code id : Nat) : Bool :=
  if code = 1 then (match s.launchIn ctx id with | some l => !l.complete | none => false)
  else (match (Tab.find s.ctxs ctx).bind (fun c => c.level? code id) with | some l => !l.complete | none => false)

/-- A launch, graph, phase or job is cancelled, and everything inside it. -/
def State.cancelLevel (s : State) (ctx code id : Nat) : State :=
  let lids := (s.launches.filter (fun p => p.2.ctx == ctx && p.2.inLevel p.1 code id)).map (fun p => p.1)
  let ends := match Tab.find s.ctxs ctx with | some c => c.phaseIn code id | none => false
  let left := s.levelLeft ctx
  let s := s.updCtx ctx (fun c => c.cut left code id)
  let s := s.everyDie (fun d => { d with ready := d.ready.filter (fun r => !r.inLevel ctx code id) })
  let s := (lids.foldl State.cancelLaunch s).withdrawMsgs (fun m => lids.contains m.lid)
  if ends then s.endPhase ctx true else s

/-- Block i of the share has not been placed yet. -/
def Launch.pending (l : Launch) (i : Nat) : Bool :=
  let d := l.desc
  let plane := d.gx * d.gy
  decide (l.lo ≤ i) && decide (i < l.hi) && !l.skips.contains i &&
    (match (List.range (4 ^ d.order)).find? (fun k => hilbert d.order k == (i % plane % d.gx, i % plane / d.gx)) with
     | some k => decide (l.curZ < i / plane) || (l.curZ == i / plane && decide (l.curD ≤ k))
     | none => false)

/-- The running block of a launch with an index. -/
def State.blockOf (s : State) (lid i : Nat) : Option Nat :=
  (s.blocks.find? (fun p => p.2.lid == lid && p.2.idx == i && p.2.primary && p.2.kind != .item && p.2.kind != .pair)).map (fun p => p.1)

/-- A cancel of block i of a launch; `own` is the issuer's block when it is the one named. -/
def State.cancelBlock (s : State) (lid i : Nat) (own : Option Nat) : State × Bool :=
  match own.orElse (fun _ => s.blockOf lid i) with
  | some blk =>
    let k := s.holder blk
    if s.stoppable k then ((s.cutBlock k).withdrawMsgs (fun m => s.holder m.t.blk == k), true) else (s, false)
  | none =>
    match s.launch? lid with
    | none => (s, false)
    | some l =>
      if l.cancelled || !l.pending i then (s, false)
      else (s.updLaunch lid (fun l => { l with skips := i :: l.skips, count := l.count - 1 }), true)

/-! ## CANCEL and COUNTR (R335 to R337) -/

/-- The id that an instruction names: 0 for the level that holds the issuing block. -/
def State.levelId (s : State) (e : Env) (code id : Nat) : Nat :=
  if id ≠ 0 then id
  else
    let k := s.maker e
    match code with
    | 1 => s.lidOf e.blk
    | 2 => k.graph
    | 3 => k.phase
    | _ => k.job

def execCancel (f : FmtA) (s : State) : Host.Outcome State Fault Refusal :=
  laneStep .cancel (.a f) (fun s e =>
    let code := (e.b f).toNat
    let id := (e.pair f.a).toNat % 2 ^ 48
    if 4 < code then (s, .fault (.of 0x03))
    else if code = 0 then
      let r := s.cancelBlock (s.lidOf e.blk) id (if id = 0 then some e.blk else none)
      (r.1.owe e true (toP f.wbs f.d r.2), .stay)
    else
      let id := s.levelId e code id
      if s.levelLive e.ctx code id && s.levelLeft e.ctx code id then
        ((s.cancelLevel e.ctx code id).owe e true (toP f.wbs f.d true), .stay)
      else (s.owe e true (toP f.wbs f.d false), .stay)) s

/-- A block's counter: live warps and results still owed (Table 1-9). -/
def Block.counter (b : Block) : Nat :=
  (b.warps.filter (fun w => w.threads.any (fun th => th.live))).length +
    (b.warps.map (fun w => (w.threads.map (fun th => th.owed.length)).sum)).sum

/-- Arrivals owed under the loaded phase. -/
def Phase.owed (p : Phase) : Nat :=
  if p.ended then 0
  else (p.counts.map (fun x => x.2.msg.toNat + x.2.task.toNat + x.2.eng.toNat + x.2.store.toNat + x.2.arr.toNat)).sum

/-- Unfinished launches of a graph, its queued KIND 1 records among them. -/
def State.graphCount (s : State) (ctx id : Nat) : Nat :=
  (s.launches.filter (fun p => p.2.ctx == ctx && p.2.graph == id && !p.2.complete)).length +
    (s.dies.map (fun d => (d.2.ready.filter (fun r => r.inLevel ctx 2 id)).length)).sum

/-- The counter of a launch, graph, phase or job (Table 1-9). -/
def State.levelCount (s : State) (ctx code id : Nat) : Nat :=
  match code with
  | 1 => (match s.launchIn ctx id, s.pair? id with
    | some l, some p => if l.complete then 0 else max 1 p.left
    | some l, none => l.count
    | none, _ => 0)
  | 2 => s.graphCount ctx id
  | 3 => (match (Tab.find s.ctxs ctx).bind (fun c => c.phase) with | some p => if p.id = id then p.owed else 0 | none => 0)
  | _ => (match Tab.find s.ctxs ctx with | some c => (c.phases.filter (fun p => p.2.parent == id && !p.2.complete)).length | none => 0)

/-- The word of Table 15-10. -/
def countrWord (exist complete cancelled failed : Bool) : Word :=
  BitVec.ofNat 32 ((if exist then 1 else 0) + (if complete then 2 else 0) + (if cancelled then 4 else 0) + (if failed then 8 else 0))

/-- The status of a launch, graph, phase or job (Table 15-10). -/
def State.levelStatus (s : State) (ctx code id : Nat) : Word :=
  if code = 1 then (match s.launchIn ctx id with
    | some l => countrWord true l.complete l.cancelled l.failed
    | none => 0)
  else (match (Tab.find s.ctxs ctx).bind (fun c => c.level? code id) with
    | some l => countrWord true l.complete l.cancelled l.failed
    | none => 0)

/-- Counter and status of block i of a launch. A block that is neither running nor waiting for its place has completed. -/
def State.blockStatus (s : State) (lid i : Nat) (own : Option Nat) : Nat × Word :=
  let l := s.launch? lid
  let bad (i : Nat) : Bool := match l with | some l => l.bads.contains i | none => false
  match (own.orElse (fun _ => s.blockOf lid i)).bind s.block? with
  | some b => (b.counter, countrWord true false (b.evpend.getLsbD 2) (bad b.idx))
  | none =>
    match l with
    | none => (0, 0)
    | some l =>
      if i < l.lo ∨ max 1 l.hi ≤ i then (0, 0)
      else
        let waits := l.pending i && !l.cancelled
        (0, countrWord true (!waits) (l.skips.contains i || l.cuts.contains i || (l.cancelled && l.pending i)) (bad i))

def execCountr (f : FmtA) (s : State) : Host.Outcome State Fault Refusal :=
  laneStep .countr (.a f) (fun s e =>
    let code := (e.b f).toNat
    let id := (e.pair f.a).toNat % 2 ^ 48
    if 4 < code then (s, .fault (.of 0x03))
    else
      let r : Nat × Word :=
        if code = 0 then s.blockStatus (s.lidOf e.blk) id (if id = 0 then some e.blk else none)
        else let id := s.levelId e code id; (s.levelCount e.ctx code id, s.levelStatus e.ctx code id)
      (s.owe e true (toW f.wbs f.d [BitVec.ofNat 32 (min r.1 (2 ^ 32 - 1)), r.2]), .stay)) s

/-! ## Completion (R30, R316) -/

/-- A launch completes: its counter is zero. A successor counter that it names is lowered (R318); that waits for room in the ready queue. -/
def State.completeLaunch (s : State) (ctx lid : Nat) : State :=
  match s.launchIn ctx lid with
  | none => s
  | some l =>
    if l.complete || l.count != 0 || (l.succ != 0 && !s.succRoom l) then s
    else
      let s := s.updLaunch lid (fun l => { l with complete := true })
      if l.succ = 0 then s else s.countDown lid l

/-- Everything inside a graph, phase or job has completed. -/
def State.levelDone (s : State) (ctx code id : Nat) : Bool :=
  match Tab.find s.ctxs ctx with
  | none => false
  | some c =>
    match code with
    | 2 => s.graphCount ctx id == 0
    | 3 => !c.phaseIn 3 id && c.graphs.all (fun g => g.2.parent != id || g.2.complete)
    | _ => c.phases.all (fun p => p.2.parent != id || p.2.complete)

def Ctx.completeLevel (c : Ctx) (code id : Nat) : Ctx :=
  let done (t : Tab Level) : Tab Level := Tab.upd t id (fun l => { l with complete := true })
  match code with
  | 2 => { c with graphs := done c.graphs }
  | 3 => { c with phases := done c.phases }
  | _ => { c with jobs := done c.jobs }

/-- UNIT_COMPLETION of a block (code 0, named by its key), launch, graph, phase or job. -/
def execUnitCompletion (ctx code id : Nat) (s : State) : Host.Outcome State Fault Refusal :=
  match code with
  | 0 =>
    match s.block? id with
    | none => .next s
    | some b =>
      let done (b : Block) : Bool := b.allOut && b.saved.isNone
      let both := done b && (match b.twin.bind s.block? with | some o => done o | none => true)
      if b.ctx = ctx ∧ both = true ∧ s.forked id = false ∧ b.kind ≠ .handler then .next (s.endBlock id) else .next s
  | 1 => .next (s.completeLaunch ctx id)
  | _ => if 4 < code ∨ s.levelDone ctx code id = false then .next s else .next (s.updCtx ctx (fun c => c.completeLevel code id))

/-! ## The end of a phase (R196) -/

/-- PHASE_END: every line in the scope is high. Under SCOPE 2 the device's result first goes to every rank, and the phase ends once every
rank's has come. -/
def execPhaseEnd (ctx : Nat) (s : State) : Host.Outcome State Fault Refusal :=
  match (Tab.find s.ctxs ctx).bind (fun c => c.phase.map (fun p => (c, p))) with
  | none => .next s
  | some (c, p) =>
    if p.ended || !p.counts.all (fun x => x.2.high) then .next s
    else if p.scope ≠ 2 then .next (s.endPhase ctx false)
    else if !p.sent then
      .next ((p.ranks.eraseIdx p.me).foldl (fun s r => s.send c.fn (.m2phase r.1 r.2 p.id))
        (s.updCtx ctx (fun c => { c with phase := some { p with sent := true }, m2s := (p.id, p.me) :: c.m2s })))
    else if (List.range p.ranks.length).all (fun r => c.m2s.contains (p.id, r)) then .next (s.endPhase ctx false)
    else .next s

/-- PHASE_COMPLETION_MESSAGE: a rank's package result; one that comes before its phase is loaded here is kept. -/
def execPhaseCompletionMessage (ctx id rank : Nat) (s : State) : Host.Outcome State Fault Refusal :=
  .next (s.updCtx ctx (fun c => if c.m2s.contains (id, rank) then c else { c with m2s := (id, rank) :: c.m2s }))

end Sys2Proof.Machine
end

