-- ==== Sys2Proof/Machine/Messages.lean ====
section
/-!
DEFINITION. Messages between devices: MSGSEND and MSGREM, arrivals, acknowledgements and switch reductions (R326 to R334).
-/

namespace Sys2Proof.Machine

/-! ## The message engine (R331) -/

/-- An operation of the message engine ends: its number completes (R193). -/
def State.msgEnd (s : State) (c : Nat) (m : MsgOp) : State :=
  ((s.updCluster c (fun k => { k with msgs := k.msgs.erase m })).tlFinish c 4 m.num).phHere m.ctx m.core ⟨0, 0, -1, 0, 0⟩

/-- An operation fails: a record with its number, and its end. -/
def State.msgFail (s : State) (c : Nat) (m : MsgOp) (cause : Nat) (va : Option DWord) (wr : Bool) : State :=
  (s.engineReport m.ctx 6 m.t cause va wr m.num (.engine c 4)).msgEnd c m

/-- An operation is issued: it gets its number, and either its message goes out or it fails at once. -/
def State.msgIssue (s : State) (e : Env) (m : MsgOp) (fail : Option FInfo) (out : OutMsg) : State × DWord :=
  let c := coreCluster e.core
  let (s, n) := s.nextNum c 4 e.blk
  let m := { m with num := n }
  let s := s.updCluster c (fun k => { k with msgs := k.msgs ++ [m] })
  (match fail with
   | some x => s.msgFail c m x.cause x.va x.wr
   | none => s.send (s.fnOf e.ctx) out, BitVec.ofNat 64 n)

/-- An operation of a thread, without a number yet. -/
def MsgOp.make (s : State) (e : Env) (kind : Nat) (dsts : List Nat) (g : Group) (seq : Nat) (va : DWord) (bins : List BinBits) (win : Int) : MsgOp :=
  { num := 0, ctx := e.ctx, lid := s.lidOf e.blk, t := ⟨e.blk, e.tid / 32, e.tid % 32⟩, kind := kind, dsts := dsts, gid := g.gid, rank := g.me,
    seq := seq, core := e.core, va := va, bins := bins, win := win }

/-- The source of a message: the checks of R139 fault the thread; an uncorrectable error fails the operation instead (R332, R369). -/
def State.msgSource (s : State) (e : Env) (w : Want) (align : Nat) (va : DWord) (n : Nat) :
    State × Except FInfo (Except FInfo (List Byte) × List DWord) :=
  match s.access e.core e.ctx e.blk w align va n with
  | (s, .error x) => (s, .error x)
  | (s, .ok (keys, ptes)) => match s.readBytes e va keys with
    | (s, r) => (s, .ok (r, ptes))

/-- The phase a message is tagged with: the current one (Table 15-8). -/
def State.phaseId (s : State) (ctx : Nat) : Nat :=
  match (Tab.find s.ctxs ctx).bind (fun c => c.phase) with
  | some p => p.id
  | none => 0

/-! ## MSGSEND (R331, R332) -/

/-- A MSGSEND descriptor (Table 15-8). -/
structure SendDesc where
  group  : DWord
  src    : DWord
  remote : DWord
  rank   : Nat
  m1     : Bool
  cnt    : Bool
  dcore  : Nat
  len    : Nat

def SendDesc.of (h : List Byte) : SendDesc :=
  let d (o : Nat) : DWord := BitVec.ofNat 64 (hdrNat h o 8)
  let w : Word := BitVec.ofNat 32 (hdrNat h 0x1C 4)
  ⟨d 0, d 8, d 0x10, hdrNat h 0x18 4, w.getLsbD 0, w.getLsbD 1, (w.extractLsb' 2 10).toNat, (w.extractLsb' 12 20).toNat⟩

/-- The limits of Table 15-8, but for RANK's. -/
def SendDesc.ok (d : SendDesc) : Bool :=
  (if d.m1 then d.remote.toNat % 4 == 0 && decide (1 ≤ d.len) && decide (d.len ≤ 16384) else d.remote == 0 && d.len == 16) &&
    (d.cnt || d.dcore == 0)

/-- A message goes to a rank of the group, behind the stores of the block to that device (R328). -/
def State.sendTo (s : State) (e : Env) (d : SendDesc) (g : Group) (data : Except FInfo (List Byte)) : State × DWord :=
  let dest := g.ranks.getD d.rank (0, 0)
  let s := s.peerFirst e.blk dest.1
  let tag : PhaseTag := if d.cnt then ⟨true, s.phaseId e.ctx, d.dcore⟩ else ⟨false, 0, 0⟩
  let bs := match data with | .ok bs => bs | .error _ => []
  let fail := match data with
    | .error x => some x
    | .ok _ => if s.reaches dest.1 then none else some (FInfo.of 0x10)
  let out := if d.m1 then OutMsg.m1 dest.1 dest.2 d.remote tag bs else OutMsg.m0 dest.1 dest.2 tag bs
  s.msgIssue e (MsgOp.make s e (if d.m1 then 1 else 0) [dest.1] g 0 d.remote [] 0) fail out

def execMsgsend (f : FmtA) (s : State) : Host.Outcome State Fault Refusal :=
  laneStep .msgsend (.a f) (fun s e =>
    if s.enginePosting (coreCluster e.core) 4 then (s, .wait)
    else
      match rawReader e (s.settleLane e) 32 (e.pair f.a) 32 with
      | (s, .error x) => (s, .fault x)
      | (s, .ok bs) =>
        let d := SendDesc.of bs
        if !d.ok then (s, .fault (.of 0x03))
        else
          match s.readGroup e.ctx (rawReader e) d.group with
          | (s, .error x) => (s, .fault x)
          | (s, .ok g) =>
            if g.ranks.length ≤ d.rank then (s, .fault (.of 0x03))
            else
              match s.msgSource e ⟨.read, false, fmtRaw, true⟩ (if d.m1 then 4 else 64) d.src (4 * d.len) with
              | (s, .error x) => (s, .fault x)
              | (s, .ok (data, _)) =>
                let r := s.sendTo e d g data
                (r.1.owe e true (toW f.wbs f.d (lohi r.2)), .stay)) s

/-! ## Arrivals (R326 to R328, R332) -/

/-- The checks of one page part of an arriving M1 write; an uncorrectable error that its walk meets is consumed (R369). -/
def m1Part (s : State) (ctx : Nat) (va : DWord) : Except FInfo Nat :=
  if s.walkBad ctx va then .error (.acc 0x10 va .write) else
  match (Tab.find s.ctxs ctx).bind (fun c => (walk s.mem c.root va).map (fun e => (c, e))) with
  | none => .error (.acc 0x07 va .write)
  | some (c, e) =>
    let pa := pteBase e.pte + (va.toNat - e.base)
    if !inRange s.mem c (pteLoc e.pte) pa then .error (.acc 0x07 va .write)
    else if pteLoc e.pte % 2 = 1 ∨ pteW e.pte = false then .error (.acc 0x08 va .write)
    else if !fmtCopy e.pte then .error (.acc 0x09 va .write)
    else .ok (memKey (pteLoc e.pte) pa)

/-- An M1 write in the destination context, as its bytes stand; one that faults writes nothing. -/
def State.m1Put (s : State) (ctx : Nat) (va : DWord) (data : List Byte) : Except FInfo State :=
  match mapE (fun (p : DWord × Nat) => match m1Part s ctx p.1 with
      | .error x => .error x
      | .ok k => .ok (k, p.2)) (frames (data.length / 65536 + 2) va data.length) with
  | .error x => .error x
  | .ok ps => .ok (ps.foldl (fun (a : State × List Byte) p => (a.1.memWrite (atKeys p.1 (a.2.take p.2)), a.2.drop p.2)) (s, data)).1

/-- A message counts in the MSG counter that its tag names (R196). -/
def State.msgCount (s : State) (slot : Nat) (tag : PhaseTag) : State :=
  if tag.cnt then s.phArrive slot tag.phase tag.dcore ⟨-1, 0, 0, 0, 0⟩ else s

/-- An operation of a MSGREM ends with the bins of its round: DST is written (R333). -/
def State.remDone (s : State) (c : Nat) (m : MsgOp) (data : List Byte) : State :=
  match s.engWrite m.ctx m.core m.t ⟨.write, false, fmtBin true, true⟩ 16 m.va data with
  | .error x => s.msgFail c m x.cause x.va true
  | .ok s => s.msgEnd c m

/-- The MSGREM of a context that waits for bins of this size at an address. -/
def State.remAt (s : State) (ctx : Nat) (va : DWord) (n : Nat) : Option (Nat × MsgOp) :=
  s.clusters.findSome? (fun c => (c.2.msgs.find? (fun m => m.kind == 2 && m.ctx == ctx && m.va == va && 16 * m.bins.length == n)).map
    (fun m => (c.1, m)))

/-- An arrival of the log takes effect as what it was when it was logged: a write of the window below 0x1000, a completed M3 round for the MSGREM that
waits there, an M1 elsewhere (R377, R379, log entry 27). None while the ready queue withholds credit. -/
def State.deliver (s : State) (ctx : Nat) (va : DWord) (data : List Byte) : Option State :=
  if va.toNat < 4096 then s.windowWrite ctx va.toNat data
  else match s.remAt ctx va data.length with
    | some (c, m) => some (s.remDone c m data)
    | none => some (match s.m1Put ctx va data with
      | .ok t => t
      | .error _ => s)

/-- ENTRY_WINDOW_WRITE: one PCIe transaction at a window. Data of another size than 64 bytes stands for a partial or split write, or a read. -/
def execEntryWindowWrite (slot off : Nat) (data : List Byte) (s : State) : Host.Outcome State Fault Refusal :=
  match s.arrival slot (BitVec.ofNat 64 off) data with
  | none => .next s
  | some (t, .over) => .next t
  | some (t, .live) => .next ((t.windowWrite slot off data).getD s)
  | some (t, .logged a bs) => .next ((t.deliver slot a bs).getD s)

/-- M0_ARRIVAL: the record joins the queue as an entry-window write does; the flit carries no window offset, so it counts as offset 0 (log
entry 30). Its source, named by FID and function, gets word of the delivery (log entry 31). It waits while the queue withholds credit. -/
def execM0Arrival (slot : Nat) (data : List Byte) (head : MsgHead) (s : State) : Host.Outcome State Fault Refusal :=
  let done (s : State) : State := s.send (s.fnOf slot) (.m0done head.src.1 head.src.2)
  match s.arrival slot 0 data with
  | none => .next s
  | some (t, .over) => .next (done t)
  | some (t, .live) =>
    (match t.windowWrite slot 0 data with
     | none => .next s
     | some t => .next (done (t.msgCount slot head.tag)))
  | some (t, .logged a bs) =>
    (match t.deliver slot a bs with
     | none => .next s
     | some t => .next (done (t.msgCount slot head.tag)))

/-- M1_ARRIVAL: the write is performed and acknowledged to its source, with the cause and the address when it faults. -/
def execM1Arrival (slot : Nat) (va : DWord) (data : List Byte) (head : MsgHead) (s : State) : Host.Outcome State Fault Refusal :=
  let ack (s : State) (cause : Nat) (va : DWord) : State := s.send (s.fnOf slot) (.m1ack head.src.1 head.src.2 cause va)
  match s.arrival slot va data with
  | none => .next s
  | some (t, .over) => .next (ack t 0 va)
  | some (t, .live) =>
    (match t.m1Put slot va data with
     | .error x => .next (ack t x.cause (x.va.getD va))
     | .ok t => .next (ack (t.msgCount slot head.tag) 0 va))
  | some (t, .logged a bs) =>
    (match t.deliver slot a bs with
     | none => .next s
     | some t => .next (ack (t.msgCount slot head.tag) 0 va))

/-- An acknowledged store of threads to a LOC 3 page, the oldest of the cluster. -/
def State.storeAck (s : State) (c cause : Nat) (va : DWord) : State :=
  match (s.cluster c).m1Due with
  | [] => s
  | (ts, ctx, core, _) :: rest =>
    let s := (s.updCluster c (fun k => { k with m1Due := rest })).phHere ctx core ⟨0, 0, 0, -1, 0⟩
    if cause = 0 then s else s.engineReport ctx 6 (ts.headD ⟨0, 0, 0⟩) cause (some va) true 0 .report

/-- M1_ACKNOWLEDGEMENT: STORE is counted and the operation with this number completes, or fails with the cause and the remote address. Number 0
stands for a store to a LOC 3 page, which has none; an M0's completion comes so too (log entry 31). -/
def execM1Acknowledgement (c num cause : Nat) (va : DWord) (s : State) : Host.Outcome State Fault Refusal :=
  if num = 0 then .next (s.storeAck c cause va)
  else
    match (s.cluster c).msgs.find? (fun m => m.num == num && m.kind != 2) with
    | none => .next s
    | some m =>
      let s := if m.kind = 1 then s.phHere m.ctx m.core ⟨0, 0, 0, -1, 0⟩ else s
      .next (if cause = 0 then s.msgEnd c m else s.msgFail c m cause (some va) true)

/-! ## MSGREM and switch reductions (R333, R334) -/

/-- A MSGREM descriptor (Table 15-9). -/
structure RemDesc where
  group : DWord
  src   : DWord
  dst   : DWord
  count : Nat
  seq   : Nat

def RemDesc.of (h : List Byte) : RemDesc :=
  let d (o : Nat) : DWord := BitVec.ofNat 64 (hdrNat h o 8)
  ⟨d 0, d 8, d 0x10, hdrNat h 0x18 4, hdrNat h 0x1C 4⟩

/-- Bins of bytes. -/
def binsOfBytes (n : Nat) (bs : List Byte) : List BinBits := (List.range n).map (fun i => BitVec.ofNat 128 (leVal ((bs.drop (16 * i)).take 16)))
def bytesOfBins (bins : List BinBits) : List Byte := (bins.map (fun b => leBytes 16 b.toNat)).flatten

/-- A live sequence of the group in which a rank takes part uses this number. -/
def State.seqUsed (s : State) (gid rank seq : Nat) : Bool :=
  s.clusters.any (fun c => c.2.msgs.any (fun m => m.kind == 2 && m.gid == gid && m.rank == rank && m.seq == seq))

/-- The windows of all pages agree. -/
def oneWin (ptes : List DWord) : Bool := ptes.all (fun p => pteWin p == pteWin (ptes.headD 0))

def execMsgrem (f : FmtA) (s : State) : Host.Outcome State Fault Refusal :=
  laneStep .msgrem (.a f) (fun s e =>
    if s.enginePosting (coreCluster e.core) 4 then (s, .wait)
    else
      match rawReader e (s.settleLane e) 32 (e.pair f.a) 32 with
      | (s, .error x) => (s, .fault x)
      | (s, .ok bs) =>
        let d := RemDesc.of bs
        if d.count = 0 ∨ 4096 < d.count ∨ d.seq = 0 then (s, .fault (.of 0x03))
        else
          match s.readGroup e.ctx (rawReader e) d.group with
          | (s, .error x) => (s, .fault x)
          | (s, .ok g) =>
            match s.msgSource e ⟨.read, false, fmtBin true, true⟩ 16 d.src (16 * d.count) with
            | (s, .error x) => (s, .fault x)
            | (s, .ok (data, ps)) =>
              match s.access e.core e.ctx e.blk ⟨.write, false, fmtBin true, true⟩ 16 d.dst (16 * d.count) with
              | (s, .error x) => (s, .fault x)
              | (s, .ok (_, qs)) =>
                if s.seqUsed g.gid g.me d.seq || !oneWin (ps ++ qs) then (s, .fault (.of 0x03))
                else
                  let win := pteWin (ps.headD 0)
                  let others := (g.ranks.eraseIdx g.me).map (fun r => r.1)
                  let (bins, fail) : List BinBits × Option FInfo := match data with
                    | .error x => ([], some x)
                    | .ok bs => (binsOfBytes d.count bs, if others = [] ∨ others.any s.reaches = true then none else some (FInfo.of 0x10))
                  let r := s.msgIssue e (MsgOp.make s e 2 others g d.seq d.dst bins win) fail (.m3 g.gid g.me d.seq win bins)
                  (r.1.owe e true (toW f.wbs f.d (lohi r.2)), .stay)) s

/-- A sequence of the switches. -/
def State.seq? (s : State) (gid seq : Nat) : Option SwSeq := s.switches.find? (fun q => q.gid == gid && q.seq == seq)
def State.putSeq (s : State) (q : SwSeq) : State :=
  { s with switches := s.switches.filter (fun x => !(x.gid == q.gid && x.seq == q.seq)) ++ [q] }
def State.dropSeq (s : State) (gid seq : Nat) : State := { s with switches := s.switches.filter (fun x => !(x.gid == gid && x.seq == seq)) }

/-- M3_CONTRIBUTION: the first one opens the sequence's window. -/
def execM3Contribution (gid seq rank : Nat) (bins : List BinBits) (win : Int) (nrank : Nat) (s : State) :
    Host.Outcome State Fault Refusal :=
  let q := (s.seq? gid seq).getD ⟨gid, seq, nrank, s.clk.toNat, [], false, false⟩
  if q.aborted || q.got.any (fun g => g.1 == rank) then .next s
  else .next (s.putSeq { q with got := q.got ++ [(rank, win, bins)], bad := q.bad || q.got.any (fun g => g.2.1 != win) })

/-- All ranks' contributions are there. -/
def SwSeq.full (q : SwSeq) : Bool := (List.range q.nrank).all (fun r => q.got.any (fun g => g.1 == r))

/-- ns of a sequence's window. -/
def reductionWindow : Nat := 500000

/-- REDUCTION_WINDOW_EXPIRY: an incomplete sequence is aborted when its window closes. -/
def execReductionWindowExpiry (gid seq : Nat) (s : State) : Host.Outcome State Fault Refusal :=
  match s.seq? gid seq with
  | none => .next s
  | some q =>
    if q.full || decide (s.clk.toNat < q.start + reductionWindow) then .next s
    else .next (s.putSeq { q with got := [], bad := false, aborted := true })

/-- Operations of this device in a sequence, with their clusters. -/
def State.remOps (s : State) (gid seq : Nat) : List (Nat × MsgOp) :=
  (s.clusters.map (fun c => (c.2.msgs.filter (fun m => m.kind == 2 && m.gid == gid && m.seq == seq)).map (fun m => (c.1, m)))).flatten

/-- REDUCTION_INCOMPLETE: the retained copy is issued again. -/
def execReductionIncomplete (gid seq : Nat) (s : State) : Host.Outcome State Fault Refusal :=
  match s.seq? gid seq with
  | none => .next s
  | some q =>
    if !q.aborted then .next s
    else
      let s := s.dropSeq gid seq
      .next ((s.remOps gid seq).foldl (fun s m => s.send (s.fnOf m.2.ctx) (.m3 gid m.2.rank seq m.2.win m.2.bins)) s)

/-- The combination of every rank's bin e (R115). -/
def SwSeq.result (q : SwSeq) (n : Nat) : List BinBits :=
  (List.range n).map (fun e => q.got.foldl (fun b g => binCombine b (g.2.2.getD e 0)) 0)

/-- A completed round reaches one operation: DST is written, once it is logged; none while the log has no room, or, on a re-run, the ready queue for what
is delivered in its place. -/
def State.roundTo (s : State) (q : SwSeq) (c : Nat) (m : MsgOp) : Option State :=
  if q.bad then some (s.msgFail c m 0x03 none false)
  else
    match s.arrival m.ctx m.va (bytesOfBins (q.result m.bins.length)) with
    | none => none
    | some (s, .over) => some (if (s.cluster c).msgs.contains m then s.msgEnd c m else s)
    | some (s, .live) => some (s.remDone c m (bytesOfBins (q.result m.bins.length)))
    | some (s, .logged a bs) => s.deliver m.ctx a bs

/-- REDUCTION_ROUND_COMPLETE: every rank has contributed. -/
def execReductionRoundComplete (gid seq : Nat) (s : State) : Host.Outcome State Fault Refusal :=
  match s.seq? gid seq with
  | none => .next s
  | some q =>
    if !q.full then .next s
    else
      match (s.remOps gid seq).foldl (fun (t : Option State) m => t.bind (fun t => t.roundTo q m.1 m.2)) (some s) with
      | none => .next s
      | some t => .next (t.dropSeq gid seq)

end Sys2Proof.Machine
end

