-- ==== Sys2Proof/Machine/System.lean ====
section
/-!
DEFINITION. Traps, the handler's instructions, page-table writes, system registers, the clock, events, COMMIT and PROT, and error banks
(R341, R346 to R359, R362, R370 to R372, R391).
-/

namespace Sys2Proof.Machine

/-! ## Traps and breaks (R353) -/

def execTrap (imm : BitVec 24) (s : State) : Host.Outcome State Fault Refusal :=
  laneStep .trap (.w imm) (fun s _ => (s, .fault ⟨0x17, none, some imm, false, false⟩)) s

/-- DEBUG of a context (Table 16-5). -/
def State.debugOf (s : State) (ctx : Nat) : Word := match Tab.find s.ctxs ctx with | some c => c.debug | none => 0

def execBrk (f : FmtA) (s : State) : Host.Outcome State Fault Refusal :=
  laneStep .brk (.a f) (fun s e => if (s.debugOf e.ctx).getLsbD 0 then (s, .fault (.of 0x1D)) else (s, .stay)) s

/-! ## The fault queue (R346, R348, R349) -/

/-- Records of a fault queue, and sequence numbers whose state is kept. -/
def queueMax : Nat := 4096

/-- A record awaits a resolution: STOP or SUSP is set. -/
def FRec.awaits (r : FRec) : Bool := r.flags / 4 % 4 != 0

/-- What a record is about still stands as it was: a kill or an end may have settled it before it entered the queue (R350). -/
def State.unitStands (s : State) (u : FUnit) : Bool :=
  match u with
  | .thread t => (match s.thread? t with | some th => th.live && th.stop.isSome | none => false)
  | .tile c => (match (s.cluster c).tile with | some r => r.th.stop.isSome | none => false)
  | .pairItem l n => (match s.pair? l with | some p => p.failed.contains n | none => false)
  | .pairAccess l c => (match s.pair? l with | some p => p.accFaults.contains c | none => false)
  | .engine _ _ | .mat _ | .thresher _ | .bins _ | .report => true

/-- Two records come from one source unit (R346). -/
def QRec.sameUnit (a b : QRec) : Bool :=
  a.unit == b.unit && (a.unit != .report || (a.frec.src, a.frec.launch, a.frec.block, a.frec.tid) == (b.frec.src, b.frec.launch, b.frec.block, b.frec.tid))

/-- FAULT_RECORD_POST: the k-th waiting record of the context enters its queue and gets the next number, none of its own unit being older (R346). -/
def execFaultRecordPost (p : Posting) (s : State) : Host.Outcome State Fault Refusal :=
  match Tab.find s.ctxs p.ctx with
  | none => .next s
  | some c =>
    match c.waiting[p.k]? with
    | none => .next s
    | some r =>
      let rest := c.waiting.eraseIdx p.k
      if decide (queueMax ≤ c.queue.length) || (c.waiting.take p.k).any (fun x => x.sameUnit r) then .next s
      else
        let n := c.seq + 1
        let st : SeqState := ⟨if !r.frec.awaits then 3 else if s.unitStands r.unit then 1 else 2, false, r⟩
        .next (s.updCtx p.ctx (fun c => { c with
          waiting := rest, queue := c.queue ++ [(n, r)], seq := n,
          seqs := (Tab.ins c.seqs n st).filter (fun q => decide (n < q.1 + queueMax)) }))

/-- The oldest record is taken: its 32 bytes go to the buffer as an ST's (R348). -/
def State.fwaitTake (s : State) (e : Env) (va : DWord) : State × Except FInfo DWord :=
  match s.access e.core e.ctx e.blk ⟨.write, false, fmtRaw, true⟩ 32 va 32 with
  | (s, .error x) => (s, .error x)
  | (s, .ok (keys, _)) =>
    match (Tab.find s.ctxs e.ctx).map (fun c => c.queue) with
    | some ((n, r) :: rest) =>
      let bs := r.frec.bytes 0
      match s.putStore e (0, n) 0 va bs ⟨keys, bs, none⟩ with
      | none => (s, .error (.of 0x19))
      | some s => (s.updCtx e.ctx (fun c => { c with queue := rest }), .ok (BitVec.ofNat 64 n))
    | _ => (s, .ok 0)

/-- The queue of a context holds a record. -/
def State.queued (s : State) (ctx : Nat) : Bool := match Tab.find s.ctxs ctx with | some c => !c.queue.isEmpty | none => false

def execFwait (f : FmtA) (s : State) : Host.Outcome State Fault Refusal :=
  laneStep .fwait (.a f) (fun s e =>
    let va := e.pair f.a
    let b := (e.b f).toNat
    match s.access e.core e.ctx e.blk ⟨.write, false, fmtRaw, true⟩ 32 va 32 with
    | (s, .error x) => (s, .fault x)
    | (s, .ok _) =>
      if s.queued e.ctx then
        match s.fwaitTake e va with
        | (s, .error x) => (s, .fault x)
        | (s, .ok n) => (s.owe e true (toW f.wbs f.d (lohi n)), .stay)
      else (s, .hold (.fwait va (if b = 0 then 0 else s.clk.toNat + 1000 * b) e.pc e.idx f.d.toNat e.slot f.wbs))) s

/-- FWAIT_TIMEOUT: the time has passed and there is no record: nothing is stored and the number is 0. -/
def execFwaitTimeout (t : TRef) (s : State) : Host.Outcome State Fault Refusal :=
  match s.block? t.blk, (s.thread? t).bind (fun th => th.hold) with
  | some b, some (.fwait _ deadline _ _ d slot wbs) =>
    if deadline = 0 ∨ s.clk.toNat < deadline ∨ s.queued b.ctx = true then .next s
    else .next ((s.updThread t Thread.unheld).oweTo t slot true (toW wbs (BitVec.ofNat 7 d) [0, 0]))
  | _, _ => .next s

/-- The state of a sequence number (R349). -/
def Ctx.seqState (c : Ctx) (n : Nat) : Option SeqState := Tab.find c.seqs n

/-- The word of R349. -/
def State.frptWord (s : State) (ctx n : Nat) : Word :=
  match (Tab.find s.ctxs ctx).bind (fun c => c.seqState n) with
  | some q => BitVec.ofNat 32 (q.state + if q.fwd then 4 else 0)
  | none => 0

/-- A record goes to the event ring of the context's function, once (R349, R391). None while the ring has no room for it. -/
def State.forward (s : State) (ctx n : Nat) : Option State :=
  match Tab.find s.ctxs ctx with
  | none => some s
  | some c =>
    match c.seqState n with
    | none => some s
    | some q =>
      if q.fwd then some s
      else if (s.fn c.fn).room && (s.fn c.fn).defer.isEmpty then
        some ((s.ringWrite c.fn ctx q.qrec.frec).updCtx ctx (fun c => { c with seqs := Tab.upd c.seqs n (fun q => { q with fwd := true }) }))
      else none

/-- FRPT: the status is read after the record has been sent (log entry 32). -/
def execFrpt (f : FmtA) (s : State) : Host.Outcome State Fault Refusal :=
  laneStep .frpt (.a f) (fun s e =>
    let n := e.pair f.a
    let b := (e.b f).toNat
    if 1 < b then (s, .fault (.of 0x03))
    else if b = 0 then (s.owe e true (toW f.wbs f.d [s.frptWord e.ctx n.toNat]), .stay)
    else
      match s.forward e.ctx n.toNat with
      | some s => (s.owe e true (toW f.wbs f.d [s.frptWord e.ctx n.toNat]), .stay)
      | none => (s, .hold (.frpt n f.d.toNat e.slot f.wbs))) s

/-- EVENT_RING_DEFERRED_WRITE: a handler's own record that waited for room is written, ahead of any later entry (R391). -/
def execEventRingDeferredWrite (fn : Nat) (s : State) : Host.Outcome State Fault Refusal :=
  match (s.fn fn).defer with
  | [] => .next s
  | (slot, r) :: rest =>
    if (s.fn fn).room then .next ((s.updFn fn (fun g => { g with defer := rest })).ringWrite fn slot r) else .next s

/-- EVTAIL_WRITE: the host has consumed the entries up to v, modulo EVSIZE; a value equal to EVHEAD leaves the ring empty (R391, log entry 54). -/
def execEvtailWrite (fn : Nat) (v : DWord) (s : State) : Host.Outcome State Fault Refusal :=
  if !s.hasFn fn then .next s
  else .next (s.updFn fn (fun g => { g with evTail := v.toNat % g.evSize, evFull := false }))

/-! ## Resolving a fault (R341, R350) -/

/-- A number becomes resolved. -/
def State.settled (s : State) (ctx n : Nat) : State :=
  s.updCtx ctx (fun c => { c with seqs := Tab.upd c.seqs n (fun q => { q with state := 2 }) })

/-- A pending record. -/
def State.pending? (s : State) (ctx n : Nat) : Option FUnit :=
  ((Tab.find s.ctxs ctx).bind (fun c => c.seqState n)).bind (fun q => if q.state = 1 then some q.qrec.unit else none)

/-- A stopped thread goes on, and so does its twin's copy (R366). -/
def State.resumeThread (s : State) (t : TRef) : State :=
  let s' := s.updThread t Thread.resume
  match (s.block? t.blk).bind (fun b => b.twin) with
  | none => s'
  | some k =>
    let pc := match s.thread? t with | some th => th.pc | none => 0
    let s' := s'.updBlock k (fun b => { b with stopAt := b.stopAt.filter (fun x => !(x.1 == t.wp && x.2.1 == t.m && x.2.2.1 == pc)) })
    s'.updThread ⟨k, t.wp, t.m⟩ Thread.resume

/-- The failed access of a logical cluster is made again; a launch with no failed item goes on with it (R239, R350). -/
def State.pairResume (s : State) (l c : Nat) : State :=
  match s.pair? l with
  | none => s
  | some p =>
    let s := s.updPair l (fun p => { p with accFaults := p.accFaults.erase c })
    if p.state = 3 ∧ p.failed = [] then s.pairTo l p.stage else s

/-- FRESUME by the unit of a pending record. -/
def State.fresume (s : State) (ctx n : Nat) : State × Bool :=
  match s.pending? ctx n with
  | some (.thread t) => ((s.resumeThread t).settled ctx n, true)
  | some (.tile c) => ((s.updTile c (fun r => { r with th := r.th.resume })).settled ctx n, true)
  | some (.pairAccess l c) => ((s.pairResume l c).settled ctx n, true)
  | _ => (s, false)

def execFresume (f : FmtA) (s : State) : Host.Outcome State Fault Refusal :=
  laneStep .fresume (.a f) (fun s e =>
    let r := s.fresume e.ctx (e.pair f.a).toNat
    (r.1.owe e true (toP f.wbs f.d r.2), .stay)) s

/-- The launch of a pending pair record. -/
def pairOf : FUnit → Option Nat
  | .pairItem l _ => some l
  | .pairAccess l _ => some l
  | _ => none

/-- FREPLAY and FKILL on a pair launch: none while it has not suspended; then every pending record of it is settled (R240). -/
def State.resolvePairs (s : State) (ctx n : Nat) (kill : Bool) : Option (State × Bool) :=
  match (s.pending? ctx n).bind pairOf with
  | none => some (s, false)
  | some l =>
    match s.pair? l with
    | none => some (s, false)
    | some p =>
      if p.state ≠ 3 then none
      else some ((if kill then s.pairKill l else s.pairReplay l).updCtx ctx (resolvePair l), true)

def execFreplay (f : FmtA) (s : State) : Host.Outcome State Fault Refusal :=
  laneStep .freplay (.a f) (fun s e =>
    let n := e.pair f.a
    match s.resolvePairs e.ctx n.toNat false with
    | some r => (r.1.owe e true (toP f.wbs f.d r.2), .stay)
    | none => (s, .hold (.resolve n false f.d.toNat e.slot f.wbs))) s

/-- FKILL of a thread's block or of a tile program. -/
def State.fkill (s : State) (ctx n : Nat) : State × Bool :=
  match s.pending? ctx n with
  | some (.thread t) =>
    let c := match (s.thread? t).bind (fun th => th.stop) with | some st => st.cause | none => 0
    ((s.killBlock t.blk c).settled ctx n, true)
  | some (.tile c) =>
    let cause := match (s.cluster c).tile.bind (fun r => r.th.stop) with | some st => st.cause | none => 0
    ((s.tileEnd c 3 cause).settled ctx n, true)
  | _ => (s, false)

def execFkill (f : FmtA) (s : State) : Host.Outcome State Fault Refusal :=
  laneStep .fkill (.a f) (fun s e =>
    let n := e.pair f.a
    if ((s.pending? e.ctx n.toNat).bind pairOf).isSome then
      match s.resolvePairs e.ctx n.toNat true with
      | some r => (r.1.owe e true (toP f.wbs f.d r.2), .stay)
      | none => (s, .hold (.resolve n true f.d.toNat e.slot f.wbs))
    else
      let r := s.fkill e.ctx n.toNat
      (r.1.owe e true (toP f.wbs f.d r.2), .stay)) s

/-! ## Page tables and TLBs (R351, R352) -/

/-- The key of the entry that PTEW writes: level L's slot for va, when the entries on the way are pointers. -/
def ptewKey (m : Memory) (root : Nat) (va : DWord) (level : Nat) : Option Nat :=
  let pointer (e : DWord) : Bool := pteV e && pteKind e == 3
  let a0 := root + 8 * (va.extractLsb' 42 10).toNat
  let e0 := entryAt m a0
  let a1 := pteBase e0 + 8 * (va.extractLsb' 29 13).toNat
  let e1 := entryAt m a1
  let a2 := pteBase e1 + 8 * (va.extractLsb' 16 13).toNat
  if va.extractLsb' 52 12 ≠ 0 then none
  else
    match level with
    | 0 => some a0
    | 1 => if pointer e0 then some a1 else none
    | _ => if pointer e0 && pointer e1 then some a2 else none

/-- The keys of the entries that PTEW's walk reads on its way to level L. -/
def ptewKeys (m : Memory) (root : Nat) (va : DWord) (level : Nat) : List Nat :=
  let a0 := root + 8 * (va.extractLsb' 42 10).toNat
  let e0 := entryAt m a0
  if va.extractLsb' 52 12 ≠ 0 ∨ level = 0 then []
  else if level = 2 ∧ pteV e0 = true ∧ pteKind e0 = 3 then [a0, pteBase e0 + 8 * (va.extractLsb' 29 13).toNat]
  else [a0]

/-- PTEW (R351). An uncorrectable error in an entry on the way is consumed (R369). -/
def execPtew (f : FmtA) (s : State) : Host.Outcome State Fault Refusal :=
  laneStep .ptew (.a f) (fun s e =>
    let va := e.pair f.a
    let level := va.toNat % 4
    if level = 3 then (s, .fault (.of 0x03))
    else if (match Tab.find s.ctxs e.ctx with | some c => s.memBad (ptewKeys s.mem c.root va level) | none => false) then (s, .fault (.of 0x10))
    else
      match (Tab.find s.ctxs e.ctx).bind (fun c => ptewKey s.mem c.root va level) with
      | none => (s.owe e true (toP f.wbs f.d false), .stay)
      | some key => ((s.memWrite (atKeys key (leBytes 8 (e.pair f.b).toNat))).owe e true (toP f.wbs f.d true), .stay)) s

/-- TLB entries of a context that hold an address, or all of it, removed on every core; the accesses made through them are performed. -/
def State.tlbDrop (s : State) (ctx : Nat) (hit : TlbE → Bool) : State :=
  let blks := (s.blocks.filter (fun p => p.2.ctx == ctx)).map (fun p => p.1)
  let s := blks.foldl (fun s b => s.settleBlock b) s
  let tlbs := s.tlbs.map (fun p => (p.1, p.2.filter (fun e => !(e.ctx == ctx && hit e))))
  { s with tlbs := tlbs.filter (fun p => p.2 != []) }

/-- What a held operation reaches lies on the page of an entry. -/
def HeldOp.through (h : HeldOp) (t : TlbE) : Bool := overlaps t.base t.size h.va.toNat (max 1 h.size)

/-- The held operations of a context's blocks that were translated through entries of their cores which a test picks. -/
def State.tlbDue (s : State) (ctx : Nat) (hit : TlbE → Bool) : List TlbDue :=
  s.blocks.filterMap (fun p =>
    let es := (Tab.get [] s.tlbs p.2.core).filter (fun t => t.ctx == ctx && hit t)
    let ops : List Nat := (p.2.held.zipIdx.filter (fun h => h.1.acts && es.any h.1.through)).map (fun h => h.2)
    if p.2.ctx == ctx && !ops.isEmpty then some ⟨p.1, p.2.epoch, p.2.reexec, ops⟩ else none)

/-- They are performed, or gone with their interval: its commit, its rollback or its block's end. -/
def State.tlbClear (s : State) (due : List TlbDue) : Bool :=
  due.all (fun d => match s.block? d.blk with
    | none => true
    | some b => b.epoch != d.epoch || b.reexec != d.reexec || d.ops.all (fun i => match b.held[i]? with | some h => !h.acts | none => true))

/-- TLBINV (R352): the entries go, what was translated through them and is not held is performed, and the handler is held until the held operations that
were are performed, at their commit, too. -/
def execTlbinv (f : FmtA) (s : State) : Host.Outcome State Fault Refusal :=
  laneStep .tlbinv (.a f) (fun s e =>
    let va := (e.pair f.a).toNat
    let hit (t : TlbE) : Bool := decide (t.base ≤ va) && decide (va < t.base + t.size)
    let drop (test : TlbE → Bool) : State × Disp :=
      let due := s.tlbDue e.ctx test
      (s.tlbDrop e.ctx test, if due = [] then .stay else .hold (.tlbinv due))
    match (e.b f).toNat with
    | 0 => drop hit
    | 1 => drop (fun _ => true)
    | _ => (s, .fault (.of 0x03))) s

/-! ## Error banks (R370 to R372) -/

def State.bank (s : State) (u : Nat) : Bank := Tab.get Bank.new s.banks u
def State.putBank (s : State) (u : Nat) (b : Bank) : State := { s with banks := Tab.put Bank.new s.banks u b }

/-- Units of Table 16-10. -/
def bankUnits : Nat := 0x62D

/-- Word k of a bank. -/
def Bank.word (b : Bank) (k : Nat) : Word :=
  match k with
  | 0 => b.ce ++ (0 : BitVec 13) ++ BitVec.ofBool b.multi ++ BitVec.ofBool b.ue ++ BitVec.ofBool b.valid
  | 1 => b.lost ++ b.uec
  | 2 => b.loc.extractLsb' 0 32
  | _ => b.loc.extractLsb' 32 32

/-- VALID, UE, MULTI and the location. -/
def Bank.same (a b : Bank) : Bool := a.valid == b.valid && a.ue == b.ue && a.multi == b.multi && a.loc == b.loc

/-- A bank's record is no longer as this thread latched it. -/
def Thread.outdate (u : Nat) (th : Thread) : Thread :=
  { th with latch := th.latch.map (fun x => if x.u = u then { x with fresh := false } else x) }

/-- Every latch of a bank is out of date (R372). -/
def State.outdate (s : State) (u : Nat) : State :=
  { s with blocks := s.blocks.map (fun p => (p.1, { p.2 with warps := p.2.warps.map (fun w => { w with threads := w.threads.map (Thread.outdate u) }) })) }

/-- A bank changes. A change of its record sets ERR and raises vector 3 (R371, Table 18-1). -/
def State.setBank (s : State) (u : Nat) (b : Bank) : State :=
  let t := s.putBank u b
  if (s.bank u).same b then t else ((t.outdate u).setEvents (fun _ => true) 0x20).raise 0 3

/-- A corrected error at a location. -/
def Bank.corrected (b : Bank) (loc : DWord) : Bank :=
  let b := { b with ce := b.ce + 1 }
  if b.valid then b else { b with valid := true, ue := false, multi := false, loc := loc }

/-- An uncorrectable error at a location: it replaces a corrected record; the first of its kind stays. -/
def Bank.uncorrectable (b : Bank) (loc : DWord) : Bank :=
  let b := { b with uec := b.uec + 1 }
  if !b.valid || !b.ue then { b with valid := true, ue := true, multi := false, loc := loc } else { b with lost := b.lost + 1, multi := true }

/-- Locations are 52 bits wide. -/
def bankLoc (loc : Nat) : DWord := BitVec.ofNat 64 (loc % 2 ^ 52)

/-- A thread's read of word 0 latches the bank. -/
def State.latchBank (s : State) (l : Lane) (u : Nat) : State :=
  let b := s.bank u
  s.updLane l (fun th => { th with latch := some ⟨u, b.word 1, b.loc, true⟩ })

/-- A thread's write of word 0: the record is cleared if it has not changed since the thread's latch. -/
def State.clearBank (s : State) (l : Lane) (u : Nat) : State :=
  match (s.lane? l).bind (fun th => th.latch) with
  | none => s
  | some x => if x.u = u ∧ x.fresh = true then s.setBank u { s.bank u with valid := false, ue := false, multi := false } else s

/-- ERROR_BANK_LATCH and ERROR_BANK_CLEAR: what a handler thread's SYSR and SYSW of word 0 do. -/
def execErrorBankLatch (t : TRef) (u : Nat) (s : State) : Host.Outcome State Fault Refusal := .next (s.latchBank (.thr t) u)
def execErrorBankClear (t : TRef) (u : Nat) (s : State) : Host.Outcome State Fault Refusal := .next (s.clearBank (.thr t) u)

/-- CORRECTED_ERROR. -/
def execCorrectedError (u loc : Nat) (s : State) : Host.Outcome State Fault Refusal :=
  .next (s.setBank u ((s.bank u).corrected (bankLoc loc)))

/-- Granules that hold an uncorrectable error from now on (R369). -/
def State.addPoison (s : State) (gs : List Nat) : State := { s with poison := s.poison ++ (gs.eraseDups.filter (fun g => !s.poison.contains g)) }

/-- The key of word r of a thread's lane registers, w registers below 128 and return-stack entries from there, and that of a block's shadow bank (R369, log
entry 17). -/
def laneCell (t : TRef) (r : Nat) : Nat := 2 ^ 200 + ((t.blk * 8 + t.wp) * 32 + t.m) * 256 + r
def shadowCell (blk : Nat) : Nat := 2 ^ 240 + blk

/-- A word of a thread's registers holds an uncorrectable error. -/
def Thread.spoil (r : Nat) (th : Thread) : Thread := if r < 128 then { th with badW := r :: th.badW } else { th with badRet := (r - 128) :: th.badRet }

/-- An uncorrectable error in one place: lane registers, a shadow bank, or a granule of memory. -/
def State.spoil (s : State) (g : Nat) : State :=
  if g < 2 ^ 200 then s.addPoison [g]
  else if g < 2 ^ 240 then
    let x := g - 2 ^ 200
    s.updThread ⟨x / 65536, x / 8192 % 8, x / 256 % 32⟩ (Thread.spoil (x % 256))
  else s.updBlock (g - 2 ^ 240) (fun b => { b with badShadow := true })

/-- UNCORRECTABLE_ERROR: the bank, and the places that are bad. -/
def execUncorrectableError (u loc : Nat) (cells : List Nat) (s : State) : Host.Outcome State Fault Refusal :=
  .next (cells.foldl State.spoil (s.setBank u ((s.bank u).uncorrectable (bankLoc loc))))

/-! ## System registers (R354, R355, Table 18-6) -/

/-- Both copies of a twinned block, or the block alone. -/
def State.updCopies (s : State) (blk : Nat) (f : Block → Block) : State :=
  let s' := s.updBlock blk f
  match (s.block? blk).bind (fun b => b.twin) with
  | some k => s'.updBlock k f
  | none => s'

/-- A deadline's half is written and TIMER is cleared (R357). -/
def Block.setTimer (b : Block) (high : Bool) (v : Word) : Block :=
  { b with timer := if high then v ++ b.timer.extractLsb' 0 32 else b.timer.extractLsb' 32 32 ++ v, evpend := b.evpend &&& ~~~8 }

/-- TIMER_DEADLINE_WRITE: what a write of TIMERLO or TIMERHI does. -/
def execTimerDeadlineWrite (blk : Nat) (high : Bool) (v : Word) (s : State) : Host.Outcome State Fault Refusal :=
  .next (s.updCopies blk (fun b => b.setTimer high v))

/-- TIMER_EVENT: CLK has reached a nonzero deadline. -/
def execTimerEvent (blk : Nat) (s : State) : Host.Outcome State Fault Refusal :=
  match s.block? blk with
  | none => .next s
  | some b => if b.timer = 0 ∨ s.clk.toNat < b.timer.toNat then .next s else .next (s.updBlock blk (fun b => { b with evpend := b.evpend ||| 8 }))

/-- The power and thermal registers as a die reads them. -/
def State.power (s : State) (die idx : Nat) : Option Word :=
  let d := s.die die
  match idx with
  | 0x100 => some (BitVec.ofNat 32 d.step)
  | 0x101 => some (BitVec.ofNat 32 d.stepMin)
  | 0x102 => some (BitVec.ofNat 32 d.grants.sum)
  | 0x103 => some (BitVec.ofNat 32 s.dev.draw)
  | 0x104 => some (BitVec.ofNat 32 (d.temp % 256 + 256 * (d.hot % 64)))
  | 0x105 => some (BitVec.ofNat 32 d.trip)
  | 0x106 => some d.stepDn
  | 0x107 => some (BitVec.ofNat 32 s.dev.cap)
  | _ => none

/-- An index that Table 16-5 defines, and whether only the handler may read it. -/
def sysDefined (idx : Nat) : Option Bool :=
  if idx ∈ [0, 1, 3, 4, 16] then some false
  else if idx ∈ [8, 17, 24, 25, 26, 27, 28, 29] then some true
  else if 0x100 ≤ idx ∧ idx ≤ 0x107 then some false
  else if 0x1000 ≤ idx ∧ idx < 0x1000 + 4 * bankUnits then some true
  else none

/-- A register's value for a participant. -/
def State.sysValue (s : State) (e : Env) (idx : Nat) : Word :=
  match s.block? e.blk, Tab.find s.ctxs e.ctx with
  | some b, some c =>
    match idx with
    | 0 => 0x4840
    | 1 => BitVec.ofNat 32 b.prot
    | 3 => b.timer.extractLsb' 0 32
    | 4 => b.timer.extractLsb' 32 32
    | 8 => s.evpend b
    | 16 => c.debug
    | 17 => BitVec.ofNat 32 c.queue.length
    | 24 => c.recctl
    | 25 => c.recbase.extractLsb' 0 32
    | 26 => c.recbase.extractLsb' 32 32
    | 27 => c.recsize
    | 28 => c.recin.extractLsb' 0 32
    | 29 => c.recin.extractLsb' 32 32
    | _ =>
      if idx < 0x1000 then (s.power (coreDie e.core) idx).getD 0
      else
        let u := (idx - 0x1000) / 4
        let k := idx % 4
        match e.th.latch with
        | some x => if x.u = u ∧ k ≠ 0 then (if k = 1 then x.w1 else x.loc.extractLsb' (32 * (k - 2)) 32) else (s.bank u).word k
        | none => (s.bank u).word k
  | _, _ => 0

/-- SYSR. A read of a bank's word 0 latches the bank for the thread. -/
def execSysr (f : FmtA) (s : State) : Host.Outcome State Fault Refusal :=
  laneStep .sysr (.a f) (fun s e =>
    let idx := (e.a f).toNat
    match sysDefined idx with
    | none => (s, .fault (.of 0x03))
    | some sys =>
      if sys && !e.sys then (s, .fault (.of 0x18))
      else
        let v := s.sysValue e idx
        let s := if 0x1000 ≤ idx ∧ idx % 4 = 0 then s.latchBank e.lane ((idx - 0x1000) / 4) else s
        (s.owe e true (toW f.wbs f.d [v]), .stay)) s

/-- How a write changes a register. -/
inductive SysOp where
  | write | set | clear
  deriving DecidableEq, Repr

def SysOp.on (op : SysOp) (old v : Word) : Word :=
  match op with
  | .write => v
  | .set => old ||| v
  | .clear => old &&& ~~~v

/-- Registers with a writer, and whether only the handler is one. EVPEND takes SYSSET and SYSCLR only. -/
def sysWritable (op : SysOp) (idx : Nat) : Option Bool :=
  if idx = 3 ∨ idx = 4 then some false
  else if idx = 8 then (if op = .write then none else some true)
  else if idx ∈ [16, 24, 25, 26, 27, 28, 29] then some true
  else if 0x1000 ≤ idx ∧ idx < 0x1000 + 4 * bankUnits ∧ idx % 4 = 0 then some true
  else none

/-- A 64-bit register with one half written. -/
def half (old : DWord) (high : Bool) (f : Word → Word) : DWord :=
  if high then f (old.extractLsb' 32 32) ++ old.extractLsb' 0 32 else old.extractLsb' 32 32 ++ f (old.extractLsb' 0 32)

/-- A register of the context written. A write that places the log empties it (log entry 27). -/
def Ctx.sysPut (c : Ctx) (idx : Nat) (f : Word → Word) : Ctx :=
  match idx with
  | 16 => { c with debug := f c.debug &&& 1 }
  | 24 => { c with recctl := f c.recctl &&& 1, recpos := 0, recmap := [] }
  | 25 => { c with recbase := half c.recbase false f, recpos := 0, recmap := [] }
  | 26 => { c with recbase := half c.recbase true f, recpos := 0, recmap := [] }
  | 27 => { c with recsize := f c.recsize, recpos := 0, recmap := [] }
  | 28 => { c with recin := half c.recin false f }
  | 29 => { c with recin := half c.recin true f }
  | _ => c

/-- A write of a register that has a writer. -/
def State.sysPut (s : State) (e : Env) (op : SysOp) (idx : Nat) (v : Word) : State :=
  match idx with
  | 3 => s.updCopies e.blk (fun b => b.setTimer false (op.on (b.timer.extractLsb' 0 32) v))
  | 4 => s.updCopies e.blk (fun b => b.setTimer true (op.on (b.timer.extractLsb' 32 32) v))
  | 8 => s.updCopies e.blk (fun b => { b with evpend := op.on b.evpend (v &&& 0x2B) })
  | _ => if 0x1000 ≤ idx then s.clearBank e.lane ((idx - 0x1000) / 4) else s.updCtx e.ctx (fun c => c.sysPut idx (fun o => op.on o v))

/-- SYSW, SYSSET and SYSCLR. -/
def sysWriteM (op : Op) (k : SysOp) (f : FmtA) (s : State) : Host.Outcome State Fault Refusal :=
  laneStep op (.a f) (fun s e =>
    let idx := (e.a f).toNat
    match sysWritable k idx with
    | none => (s, .fault (.of 0x03))
    | some sys => if sys && !e.sys then (s, .fault (.of 0x18)) else (s.sysPut e k idx (e.b f), .stay)) s

def execSysw (f : FmtA) (s : State) : Host.Outcome State Fault Refusal := sysWriteM .sysw .write f s
def execSysset (f : FmtA) (s : State) : Host.Outcome State Fault Refusal := sysWriteM .sysset .set f s
def execSysclr (f : FmtA) (s : State) : Host.Outcome State Fault Refusal := sysWriteM .sysclr .clear f s

/-! ## Clock, events, commit points and protection (R356, R357, R359, R362) -/

/-- CLK: the reading when the pass executes; a recording launch logs it. -/
def execClk (f : FmtA) (s : State) : Host.Outcome State Fault Refusal :=
  laneStep .clk (.a f) (fun s e =>
    match e.lane with
    | .tile _ => (s.owe e true (toW f.wbs f.d (lohi s.clk)), .stay)
    | .thr t =>
      let k := e.th.clks + 1
      let r := (s.updThread t (fun th => { th with clks := k })).recTake t 5 k 0 s.clk
      (r.1.owe e true (toW f.wbs f.d (lohi r.2)), .stay)) s

def execWaitev (f : FmtA) (s : State) : Host.Outcome State Fault Refusal :=
  laneStep .waitev (.a f) (fun s e =>
    let b := e.b f
    let bits := ((List.range 32).filter (fun i => b.getLsbD i)).length
    if b = 0 ∨ 0x40 ≤ b.toNat ∨ (e.sys = false ∧ 1 < bits) then (s, .fault (.of 0x03))
    else if !e.sys && (b &&& 0x30) != 0 then (s, .fault (.of 0x18))
    else
      match e.lane, s.block? e.blk with
      | .thr t, some k =>
        if (s.evpend k &&& b) != 0 then (s.waitevEnd t b f.d.toNat e.slot f.wbs, .stay)
        else (s, .hold (.waitev b f.d.toNat e.slot f.wbs))
      | _, _ => (s, .stay)) s

def execCommit (f : FmtA) (s : State) : Host.Outcome State Fault Refusal :=
  laneStep .commit (.a f) (fun s e => (s.settleLane e, .hold .commit)) s

/-- The word of R362. -/
def Block.protWord (b : Block) : Word :=
  if b.prot = 0 then 0 else BitVec.ofNat 32 (b.prot + (if b.fixed then 4 else 0) + 8 * b.jcount)

def execProt (f : FmtA) (s : State) : Host.Outcome State Fault Refusal :=
  laneStep .prot (.a f) (longRegs (fun s e => toW f.wbs f.d [match s.block? e.blk with | some b => b.protWord | none => 0])) s

end Sys2Proof.Machine
end

