-- ==== Sys2Proof/Machine/Holds.lean ====
section
/-!
DEFINITION. How a thread's hold ends (R403) and what its instruction then still does.
-/

namespace Sys2Proof.Machine

/-- The operation's part in a protected interval after a hold (R360, R366); `e` is the thread as it was while held. -/
def State.fixAfter (s : State) (e : Env) : State := if e.prot = 0 then s else s.noteFixing e

/-- The hold of a thread ends. -/
def State.unhold (s : State) (t : TRef) : State := s.updThread t Thread.unheld

/-- An engine issue that waited for queue room goes in; none while there is none (R162, R249, R285, R321). -/
def State.engineIn (s : State) (e : Env) (t : TRef) (w : EngineWait) : Option State :=
  let wr (n : DWord) : List RegVal := toW w.wbs (BitVec.ofNat 7 w.d) (lohi n)
  let c := coreCluster e.core
  if w.what = waitEgo then
    if (s.cluster c).ceQ.length < copyQueueMax then some (s.egoAccept e t e.th.stage wr) else none
  else if w.what = waitFork then
    if (s.cluster c).tileQ.length < tileQueueMax then some (s.forkAccept e t w.a w.b wr) else none
  else if w.what = waitPkq ∨ w.what = waitPkg then
    if (s.gran (granUnitOf c)).room then some (s.granAccept e t (w.what == waitPkg) (GDesc.of (wordsToBytes w.pay)) wr) else none
  else
    let r := TaskRec.of (wordsToBytes w.pay)
    let k := s.maker e
    if s.blkCut e.blk || s.cutOff (r.under k) then some s
    else if s.readyRoom (coreDie e.core) then some (s.queueRec (coreDie e.core) k r w.a) else none

/-- Threads of a warp with the same hold. -/
def State.sameHold (s : State) (t : TRef) (h : Hold) : List TRef :=
  match s.block? t.blk with
  | none => []
  | some b => (b.trefs t.blk).filter (fun u => u.wp == t.wp && (s.thread? u).bind (fun th => th.hold) == some h)

/-- Every thread of a grid launch on this device has executed its k-th GBAR or has exited (R191); its item threads execute none. -/
def State.gbarOpen (s : State) (b : Block) (k : Nat) : Bool :=
  (match s.launch? b.lid with | some l => l.rest == 0 | none => true) &&
    s.blocks.all (fun p => p.2.lid != b.lid || p.2.ctx != b.ctx || p.2.kind == .item ||
      p.2.warps.all (fun w => w.threads.all (fun th => !th.live || decide (k ≤ th.gbars))))

/-- A protected block's GBAR completes only after its block has committed (R358). -/
def Block.gbarKept (b : Block) (t : TRef) (k : Nat) : Bool :=
  b.prot == 0 || (match b.ckpt.bind (fun ws => (ws[t.wp]?).bind (fun w => w.threads[t.m]?)) with
    | some c => c.hold == some (.gbar k)
    | none => false)

/-- A held GLEAN tries again: the theft, the fall-through of every waiting thread at once, or nothing yet (R303). -/
def State.gleanAgain (s : State) (e : Env) (t : TRef) (b : Block) (pc : DWord) (idx : Nat) : State :=
  match s.steal e t with
  | some (some s) => s.unhold t
  | some none => (s.unhold t).takeFault { e with pc := pc, idx := idx } e.th.line false idx (.of 0x19)
  | none => if gleanDone b t.blk then (b.trefs t.blk).foldl (fun s u => s.unhold u) s else s

/-- A number is owed to a thread whose hold has ended. -/
def State.unholdOwe (s : State) (t : TRef) (slot : Nat) (wr : List RegVal) : State := (s.unhold t).oweTo t slot true wr

/-- A thread's hold ends if what it waits for has come. While its block's commit is due, no thread held there goes on (R358). -/
def State.wake (s : State) (t : TRef) : State :=
  match s.block? t.blk, s.thread? t with
  | some b, some th =>
    match th.hold, s.env? (.thr t) 7 th.pc th.cont with
    | some h, some e =>
      if th.live = false ∨ b.saved.isSome = true then s
      else
        match h with
        | .acq obj excl =>
          let hs := (s.sync obj).1
          let k := s.holder t.blk
          if hs.contains (k, true) || (!excl && hs.contains (k, false)) then (s.unhold t).fixAfter e else s
        | .bar off ph isBar =>
          if s.barOpen b (.bar off ph isBar) && !s.commitDue b then s.unhold t else s
        | .swwait off gen => if s.scrWord b.core (off + 8) ≠ gen then s.unhold t else s
        | .tlwait c eng n => if s.tlReached c eng n then s.unhold t else s
        | .phset hdr tab ranks me =>
          if s.phaseOpen b.ctx then s
          else (s.sameHold t h).foldl (fun s u => match s.env? (.thr u) 7 0 0 with
            | some e => (s.unhold u).fixAfter e
            | none => s) (s.loadPhase b.ctx b.lid hdr tab ranks me)
        | .phwait serial =>
          (match (Tab.find s.ctxs b.ctx).bind (fun c => c.phase) with
           | some p => if p.serial = serial ∧ p.ended = false then s else s.unhold t
           | none => s.unhold t)
        | .gbar k => if s.gbarOpen b k && b.gbarKept t k && !s.commitDue b then s.unhold t else s
        | .fence scope => if s.fenced t scope then s.unhold t else s
        | .silowait pa gap => if siloGap (s.siloTimer (siloDie pa)) (siloGroup pa) gap then s.unhold t else s
        | .rdv c n d slot wbs =>
          (match s.rdvWords c n with
           | some ws => s.unholdOwe t slot (toW wbs (BitVec.ofNat 7 d) ws)
           | none => s)
        | .commit => s
        | .fwait a _ pc idx d slot wbs =>
          if !s.queued b.ctx then s
          else (match s.fwaitTake e a with
            | (s, .error x) => (s.unhold t).takeFault { e with pc := pc, idx := idx } e.th.line false idx x
            | (s, .ok n) => s.unholdOwe t slot (toW wbs (BitVec.ofNat 7 d) (lohi n)))
        | .waitev mask d slot wbs => if (s.evpend b &&& mask) = 0 then s else s.waitevEnd t mask d slot wbs
        | .engine w =>
          let e := { e with slot := w.slot }
          (match s.engineIn e t w with
           | some s => (s.unhold t).fixAfter e
           | none => s)
        | .glean pc idx => s.gleanAgain e t b pc idx
        | .frpt n d slot wbs =>
          (match s.forward b.ctx n.toNat with
           | some s => s.unholdOwe t slot (toW wbs (BitVec.ofNat 7 d) [s.frptWord b.ctx n.toNat])
           | none => s)
        | .resolve n kill d slot wbs =>
          (match s.resolvePairs b.ctx n.toNat kill with
           | some r => r.1.unholdOwe t slot (toP wbs (BitVec.ofNat 7 d) r.2)
           | none => s)
        | .tlbinv due => if s.tlbClear due then s.unhold t else s
    | _, _ => s
  | _, _ => s

/-- A killed handler's block leaves: the tile programs it forked are killed (R248), its waits withdrawn and its objects released (R180). -/
def State.reap (s : State) : State :=
  (s.blocks.filter (fun p => p.2.kind == .handler && p.2.warps.isEmpty)).foldl (fun s p => (s.killTiles p.1).freeBlock p.1) s

/-- Killed handlers leave, and every hold whose event has come ends. -/
def State.wakeAll (s : State) : State :=
  let s := s.reap
  let held := (s.blocks.map (fun p => (p.2.trefs p.1).filter (fun t => match p.2.thread? t.wp t.m with
    | some th => th.live && th.hold.isSome
    | none => false))).flatten
  held.foldl State.wake s

end Sys2Proof.Machine
end

