-- ==== Sys2Proof/Machine/Vote.lean ====
section
/-!
DEFINITION. The issue vote (R65 to R67, R72, R403), and the events by which results, memory operations, commits, rollbacks, saves and moves
take place (R37, R94, R140, R181, R184, R358, R363, R374 to R376).
-/

namespace Sys2Proof.Machine

/-! ## The vote -/

/-- Lanes of a warp that a clause occupies (R68). -/
def State.busyLanes (s : State) (blk wp : Nat) : List Nat :=
  (s.issues.map (fun i => match i.who with
    | .lanes b w ms => if b = blk ∧ w = wp then ms.map (fun m => m / 8) else []
    | .tile _ => [])).flatten

/-- A thread as a voter: its index, clause, first word, age, whether its clause is a collective one, and whether its lane is free and the slots
its first word names have drained; `line` is the line it kept part way through a clause. -/
structure Voter where
  m     : Nat
  pc    : DWord
  word  : Nat
  age   : Nat
  coll  : Bool
  line  : List Word
  ready : Bool

/-- What its line says of a voter: whether a collective word of its clause is still to come, and whether its word waits (R36, R72, R403, log
entry 57). -/
def lineSays (th : Thread) (line : List Word) : Bool × Bool :=
  let h := line.getD (linePos th.pc) 0
  let word := if th.cont = 0 then 1 else th.cont
  ((lineOps false th.pc line).any (fun p => decide (word ≤ p.1) && p.2.info.is .coll), !(waitsOnSlots h word && th.undrained (hdrWM h)))

/-- A thread that votes: live, neither stopped nor held nor left out by YIELD. -/
def Thread.votes (th : Thread) : Bool := th.live && th.stop.isNone && th.hold.isNone && th.yieldAt.isNone

/-- The voters of a warp. A line that cannot be fetched is left to the issue, where it faults. -/
def State.voters (s : State) (blk wp : Nat) (b : Block) : List Voter :=
  match b.warps[wp]? with
  | none => []
  | some w =>
    let busy := s.busyLanes blk wp
    w.threads.zipIdx.filterMap (fun p =>
      if !p.1.votes then none
      else
        let shows := match (s.lineOf b.core b.ctx blk p.1.pc p.1).2 with
          | .ok line => lineSays p.1 line
          | .error _ => (false, true)
        some ⟨p.2, p.1.pc, if p.1.cont = 0 then 1 else p.1.cont, p.1.age, shows.1, p.1.line, !busy.contains (p.2 / 8) && shows.2⟩)

/-- The lowest address of some. -/
def lowestPc (pcs : List DWord) : Option DWord :=
  pcs.foldl (fun best pc => match best with
    | none => some pc
    | some b => if pc.toNat < b.toNat then some pc else some b) none

/-- The eligible voters (R65, R72): a collective clause goes out when every live thread of the warp stands at one, to those at the lowest. `cut`
tells that a cancel has reached the block, which ends a wait for threads that stand elsewhere (R72, log entry 63). -/
def eligible (live : Nat) (cut : Bool) (vs : List Voter) : List Voter :=
  let go : Option DWord :=
    if cut then lowestPc ((vs.filter (fun v => v.coll)).map (fun v => v.pc))
    else if vs.length = live ∧ vs.all (fun v => v.coll) then lowestPc (vs.map (fun v => v.pc)) else none
  vs.filter (fun v => v.ready && (!v.coll || (go == some v.pc && (vs.filter (fun u => u.pc == v.pc)).all (fun u => u.ready))))

/-- Of the voters at an address, those of each lane with the lowest word. -/
def takers (vs : List Voter) (pc : DWord) : List Voter :=
  let here := vs.filter (fun v => v.pc == pc)
  here.filter (fun v => here.all (fun u => u.m / 8 != v.m / 8 || decide (v.word ≤ u.word)))

/-- First and second choice (R66, R67). -/
def choices (vs : List Voter) : Option DWord × Option DWord :=
  let old := vs.filter (fun v => decide (32 ≤ v.age))
  let first := lowestPc ((if old = [] then vs else old).map (fun v => v.pc))
  (first, lowestPc ((vs.filter (fun v => some v.pc != first)).map (fun v => v.pc)))

/-- Voters at one address issue together, each lane from its word and its version of the clause on (R66, R403). -/
def State.issueGroup (s : State) (blk wp : Nat) (pc : DWord) (vs : List Voter) : State :=
  ((vs.map (fun v => (v.word, v.line))).eraseDups).foldl (fun (t : State) x =>
    match t.startWarp blk wp ((vs.filter (fun v => (v.word, v.line) == x)).map (fun v => v.m)) pc (s.tags + 1) with
    | (t, some i) => { t with issues := t.issues ++ i.byLane }
    | (t, none) => t) { s with tags := s.tags + 1 }

/-- ISSUE_VOTE: the first choice goes to every free lane with an eligible thread at it, the second to the others; those that take no part grow
older. -/
def State.vote (s : State) (blk wp : Nat) : State :=
  match s.block? blk with
  | none => s
  | some b =>
    if b.saved.isSome then s
    else
      let live := match b.warps[wp]? with | some w => (w.threads.filter (fun th => th.live)).length | none => 0
      let vs := eligible live (b.evpend.getLsbD 2) (s.voters blk wp b)
      match choices vs with
      | (none, _) => s
      | (some p1, p2) =>
        let first := takers vs p1
        let lanes := (vs.filter (fun v => v.pc == p1)).map (fun v => v.m / 8)
        let second := match p2 with
          | none => []
          | some p => (takers vs p).filter (fun v => !lanes.contains (v.m / 8))
        let out := (first ++ second).map (fun v => v.m)
        let s := (vs.filter (fun v => !out.contains v.m)).foldl (fun s v => s.updThread ⟨blk, wp, v.m⟩ (fun th => { th with age := th.age + 1 })) s
        let s := s.issueGroup blk wp p1 first
        match p2 with
        | none => s
        | some p => s.issueGroup blk wp p second

def execIssueVote (blk wp : Nat) (s : State) : Host.Outcome State Fault Refusal := .next (s.vote blk wp)

/-! ## Results and memory operations -/

/-- LOAD_COMPLETE: the k-th result owed to a thread, once it is there, is written and its slot may drain (R37). -/
def execLoadComplete (t : TRef) (k : Nat) (s : State) : Host.Outcome State Fault Refusal :=
  match (s.thread? t).bind (fun th => th.owed[k]?) with
  | none => .next s
  | some o =>
    if !o.ready then .next s
    else .next (s.updThread t (fun th => { th.puts o.wr with owed := th.owed.eraseIdx k }))

/-- PAGE_WALK_COMPLETE: a walker's answer fills the core's TLB (R140). -/
def execPageWalkComplete (core ctx : Nat) (va : DWord) (s : State) : Host.Outcome State Fault Refusal :=
  .next (s.translate core ctx va).1

/-- ATOMIC_SERVICE: the service warp of a cluster performs its oldest request. -/
def execAtomicService (c : Nat) (s : State) : Host.Outcome State Fault Refusal :=
  match (s.cluster c).atomQ with
  | [] => .next s
  | r :: rest => .next ((s.updCluster c (fun k => { k with atomQ := rest })).serveReq r)

/-- The first request that a thread has in a queue without a returned value. -/
def State.silentReq (s : State) (t : TRef) : Option (Nat × AtomReq) :=
  s.clusters.findSome? (fun p => (p.2.atomQ.find? (fun r => r.of t && !r.ret)).map (fun r => (p.1, r)))

/-- A thread has a store that is not yet performed. -/
def State.storing (s : State) (t : TRef) : Bool :=
  (s.outOf t.blk).any (fun p => p.2.by p.1 t) || (match s.thread? t with | some th => !th.stq.isEmpty | none => false)

/-- MEMORY_OPERATION_PERFORMED: a thread's k-th store on its way is performed, or with `block` its oldest k + 1 become visible in its block alone; with
no store on its way, its oldest request that returns nothing is performed, behind those queued before it at the same place (R170, R181, R184, log entry
11). -/
def execMemoryOperationPerformed (m : StoreMove) (s : State) : Host.Outcome State Fault Refusal :=
  if s.storing m.t then .next (if m.block then s.showStores m.t (m.k + 1) else s.performStore m.t m.k)
  else
    match s.silentReq m.t with
    | some (c, r) =>
      let first := ((s.cluster c).atomQ.takeWhile (fun q => q != r)).filter (fun q => overlaps q.key q.kind.size r.key r.kind.size)
      .next (s.serveIf c (fun q => q == r || first.contains q))
    | none => .next s

/-- YIELD_TIMEOUT: the thread rejoins its slice's votes (R94). -/
def execYieldTimeout (t : TRef) (s : State) : Host.Outcome State Fault Refusal :=
  .next (s.updThread t (fun th => { th with yieldAt := none }))

/-! ## Commit points, rollback, saves and moves -/

/-- COMMIT_POINT: the commit takes place when every copy of the block is there (R358, R361). -/
def execCommitPoint (blk : Nat) (s : State) : Host.Outcome State Fault Refusal :=
  let key := s.holder blk
  match s.block? key with
  | none => .next s
  | some b =>
    match b.twin.bind s.block? with
    | none => if s.commitDue b then .next (s.commitBlock key) else .next s
    | some o => if b.atCommit && o.atCommit && (s.commitDue b || s.commitDue o) then .next (s.commitBlock key) else .next s

/-- ROLLBACK: a consumed error that a copy of the block has met takes it back (R363, R364). -/
def execRollback (blk cause : Nat) (s : State) : Host.Outcome State Fault Refusal :=
  match s.block? blk with
  | none => .next s
  | some b => match b.rb with
    | some r => if r.cause = cause then .next (s.rollback (s.holder blk) r) else .next s
    | none => .next s

/-- PREEMPTION_SAVE (R374). -/
def execPreemptionSave (blk : Nat) (s : State) : Host.Outcome State Fault Refusal := .next (s.saveBlock blk)

/-- BLOCK_MOVE, and the restore of a saved block (R374, R375). -/
def execBlockMove (blk core : Nat) (s : State) : Host.Outcome State Fault Refusal := .next (s.moveBlock blk core)

/-- FORWARDING_EXPIRY: 1 ms has passed and every operation issued before the move has completed (R376). -/
def execForwardingExpiry (blk : Nat) (s : State) : Host.Outcome State Fault Refusal :=
  let lapsed (f : Forward) : Bool :=
    f.blk == blk && decide (f.till ≤ s.clk.toNat) && f.ops.all (fun o => s.tlReached o.2.2 o.1 o.2.1)
  .next { s with fwds := s.fwds.filter (fun f => !lapsed f) }

end Sys2Proof.Machine
end

