-- ==== Sys2Proof/Machine/Device.lean ====
section
/-!
DEFINITION. The package outside the cores: scrubs, the Silo's refresh and loads, power, links, fences, contexts and their handlers, the host's
registers, attestation and bring-up (R155, R373, R386 to R401).
-/

namespace Sys2Proof.Machine

/-! ## Refresh and scrubs (R155, R373) -/

/-- The first time from t on at which a bank group stands at a phase of its refresh period. -/
def nextPhase (t group phase : Nat) : Nat := t + (64000 + phase - siloPhase t group) % 64000

/-- SILO_REFRESH_WINDOW: a bank group's window starts, or ends 1.2 µs later; the die's refresh timer has come so far. -/
def execSiloRefreshWindow (die group : Nat) (enter : Bool) (s : State) : Host.Outcome State Fault Refusal :=
  .next (s.updDie die (fun d => { d with silo := nextPhase d.silo (group % 64) (if enter then 0 else 1200) }))

/-- Granules of a row of n bytes of a stack, from the row's address on: the stack has every eighth unit of 256 bytes of HBM (R137, log entry 33). -/
def rowGranules (stack pa n : Nat) : List Nat :=
  let first := pa / 2048 * 256 + pa % 256
  (List.range ((n + 7) / 8)).map (fun i =>
    let o := first + 8 * i
    2 * (memKey 0 (o / 256 * 2048 + 256 * stack + o % 256) / 8))

/-- HBM_SCRUB_PASS: the stack's count joins CE; each row it reports is an uncorrectable error, and its lines are poisoned. -/
def execHbmScrubPass (stack count : Nat) (rows : List Nat) (s : State) : Host.Outcome State Fault Refusal :=
  let u := 0x600 + stack % 8
  let b := s.bank u
  let s := s.setBank u { b with ce := b.ce + BitVec.ofNat 16 count }
  .next (rows.foldl (fun (s : State) r =>
    (s.setBank u ((s.bank u).uncorrectable (bankLoc r))).addPoison (rowGranules (stack % 8) r Config.hbmRowBytes)) s)

/-- The place that a scrub of a unit has found bad: 8 bytes of the Silo, a line of HBM in L2, or, from 2^52 on, a place as UNCORRECTABLE_ERROR names it,
such as 8 bytes of a loft area (log entries 17 and 35). -/
def scrubbed (u l : Nat) : Nat := if 0x608 ≤ u then 2 * (memKey 1 l / 8) else if l < 2 ^ 52 then 2 * (memKey 0 l / 8) else l

/-- ARRAY_SCRUB_PASS of a Silo, or of an L2 slice with its loft ways: the locations corrected, then those found bad. -/
def execArrayScrubPass (u : Nat) (corrected bad : List Nat) (s : State) : Host.Outcome State Fault Refusal :=
  let s := corrected.foldl (fun (s : State) l => s.setBank u ((s.bank u).corrected (bankLoc l))) s
  .next (bad.foldl (fun (s : State) l =>
    (s.setBank u ((s.bank u).uncorrectable (bankLoc l))).spoil (scrubbed u l)) s)

/-! ## Power and clock steps (R396, R397) -/

/-- Units left over go to the lower clusters first, one each, as far as their demand goes. -/
def topUp : Nat → List (Nat × Nat) → List Nat
  | _, [] => []
  | 0, (_, g) :: rest => g :: topUp 0 rest
  | n + 1, (r, g) :: rest => if g < r then (g + 1) :: topUp n rest else g :: topUp (n + 1) rest

/-- Grants of a period: the demands, or their shares of B. -/
def grantsOf (demand : List Nat) (b : Nat) : List Nat :=
  let sum := demand.sum
  if sum ≤ b then demand
  else
    let g := demand.map (fun r => r * b / sum)
    topUp (b - g.sum) (demand.zip g)

/-- A die at a period's end: its counters, then its step. -/
def Die.period (d : Die) (short easy : Bool) : Die :=
  let shorts := if short then d.short + 1 else 0
  let calms := if easy && decide (d.temp + 5 ≤ d.trip) then d.calm + 1 else 0
  let want :=
    if d.trip + 10 ≤ d.temp then 3
    else if d.trip ≤ d.temp ∨ 4 ≤ shorts then d.step + 1
    else if 500 ≤ calms then d.step - 1
    else d.step
  let step := min 3 (max d.stepMin want)
  if step = d.step then { d with short := shorts, calm := calms }
  else { d with step := step, short := 0, calm := 0, stepDn := if d.step < step then d.stepDn + 1 else d.stepDn }

/-- Grant periods in 1 ms. -/
def avgPeriods : Nat := 500

/-- What a period may grant so that the periods of 1 ms, it and those before it, grant no more than CAP on average (R22, R397). -/
def Device.budget (d : Device) : Nat := avgPeriods * d.cap - (d.granted.take (avgPeriods - 1)).sum

/-- GRANT_PERIOD: demands of the clusters at their step and at the next higher clock, temperatures and hottest sensors of the dies, the
average draw, and the arbiter's budget, which keeps the average of 1 ms within CAP. -/
def execGrantPeriod (demand demandUp temp hot : List Nat) (draw budget : Nat) (s : State) : Host.Outcome State Fault Refusal :=
  let b := min 12000 (min budget s.dev.budget)
  let req := (List.range 256).map (fun c => demand.getD c 0)
  let g := grantsOf req b
  let short := decide (b < req.sum)
  let easy := decide (10 * demandUp.sum ≤ 9 * b)
  let s := { s with dev := { s.dev with draw := draw, granted := (g.sum :: s.dev.granted).take (avgPeriods - 1) } }
  .next ([0, 1, 2, 3].foldl (fun (s : State) i =>
    let s := s.updDie i (fun d =>
      ({ d with grants := (g.drop (64 * i)).take 64, temp := temp.getD i 0, hot := hot.getD i 0 } : Die).period short easy)
    if (s.die i).trip + 10 ≤ (s.die i).temp then s.raise 0 2 else s) s)

/-! ## Fences and links (R12, R22, R395, R397) -/

/-- A cluster takes new placement when it is neither fenced nor failing. One that takes none from now on gives its logical cores to another, in every
job that lasts (R13). -/
def State.refence (s : State) (c : Nat) : State :=
  let was := (s.cluster c).healthy
  let s := s.updCluster c (fun k => { k with healthy := !k.failed && !(s.die (c / 64)).fence.getLsbD (c % 64) })
  if was && !(s.cluster c).healthy then
    let heir := s.standIn c
    { s with ctxs := s.ctxs.map (fun p => (p.1, { p.2 with jobs := p.2.jobs.map (fun j => (j.1, j.2.refence c heir)) })) }
  else s

/-- CLUSTER_FENCE: a write of a die's FENCE word. Its clusters are fenced and freed in ascending number (log entry 85). -/
def execClusterFence (die : Nat) (mask : DWord) (s : State) : Host.Outcome State Fault Refusal :=
  if 4 ≤ die || !s.hasFn 0 then .next s
  else
    let s := s.updDie die (fun d => { d with fence := mask })
    .next ((List.range 64).foldl (fun s i => s.refence (64 * die + i)) s)

/-- FAILING_CLUSTER_FENCE: placement fences the cluster off; its logical cores are held elsewhere from then on, and its blocks end or move. -/
def execFailingClusterFence (c : Nat) (s : State) : Host.Outcome State Fault Refusal :=
  .next ((s.updCluster c (fun k => { k with failed := true })).refence c)

/-- A store to a peer fails (R395). -/
def State.storeFail (s : State) (d : List TRef × Nat × Nat × Nat) : State :=
  (s.phHere d.2.1 d.2.2.1 ⟨0, 0, 0, -1, 0⟩).engineReport d.2.1 6 (d.1.headD ⟨0, 0, 0⟩) 0x10 none true 0 .report

/-- Message operations of a cluster towards devices that no route leads to any more fail, and its stores to them too (R395). -/
def State.cutMsgs (s : State) (c : Nat) : State :=
  let far := (s.cluster c).msgs.filter (fun m => m.kind != 2 && !m.dsts.all s.reaches)
  let s := far.foldl (fun s m => s.msgFail c m 0x10 none false) s
  let lost := (s.cluster c).m1Due.filter (fun d => !s.reaches d.2.2.2)
  lost.foldl State.storeFail (s.updCluster c (fun k => { k with m1Due := k.m1Due.filter (fun d => s.reaches d.2.2.2) }))

/-- LINK_FAILURE: the link is fenced and its bank records an uncorrectable error. Operations towards devices without a route fail, and reductions with
such a rank abort (R334). -/
def execLinkFailure (link : Nat) (s : State) : Host.Outcome State Fault Refusal :=
  let u := 0x614 + link % 24
  let s := s.setBank u ((s.bank u).uncorrectable 0)
  let s := { s with dev := { s.dev with linkDown := s.dev.linkDown ||| BitVec.twoPow 24 (link % 24) } }
  let s := (s.clusters.map (fun p => p.1)).foldl State.cutMsgs s
  let cut (q : SwSeq) : Bool := s.clusters.any (fun c => c.2.msgs.any (fun m =>
    m.kind == 2 && m.gid == q.gid && m.seq == q.seq && !m.dsts.all s.reaches))
  .next { s with switches := s.switches.map (fun q => if cut q then { q with got := [], bad := false, aborted := true } else q) }

/-! ## Contexts (R347, R390) -/

/-- The command of a function ends with a result: 1 done, 2 refused (Table 18-3). -/
def State.result (s : State) (fn res cause : Nat) : State := s.updFn fn (fun g => { g with ctxRes := res, ctxCause := cause })

/-- A command is taken: the function exists and is not busy. -/
def State.idleFn (s : State) (fn : Nat) : Bool := s.hasFn fn && (s.fn fn).ctxRes != 0

/-- A service core hosts a handler, one that has not been killed. -/
def State.hosts (s : State) (c : Nat) : Bool := s.blocks.any (fun p => p.2.kind == .handler && p.2.core == 1024 + c && !p.2.warps.isEmpty)

/-- The cluster that hosts a handler: the named one as placement maps it, or the next healthy one in package order whose service core is free. A
die with a Silo load takes no block (R393), so that its clusters are passed over, as those whose service core is not free (log entry 84). -/
def State.handlerCluster (s : State) (c : Nat) : Option Nat :=
  let c := if (s.cluster c).healthy then c else s.standIn c
  let p := packageOrder.idxOf c
  (packageOrder.drop p ++ packageOrder.take p).find? (fun k => (s.cluster k).healthy && s.dieOpen (k / 64) && !s.hosts k)

/-- The handler of a context starts on a service core (R347). -/
def State.startHandler (s : State) (slot c : Nat) : State :=
  match Tab.find s.ctxs slot with
  | none => s
  | some k =>
    let a : Start := { ctx := slot, lid := 0, idx := 0, kind := .handler, regs := 128, unif := 64, nthr := 32, size := 0, loft := 0, prot := 0,
                       grid := false, heap := 0, quota := 0, entry := k.hentry }
    let (s, key) := s.startBlock a (1024 + c) 0 (entryUni 0 0 0 0 k.harg 0 1 32 0 0)
    s.updCtx slot (fun c => { c with handler := some key })

/-- A context descriptor (Table 18-4) as the context it makes. -/
def Ctx.of (fn : Nat) (h : List Byte) : Ctx :=
  let d (o : Nat) : DWord := BitVec.ofNat 64 (hdrNat h o 8)
  { fn := fn, root := hdrNat h 0 8, loft := (List.range 4).map (fun i => hdrNat h (8 + 2 * i) 2), loftUsed := [0, 0, 0, 0], hentry := d 0x10,
    harg := d 0x18, hcluster := hdrNat h 0x20 1, save := d 0x28, peers := d 0x30, npeers := hdrNat h 0x38 4, handler := none, queue := [],
    waiting := [], seq := 0, seqs := [], bound := [], debug := 0, recctl := 0, recbase := 0, recsize := 0, recin := 0, recpos := 0, recmap := [],
    graphs := [], phases := [], jobs := [], phase := none, m2s := [], serial := 0, drops := 0, dying := false }

/-- The fields of a descriptor keep their limits. -/
def ctxDescOk (h : List Byte) : Bool :=
  hdrNat h 0 8 % 65536 == 0 && decide (hdrNat h 0 8 < Config.hbmBytes) && hdrNat h 0x10 8 != 0 && hdrNat h 0x10 8 % 4 == 0 &&
    hdrNat h 0x21 7 == 0 && decide (hdrNat h 0x38 4 ≤ 4096) && hdrNat h 0x3C 4 == 0

/-- A loft request takes some die past its 384 units (R158). -/
def State.loftOver (s : State) (c : Ctx) : Bool :=
  [0, 1, 2, 3].any (fun d => decide (Config.loftUnits < (s.ctxs.map (fun p => p.2.loft.getD d 0)).sum + c.loft.getD d 0))

/-- CONTEXT_CREATE: CTXCMD with OP 1. -/
def execContextCreate (fn slot : Nat) (s : State) : Host.Outcome State Fault Refusal :=
  if !s.idleFn fn then .next s
  else
    let a := (s.fn fn).ctxArg.toNat
    let h := s.mem.bytes (memKey 2 (a % 2 ^ 52)) 64
    let c := Ctx.of fn h
    if 64 ≤ slot ∨ (Tab.find s.ctxs slot).isSome = true ∨ a % 64 ≠ 0 ∨ ctxDescOk h = false then .next (s.result fn 2 0x03)
    else if s.loftOver c then .next (s.result fn 2 0x1A)
    else
      match s.handlerCluster c.hcluster with
      | none => .next (s.result fn 2 0x14)
      | some k => .next ((({ s with ctxs := Tab.ins s.ctxs slot c } : State).startHandler slot k).result fn 1 0)

/-- A command of a function on a context it has created. -/
def State.owned (s : State) (fn slot : Nat) : Option Ctx := (Tab.find s.ctxs slot).bind (fun c => if c.fn = fn then some c else none)

/-- CONTEXT_DESTROY: every job is cancelled; the function is busy until it is done. -/
def execContextDestroy (fn slot : Nat) (s : State) : Host.Outcome State Fault Refusal :=
  if !s.idleFn fn then .next s
  else
    match s.owned fn slot with
    | none => .next (s.result fn 2 0x03)
    | some c =>
      let s := (s.result fn 0 0).updFn fn (fun g => { g with destroying := some slot })
      let s := s.updCtx slot (fun c => { c with dying := true })
      .next ((0 :: c.jobs.map (fun p => p.1)).foldl (fun s j => s.cancelLevel slot 4 j) s)

/-- Nothing of a context runs or waits any more but its handler. -/
def State.ctxQuiet (s : State) (slot : Nat) : Bool :=
  s.blocks.all (fun p => p.2.ctx != slot || p.2.kind == .handler) && s.launches.all (fun p => p.2.ctx != slot || p.2.count == 0) &&
    s.dies.all (fun p => p.2.ready.all (fun r => r.ctx != slot)) &&
    s.clusters.all (fun p => p.2.ceQ.all (fun k => k.ctx != slot) && (match p.2.ceRun with | some r => r.1.ctx != slot | none => true) &&
      p.2.msgs.all (fun m => m.ctx != slot) && p.2.gather.all (fun g => g.ctx != slot) && p.2.formed.all (fun g => g.ctx != slot)) &&
    s.grans.all (fun p => p.2.queue.all (fun o => o.ctx != slot) && (match p.2.run with | some r => r.1.ctx != slot | none => true))

/-- The bindings of a context are removed (R178): the region fields of their objects are cleared. -/
def State.unbindAll (s : State) (c : Ctx) : State :=
  c.bound.foldl (fun (s : State) r =>
    let v := s.objBits r.1
    s.setObjBits r.1 (0#64 ++ v.extractLsb' 18 46 ++ 0#1 ++ v.extractLsb' 0 17)) s

/-- CONTEXT_DESTROY_DONE: the slot and the loft are free, and nothing of the context stays resident in a Granary unit (R273). -/
def execContextDestroyDone (slot : Nat) (s : State) : Host.Outcome State Fault Refusal :=
  match Tab.find s.ctxs slot with
  | none => .next s
  | some c =>
    if !c.dying || !s.ctxQuiet slot then .next s
    else
      let s := s.unbindAll c
      let s := match c.handler with
        | some k => (s.killTiles k).freeBlock k
        | none => s
      let s := s.tlbDrop slot (fun _ => true)
      let s := { s with ctxs := Tab.del s.ctxs slot, launches := s.launches.filter (fun p => p.2.ctx != slot),
                        pairs := s.pairs.filter (fun p => p.2.ctx != slot),
                        grans := s.grans.map (fun (p : Nat × GranUnit) => (p.1, { p.2 with tabs := p.2.tabs.filter (fun t => t.ctx != slot) })) }
      .next ((s.updFn c.fn (fun g => { g with destroying := none })).result c.fn 1 0)

/-- START_HANDLER: a killed handler starts again; a running one is left alone. -/
def execStartHandler (fn slot : Nat) (s : State) : Host.Outcome State Fault Refusal :=
  if !s.idleFn fn then .next s
  else
    match s.owned fn slot with
    | none => .next (s.result fn 2 0x03)
    | some c =>
      if c.handler.isSome then .next (s.result fn 1 0)
      else
        match s.handlerCluster c.hcluster with
        | none => .next (s.result fn 2 0x14)
        | some k => .next ((s.startHandler slot k).result fn 1 0)

/-- SIGNAL_HOST: HOST is set in every live block of the context, saved ones and the handler included (R357). -/
def execSignalHost (fn slot : Nat) (s : State) : Host.Outcome State Fault Refusal :=
  if !s.idleFn fn then .next s
  else
    match s.owned fn slot with
    | none => .next (s.result fn 2 0x03)
    | some _ => .next ((s.setEvents (fun b => b.ctx == slot) 1).result fn 1 0)

/-! ## Silo loads (R393) -/

/-- A launch is live on a die: a kernel launch, a task or an item's launch that has not completed and has had a block there, or a pair launch in execution
with a cluster there (R393). -/
def State.liveOn (s : State) (die : Nat) : Bool :=
  s.launches.any (fun p => !p.2.complete && (p.2.dies.contains die ||
    (match s.pair? p.1 with | some q => q.state != 0 && q.phys.any (fun k => k / 64 == die) | none => false)))

/-- SILOGO: a load starts, or is refused in CTXRES of PF 0. A write while a load runs does nothing (log entry 36). -/
def execSilogo (s : State) : Host.Outcome State Fault Refusal :=
  if !s.hasFn 0 || s.dev.siloLoad.isSome then .next s
  else
    let pa := s.dev.siloDst.toNat
    let die := siloDie pa
    let off := pa % 2 ^ 31
    let len := s.dev.siloLen.toNat
    if s.liveOn die then .next (s.result 0 2 0x08)
    else if len = 0 ∨ len % 4096 ≠ 0 ∨ off % 4096 ≠ 0 ∨ 2 ^ 31 < off + len then .next (s.result 0 2 0x03)
    else .next { s with dev := { s.dev with siloLoad := some ⟨s.dev.siloSrc, die, off, len⟩ } }

/-- SILO_LOAD_DONE: the bytes are there, and vector 1 is raised. -/
def execSiloLoadDone (s : State) : Host.Outcome State Fault Refusal :=
  match s.dev.siloLoad with
  | none => .next s
  | some l =>
    let src := if l.src.getLsbD 63 then memKey 0 (l.src.toNat % 2 ^ 52) else memKey 2 (l.src.toNat % 2 ^ 52)
    let s := s.memWrite (atKeys (memKey 1 (l.die * 2 ^ 31 + l.off)) (s.mem.bytes src l.len))
    .next (({ s with dev := { s.dev with siloLoad := none } } : State).raise 0 1)

/-! ## Host registers and BAR4 (R387 to R389, R396) -/

/-- A register of every function. -/
def FnRegs.put (g : FnRegs) (off : Nat) (v : DWord) : FnRegs :=
  if off = 0x10 then { g with ctxArg := v }
  else if off = 0x20 then { g with evBase := v }
  else if off = 0x28 then
    (if ((List.range 11).map (fun i => 2 ^ (i + 6))).contains v.toNat then g.resize v.toNat else g)
  else if 0x80 ≤ off ∧ off < 0xA0 then { g with attNonce := g.attNonce.set ((off - 0x80) / 8) v }
  else if off = 0xA0 then { g with attDst := v }
  else if 0x8000 ≤ off ∧ off < 0x8040 then { g with msix := g.msix.setAll (atKeys (off - 0x8000) (leBytes 8 v.toNat)) }
  else g

/-- A register of PF 0 alone. A value outside a register's range is ignored. -/
def State.pfPut (s : State) (off : Nat) (v : DWord) : State :=
  let n := v.toNat
  if off = 0x40 then { s with dev := { s.dev with siloSrc := v } }
  else if off = 0x48 then { s with dev := { s.dev with siloDst := v } }
  else if off = 0x50 then { s with dev := { s.dev with siloLen := v } }
  else if off = 0x60 then { s with dev := { s.dev with apBase := v } }
  else if 0xD0 ≤ off ∧ off < 0xF0 then (if n ≤ 3 then s.updDie ((off - 0xD0) / 8) (fun d => { d with stepMin := n }) else s)
  else if 0xF0 ≤ off ∧ off < 0x110 then
    (if 85 ≤ n ∧ n ≤ 110 then s.updDie ((off - 0xF0) / 8) (fun d => { d with trip := n }) else s)
  else if off = 0x110 then (if 1000 ≤ n ∧ n ≤ 7500 then { s with dev := { s.dev with cap := n } } else s)
  else s

/-- Vectors whose mask has been taken off are sent (R387, log entry 76). -/
def State.unmask (s : State) (fn : Nat) : State :=
  let go := (s.fn fn).pend.filter (fun v => !((s.fn fn).vector v).2.2)
  go.foldl (fun s v => s.raise fn v) (s.updFn fn (fun g => { g with pend := g.pend.filter (fun v => !go.contains v) }))

/-- HOST_REGISTER_WRITE: a register that only keeps what is written. Anything but 8 bytes at a multiple of 8 is dropped, and a VF has no
register of PF 0. -/
def execHostRegisterWrite (fn off size : Nat) (v : DWord) (s : State) : Host.Outcome State Fault Refusal :=
  if !s.hasFn fn || size != 8 || off % 8 != 0 then .next s
  else
    let s := (s.updFn fn (fun g => g.put off v)).unmask fn
    .next (if fn = 0 then s.pfPut off v else s)

/-- STATUS (Table 18-3). -/
def Device.status (d : Device) : DWord :=
  BitVec.ofNat 64 ((if d.ready then 1 else 0) + (if d.recovery then 2 else 0) + (if d.cfgdef then 4 else 0) + 16 * d.bringUp)

/-- The eight pending bits from an offset in their array. -/
def FnRegs.pendWord (g : FnRegs) (off : Nat) : DWord :=
  BitVec.ofNat 64 ((((List.range 64).filter (fun i => g.pend.contains (8 * off + i))).map (fun i => 2 ^ i)).sum)

/-- What a read of a register of every function gives (Table 18-3); none for another offset. -/
def FnRegs.get (g : FnRegs) (d : Device) (off : Nat) : Option DWord :=
  if off = 0x00 then some d.status
  else if off = 0x10 then some g.ctxArg
  else if off = 0x18 then some (BitVec.ofNat 64 (g.ctxRes + 256 * g.ctxCause))
  else if off = 0x20 then some g.evBase
  else if off = 0x28 then some (BitVec.ofNat 64 g.evSize)
  else if off = 0x30 then some (BitVec.ofNat 64 g.evHead)
  else if off = 0x38 then some (BitVec.ofNat 64 g.evTail)
  else if 0x80 ≤ off ∧ off < 0xA0 then some (g.attNonce.getD ((off - 0x80) / 8) 0)
  else if off = 0xA0 then some g.attDst
  else if 0x8000 ≤ off ∧ off < 0x8040 then some (BitVec.ofNat 64 (leVal (g.msix.bytes (off - 0x8000) 8)))
  else if 0xC000 ≤ off ∧ off < 0x10000 then some (g.pendWord (off - 0xC000))
  else none

/-- What a read of a register of PF 0 alone gives; none for another offset. -/
def State.pfGet (s : State) (off : Nat) : Option DWord :=
  if off = 0x40 then some s.dev.siloSrc
  else if off = 0x48 then some s.dev.siloDst
  else if off = 0x50 then some s.dev.siloLen
  else if off = 0x60 then some s.dev.apBase
  else if 0xB0 ≤ off ∧ off < 0xD0 then some (s.die ((off - 0xB0) / 8)).fence
  else if 0xD0 ≤ off ∧ off < 0xF0 then some (BitVec.ofNat 64 (s.die ((off - 0xD0) / 8)).stepMin)
  else if 0xF0 ≤ off ∧ off < 0x110 then some (BitVec.ofNat 64 (s.die ((off - 0xF0) / 8)).trip)
  else if off = 0x110 then some (BitVec.ofNat 64 s.dev.cap)
  else none

/-- Registers that PF 0 alone has, those only written among them. -/
def pfOnly (off : Nat) : Bool := (decide (0x40 ≤ off) && decide (off < 0x68)) || (decide (0xB0 ≤ off) && decide (off < 0x120))

/-- What the host reads at an offset of a function's BAR0 (R389): all-ones for an access that is not 8 bytes at a multiple of 8, and from a function that
does not exist; 0 for a register of PF 0 in a VF. -/
def State.regRead (s : State) (fn off size : Nat) : DWord :=
  if size ≠ 8 ∨ off % 8 ≠ 0 ∨ s.dev.vfs < fn then BitVec.allOnes 64
  else if fn ≠ 0 ∧ pfOnly off = true then 0
  else (((s.fn fn).get s.dev off).orElse (fun _ => s.pfGet off)).getD (Config.hiddenReg fn off)

/-- Bytes of an image with some at an offset written. -/
def patch (bs : List Byte) (off : Nat) (data : List Byte) : List Byte :=
  bs.take off ++ List.replicate (off - bs.length) 0 ++ data ++ bs.drop (off + data.length)

/-- BAR4_ACCESS: the window from APBASE into HBM. A read returns the bytes there, as many as `data` has. In RECOVERY the window takes a new boot image,
from its first byte on (R398, log entry 80). -/
def execBar4Access (off : Nat) (write : Bool) (data : List Byte) (s : State) : Host.Outcome State Fault Refusal :=
  let pa := s.dev.apBase.toNat / 2 ^ 30 * 2 ^ 30 + off
  if 2 ^ 30 < off + data.length then .next s
  else if s.dev.recovery then
    let k := 2 + (if Config.recoverySlot then 1 else 0)
    .next (if write then { s with dev := { s.dev with flash := Tab.ins s.dev.flash k (patch (Tab.get [] s.dev.flash k) off data) } } else s)
  else if !s.dev.ready || decide (Config.hbmBytes < pa + data.length) then .next s
  else if write then .next (s.memWrite (atKeys (memKey 0 pa) data))
  else .next { s with outbox := s.outbox ++ [.readData 0 (s.mem.bytes (memKey 0 pa) data.length)] }

/-- PCIE_ATOMIC_REQUEST: Unsupported Request. -/
def execPcieAtomicRequest (fn : Nat) (s : State) : Host.Outcome State Fault Refusal := .next { s with outbox := s.outbox ++ [.ur fn] }

/-- CONFIGURATION_REQUEST: Retry Status until step 6 (R401). -/
def execConfigurationRequest (fn : Nat) (s : State) : Host.Outcome State Fault Refusal :=
  if s.dev.bringUp < 6 then .next { s with outbox := s.outbox ++ [.crs fn] } else .next s

/-! ## Boot, attestation and bring-up (R398 to R401) -/

/-- A firmware image or configuration block in flash (Table 18-7): the fields of its header, the bytes that its signature covers, and its body. -/
structure Image where
  magic   : Word
  kind    : Nat
  version : Word
  rbc     : Nat
  len     : Nat
  digest  : List Byte
  key     : List Byte
  sig     : List Byte
  header  : List Byte
  body    : List Byte

/-- The image that bytes in flash are. -/
def Image.of (h : List Byte) : Image :=
  { magic := BitVec.ofNat 32 (hdrNat h 0 4), kind := hdrNat h 4 1, version := BitVec.ofNat 32 (hdrNat h 8 4), rbc := hdrNat h 0xC 4,
    len := hdrNat h 0x10 8, digest := (h.drop 0x20).take 64, key := (h.drop 0x60).take 1793, sig := (h.drop 0x768).take 1280,
    header := h.take 0x1000, body := (h.drop 0x1000).take (hdrNat h 0x10 8) }

/-- An image is accepted (R398). -/
def Image.accepted (i : Image) (kind fuses : Nat) : Bool :=
  i.magic == 0x465A5645 && i.kind == kind && decide (i.rbc ≤ 128) && i.len == i.body.length &&
    Config.shake256 32 i.key == Config.rootDigest && Config.shake256 64 i.body == i.digest &&
    Config.falconVerify i.key i.sig (Config.shake256 64 (i.header.take 0x768)) && decide (fuses ≤ i.rbc)

/-- The image in a place of flash, which is keyed by 2 × kind + slot. -/
def Device.flashed (d : Device) (k : Nat) : Option Image := (Tab.find d.flash k).map Image.of

/-- The accepted image of a kind: slot A, then slot B. -/
def Device.image (d : Device) (kind : Nat) : Option Nat :=
  [2 * kind, 2 * kind + 1].find? (fun k => match d.flashed k with | some i => i.accepted kind d.fuses | none => false)

/-- The configuration block in force: accepted, and bound to this device (R399). -/
def Device.config (d : Device) : Option (Nat × Image) :=
  (d.image 4).bind fun k => (d.flashed k).bind fun i =>
    if Config.cfgPufd i.body = Config.shake256 32 Config.pufPublic then some (k, i) else none

/-- Reset keeps what is stored, flash, fuses, the fabric id and the count of signatures, and the host's memory, which is not the device's (R401). -/
def State.wipe (s : State) : State :=
  { State.reset with agenda := s.agenda, pace := s.pace, tags := s.tags,
                     mem := s.mem.filter (fun p => decide (memKey 2 0 ≤ p.1) && decide (p.1 < memKey 3 0)),
                     dev := { Device.new with flash := s.dev.flash, fuses := s.dev.fuses, fid := s.dev.fid, signed := s.dev.signed } }

/-- Values of the configuration block, or the defaults with CFGDEF. One outside its register's range is ignored (R396). -/
def State.configure (s : State) : State :=
  match s.dev.config with
  | none => { s with dev := { s.dev with cfgdef := true, links := 0, vfs := 0, cap := 7500 } }
  | some (_, i) =>
    let f (k : Nat) : Nat := Config.cfgField k i.body
    let s := { s with dev := { s.dev with links := BitVec.ofNat 24 (f 0), vfs := min 16 (f 1) } }
    let s := s.pfPut 0x110 (BitVec.ofNat 64 (f 2))
    [0, 1, 2, 3].foldl (fun (s : State) d => (s.pfPut (0xF0 + 8 * d) (BitVec.ofNat 64 (f (4 + d)))).pfPut (0xD0 + 8 * d) (BitVec.ofNat 64 (f (8 + d)))) s

/-- DEVICE_RESET: the bring-up steps of R401 in order. Without boot firmware the device stays in RECOVERY at step 2; without the firmware of step
5 it stays there (log entry 37). -/
def execDeviceReset (s : State) : Host.Outcome State Fault Refusal :=
  let s := s.wipe
  match s.dev.image 1 with
  | none => .next { s with dev := { s.dev with bringUp := 2, recovery := true } }
  | some boot =>
    let s := s.configure
    match s.dev.image 2, s.dev.image 3 with
    | some svc, some link =>
      let cfg := match s.dev.config with | some (k, _) => [k] | none => []
      .next { s with dev := { s.dev with bringUp := 6, ready := true, bootSlot := [boot, svc, link] ++ cfg } }
    | _, _ => .next { s with dev := { s.dev with bringUp := 5 } }

/-- RBCOMMIT: counter fuses are blown up to the running boot image's RBC, never more (R398). -/
def execRbcommit (s : State) : Host.Outcome State Fault Refusal :=
  match s.dev.bootSlot.head?.bind s.dev.flashed with
  | none => .next s
  | some i => if s.hasFn 0 then .next { s with dev := { s.dev with fuses := max s.dev.fuses i.rbc } } else .next s

/-- The body of an attestation report (R400): its fields in the order of the rule (log entry 38). -/
def State.reportBody (s : State) (fn : Nat) : List Byte :=
  let digests := (s.dev.bootSlot.map (fun k => match s.dev.flashed k with
    | some i => Config.shake256 64 (i.header ++ i.body)
    | none => [])).flatten
  ((s.fn fn).attNonce.map (fun w => leBytes 8 w.toNat)).flatten ++ digests ++ leBytes 4 s.dev.fuses ++
    Config.identityKey (Config.shake256 64 Config.pufResponse) ++ Config.certificate

/-- ATTGO: the report goes to ATTDST, and an event-ring entry with cause 0 tells the host. -/
def execAttgo (fn : Nat) (s : State) : Host.Outcome State Fault Refusal :=
  if !s.hasFn fn then .next s
  else
    let body := s.reportBody fn
    let sig := Config.falconSign s.dev.signed (Config.shake256 64 body)
    let s := { s with dev := { s.dev with signed := s.dev.signed + 1 } }
    let s := s.memWrite (atKeys (memKey 2 ((s.fn fn).attDst.toNat % 2 ^ 52)) (body ++ sig))
    .next (s.ringOrDefer fn 0 ⟨0, 0, 0, 0, 0, 0, 0, 0, 0⟩)

end Sys2Proof.Machine
end

