-- ==== Sys2Proof/Machine/Dispatch.lean ====
section
/-!
DEFINITION. One arm per constructor of Instr: each calls the meaning of its instruction.
-/

namespace Sys2Proof.Machine

/-- What an instruction or an event does (R54, and the owning chapters). -/
def exec (i : Instr) (s : State) : Host.Outcome State Fault Refusal :=
  match i with
  | .iadd f => Sys2Proof.Machine.execIadd f s
  | .iaddSatI f => Sys2Proof.Machine.execIaddSatI f s
  | .iaddSatN f => Sys2Proof.Machine.execIaddSatN f s
  | .isub f => Sys2Proof.Machine.execIsub f s
  | .isubSatI f => Sys2Proof.Machine.execIsubSatI f s
  | .isubSatN f => Sys2Proof.Machine.execIsubSatN f s
  | .imul f => Sys2Proof.Machine.execImul f s
  | .imulHiI f => Sys2Proof.Machine.execImulHiI f s
  | .imulHiN f => Sys2Proof.Machine.execImulHiN f s
  | .imad f => Sys2Proof.Machine.execImad f s
  | .iminI f => Sys2Proof.Machine.execIminI f s
  | .iminN f => Sys2Proof.Machine.execIminN f s
  | .imaxI f => Sys2Proof.Machine.execImaxI f s
  | .imaxN f => Sys2Proof.Machine.execImaxN f s
  | .and f => Sys2Proof.Machine.execAnd f s
  | .or f => Sys2Proof.Machine.execOr f s
  | .xor f => Sys2Proof.Machine.execXor f s
  | .andn f => Sys2Proof.Machine.execAndn f s
  | .shl f => Sys2Proof.Machine.execShl f s
  | .shr f => Sys2Proof.Machine.execShr f s
  | .sar f => Sys2Proof.Machine.execSar f s
  | .rol f => Sys2Proof.Machine.execRol f s
  | .popc f => Sys2Proof.Machine.execPopc f s
  | .clz f => Sys2Proof.Machine.execClz f s
  | .brev f => Sys2Proof.Machine.execBrev f s
  | .ctz f => Sys2Proof.Machine.execCtz f s
  | .bfxN f => Sys2Proof.Machine.execBfxN f s
  | .bfxI f => Sys2Proof.Machine.execBfxI f s
  | .bfi f => Sys2Proof.Machine.execBfi f s
  | .icmpEq f => Sys2Proof.Machine.execIcmpEq f s
  | .icmpNe f => Sys2Proof.Machine.execIcmpNe f s
  | .icmpLtI f => Sys2Proof.Machine.execIcmpLtI f s
  | .icmpLtN f => Sys2Proof.Machine.execIcmpLtN f s
  | .icmpLeI f => Sys2Proof.Machine.execIcmpLeI f s
  | .icmpLeN f => Sys2Proof.Machine.execIcmpLeN f s
  | .icmpTst f => Sys2Proof.Machine.execIcmpTst f s
  | .sel fn f => Sys2Proof.Machine.execSel fn f s
  | .mov f => Sys2Proof.Machine.execMov f s
  | .xrd f => Sys2Proof.Machine.execXrd f s
  | .xwr f => Sys2Proof.Machine.execXwr f s
  | .xset f => Sys2Proof.Machine.execXset f s
  | .pand f => Sys2Proof.Machine.execPand f s
  | .por f => Sys2Proof.Machine.execPor f s
  | .pxor f => Sys2Proof.Machine.execPxor f s
  | .pnot f => Sys2Proof.Machine.execPnot f s
  | .smov f => Sys2Proof.Machine.execSmov f s
  | .sadd f => Sys2Proof.Machine.execSadd f s
  | .sand f => Sys2Proof.Machine.execSand f s
  | .sshl f => Sys2Proof.Machine.execSshl f s
  | .adda f => Sys2Proof.Machine.execAdda f s
  | .addaX4 f => Sys2Proof.Machine.execAddaX4 f s
  | .addaX16 f => Sys2Proof.Machine.execAddaX16 f s
  | .suba f => Sys2Proof.Machine.execSuba f s
  | .rdl f => Sys2Proof.Machine.execRdl f s
  | .br f => Sys2Proof.Machine.execBr f s
  | .brIfP f => Sys2Proof.Machine.execBrIfP f s
  | .brIfNotP f => Sys2Proof.Machine.execBrIfNotP f s
  | .call f => Sys2Proof.Machine.execCall f s
  | .callIndirect f => Sys2Proof.Machine.execCallIndirect f s
  | .ret f => Sys2Proof.Machine.execRet f s
  | .switch f => Sys2Proof.Machine.execSwitch f s
  | .voteAny f => Sys2Proof.Machine.execVoteAny f s
  | .voteAll f => Sys2Proof.Machine.execVoteAll f s
  | .voteBallot f => Sys2Proof.Machine.execVoteBallot f s
  | .voteCnt f => Sys2Proof.Machine.execVoteCnt f s
  | .exit f => Sys2Proof.Machine.execExit f s
  | .yield f => Sys2Proof.Machine.execYield f s
  | .nop f => Sys2Proof.Machine.execNop f s
  | .tryMark f => Sys2Proof.Machine.execTryMark f s
  | .fail f => Sys2Proof.Machine.execFail f s
  | .failIfP f => Sys2Proof.Machine.execFailIfP f s
  | .failIfNotP f => Sys2Proof.Machine.execFailIfNotP f s
  | .cut f => Sys2Proof.Machine.execCut f s
  | .cutall f => Sys2Proof.Machine.execCutall f s
  | .depth f => Sys2Proof.Machine.execDepth f s
  | .alts f => Sys2Proof.Machine.execAlts f s
  | .sbegin f => Sys2Proof.Machine.execSbegin f s
  | .send f => Sys2Proof.Machine.execSend f s
  | .glean f => Sys2Proof.Machine.execGlean f s
  | .fadd f => Sys2Proof.Machine.execFadd f s
  | .faddRz f => Sys2Proof.Machine.execFaddRz f s
  | .faddRu f => Sys2Proof.Machine.execFaddRu f s
  | .faddRd f => Sys2Proof.Machine.execFaddRd f s
  | .fsub f => Sys2Proof.Machine.execFsub f s
  | .fsubRz f => Sys2Proof.Machine.execFsubRz f s
  | .fsubRu f => Sys2Proof.Machine.execFsubRu f s
  | .fsubRd f => Sys2Proof.Machine.execFsubRd f s
  | .fmul f => Sys2Proof.Machine.execFmul f s
  | .fmulRz f => Sys2Proof.Machine.execFmulRz f s
  | .fmulRu f => Sys2Proof.Machine.execFmulRu f s
  | .fmulRd f => Sys2Proof.Machine.execFmulRd f s
  | .ffma f => Sys2Proof.Machine.execFfma f s
  | .ffmaRz f => Sys2Proof.Machine.execFfmaRz f s
  | .ffmaRu f => Sys2Proof.Machine.execFfmaRu f s
  | .ffmaRd f => Sys2Proof.Machine.execFfmaRd f s
  | .fmin f => Sys2Proof.Machine.execFmin f s
  | .fmax f => Sys2Proof.Machine.execFmax f s
  | .fminnum f => Sys2Proof.Machine.execFminnum f s
  | .fmaxnum f => Sys2Proof.Machine.execFmaxnum f s
  | .fcmpEq f => Sys2Proof.Machine.execFcmpEq f s
  | .fcmpLt f => Sys2Proof.Machine.execFcmpLt f s
  | .fcmpLe f => Sys2Proof.Machine.execFcmpLe f s
  | .fcmpUn f => Sys2Proof.Machine.execFcmpUn f s
  | .hadd2 f => Sys2Proof.Machine.execHadd2 f s
  | .hsub2 f => Sys2Proof.Machine.execHsub2 f s
  | .hmul2 f => Sys2Proof.Machine.execHmul2 f s
  | .hfma2 f => Sys2Proof.Machine.execHfma2 f s
  | .fabs f => Sys2Proof.Machine.execFabs f s
  | .fneg f => Sys2Proof.Machine.execFneg f s
  | .fcpsgn f => Sys2Proof.Machine.execFcpsgn f s
  | .fclass f => Sys2Proof.Machine.execFclass f s
  | .cvtBf16F32 f => Sys2Proof.Machine.execCvtBf16F32 f s
  | .cvtBf16F32Sr f => Sys2Proof.Machine.execCvtBf16F32Sr f s
  | .cvtF32Bf16 f => Sys2Proof.Machine.execCvtF32Bf16 f s
  | .cvtF32I32 f => Sys2Proof.Machine.execCvtF32I32 f s
  | .cvtI32F32RzSat f => Sys2Proof.Machine.execCvtI32F32RzSat f s
  | .cvtI32F32Sat f => Sys2Proof.Machine.execCvtI32F32Sat f s
  | .cvtF32N32 f => Sys2Proof.Machine.execCvtF32N32 f s
  | .cvtN32F32RzSat f => Sys2Proof.Machine.execCvtN32F32RzSat f s
  | .cvtE4m3 f => Sys2Proof.Machine.execCvtE4m3 f s
  | .cvtE4m3Sr f => Sys2Proof.Machine.execCvtE4m3Sr f s
  | .cvtE5m2 f => Sys2Proof.Machine.execCvtE5m2 f s
  | .cvtE5m2Sr f => Sys2Proof.Machine.execCvtE5m2Sr f s
  | .cvtF32E4m3 f => Sys2Proof.Machine.execCvtF32E4m3 f s
  | .cvtF32E5m2 f => Sys2Proof.Machine.execCvtF32E5m2 f s
  | .pack2 f => Sys2Proof.Machine.execPack2 f s
  | .ld16 f => Sys2Proof.Machine.execLd16 f s
  | .ld32 f => Sys2Proof.Machine.execLd32 f s
  | .ld64 f => Sys2Proof.Machine.execLd64 f s
  | .ld128 f => Sys2Proof.Machine.execLd128 f s
  | .ld16S f => Sys2Proof.Machine.execLd16S f s
  | .ldb f => Sys2Proof.Machine.execLdb f s
  | .ldbs f => Sys2Proof.Machine.execLdbs f s
  | .st8 f => Sys2Proof.Machine.execSt8 f s
  | .st16 f => Sys2Proof.Machine.execSt16 f s
  | .st32 f => Sys2Proof.Machine.execSt32 f s
  | .st64 f => Sys2Proof.Machine.execSt64 f s
  | .st128 f => Sys2Proof.Machine.execSt128 f s
  | .ldeF32 f => Sys2Proof.Machine.execLdeF32 f s
  | .ldeBf16x2 f => Sys2Proof.Machine.execLdeBf16x2 f s
  | .ldexp f => Sys2Proof.Machine.execLdexp f s
  | .steF32 f => Sys2Proof.Machine.execSteF32 f s
  | .steBf16x2 f => Sys2Proof.Machine.execSteBf16x2 f s
  | .lds32 f => Sys2Proof.Machine.execLds32 f s
  | .lds64 f => Sys2Proof.Machine.execLds64 f s
  | .lds128 f => Sys2Proof.Machine.execLds128 f s
  | .lds16 f => Sys2Proof.Machine.execLds16 f s
  | .sts32 f => Sys2Proof.Machine.execSts32 f s
  | .sts64 f => Sys2Proof.Machine.execSts64 f s
  | .sts128 f => Sys2Proof.Machine.execSts128 f s
  | .sts16 f => Sys2Proof.Machine.execSts16 f s
  | .ldc32 f => Sys2Proof.Machine.execLdc32 f s
  | .stc32 f => Sys2Proof.Machine.execStc32 f s
  | .gjoin f => Sys2Proof.Machine.execGjoin f s
  | .gleave f => Sys2Proof.Machine.execGleave f s
  | .silowait f => Sys2Proof.Machine.execSilowait f s
  | .silost f => Sys2Proof.Machine.execSilost f s
  | .pref f => Sys2Proof.Machine.execPref f s
  | .spill f => Sys2Proof.Machine.execSpill f s
  | .fill f => Sys2Proof.Machine.execFill f s
  | .eput f => Sys2Proof.Machine.execEput f s
  | .ego f => Sys2Proof.Machine.execEgo f s
  | .epoll f => Sys2Proof.Machine.execEpoll f s
  | .alloc f => Sys2Proof.Machine.execAlloc f s
  | .free f => Sys2Proof.Machine.execFree f s
  | .atomAdd f => Sys2Proof.Machine.execAtomAdd f s
  | .atomMaxI f => Sys2Proof.Machine.execAtomMaxI f s
  | .atomMinI f => Sys2Proof.Machine.execAtomMinI f s
  | .atomExch f => Sys2Proof.Machine.execAtomExch f s
  | .atomCas f => Sys2Proof.Machine.execAtomCas f s
  | .atomOr f => Sys2Proof.Machine.execAtomOr f s
  | .atomAnd f => Sys2Proof.Machine.execAtomAnd f s
  | .atomFadd2 f => Sys2Proof.Machine.execAtomFadd2 f s
  | .atomAdd64 f => Sys2Proof.Machine.execAtomAdd64 f s
  | .atomCas64 f => Sys2Proof.Machine.execAtomCas64 f s
  | .atomExch64 f => Sys2Proof.Machine.execAtomExch64 f s
  | .redxF f => Sys2Proof.Machine.execRedxF f s
  | .redxI f => Sys2Proof.Machine.execRedxI f s
  | .binrd f => Sys2Proof.Machine.execBinrd f s
  | .binclr f => Sys2Proof.Machine.execBinclr f s
  | .bind f => Sys2Proof.Machine.execBind f s
  | .acqX f => Sys2Proof.Machine.execAcqX f s
  | .acqS f => Sys2Proof.Machine.execAcqS f s
  | .rel f => Sys2Proof.Machine.execRel f s
  | .acqtryX f => Sys2Proof.Machine.execAcqtryX f s
  | .unbind f => Sys2Proof.Machine.execUnbind f s
  | .fence f => Sys2Proof.Machine.execFence f s
  | .bar f => Sys2Proof.Machine.execBar f s
  | .arrive f => Sys2Proof.Machine.execArrive f s
  | .arriveDrop f => Sys2Proof.Machine.execArriveDrop f s
  | .arriveJoin f => Sys2Proof.Machine.execArriveJoin f s
  | .barwait f => Sys2Proof.Machine.execBarwait f s
  | .bartest f => Sys2Proof.Machine.execBartest f s
  | .gbar f => Sys2Proof.Machine.execGbar f s
  | .swarm f => Sys2Proof.Machine.execSwarm f s
  | .swwait f => Sys2Proof.Machine.execSwwait f s
  | .swtest f => Sys2Proof.Machine.execSwtest f s
  | .tlwait f => Sys2Proof.Machine.execTlwait f s
  | .tlread f => Sys2Proof.Machine.execTlread f s
  | .tltest f => Sys2Proof.Machine.execTltest f s
  | .pharr f => Sys2Proof.Machine.execPharr f s
  | .phwait f => Sys2Proof.Machine.execPhwait f s
  | .phset f => Sys2Proof.Machine.execPhset f s
  | .phstat f => Sys2Proof.Machine.execPhstat f s
  | .plaunch f => Sys2Proof.Machine.execPlaunch f s
  | .pcancel f => Sys2Proof.Machine.execPcancel f s
  | .pi f => Sys2Proof.Machine.execPi f s
  | .pj f => Sys2Proof.Machine.execPj f s
  | .ptag f => Sys2Proof.Machine.execPtag f s
  | .pcell f => Sys2Proof.Machine.execPcell f s
  | .pdx f => Sys2Proof.Machine.execPdx f s
  | .pdy f => Sys2Proof.Machine.execPdy f s
  | .pdz f => Sys2Proof.Machine.execPdz f s
  | .pdsq f => Sys2Proof.Machine.execPdsq f s
  | .preci f => Sys2Proof.Machine.execPreci f s
  | .precj f => Sys2Proof.Machine.execPrecj f s
  | .preci2 f => Sys2Proof.Machine.execPreci2 f s
  | .precj2 f => Sys2Proof.Machine.execPrecj2 f s
  | .pconOpp f => Sys2Proof.Machine.execPconOpp f s
  | .pconSym f => Sys2Proof.Machine.execPconSym f s
  | .pconI f => Sys2Proof.Machine.execPconI f s
  | .pconJ f => Sys2Proof.Machine.execPconJ f s
  | .pdrop f => Sys2Proof.Machine.execPdrop f s
  | .pkq f => Sys2Proof.Machine.execPkq f s
  | .pkg f => Sys2Proof.Machine.execPkg f s
  | .pkstat f => Sys2Proof.Machine.execPkstat f s
  | .frcp f => Sys2Proof.Machine.execFrcp f s
  | .frsq f => Sys2Proof.Machine.execFrsq f s
  | .fsqrt f => Sys2Proof.Machine.execFsqrt f s
  | .fdiv f => Sys2Proof.Machine.execFdiv f s
  | .fexp2 f => Sys2Proof.Machine.execFexp2 f s
  | .flog2 f => Sys2Proof.Machine.execFlog2 f s
  | .fexp f => Sys2Proof.Machine.execFexp f s
  | .ftanh f => Sys2Proof.Machine.execFtanh f s
  | .fsin f => Sys2Proof.Machine.execFsin f s
  | .fcos f => Sys2Proof.Machine.execFcos f s
  | .fsincos f => Sys2Proof.Machine.execFsincos f s
  | .qclr f => Sys2Proof.Machine.execQclr f s
  | .qaddf f => Sys2Proof.Machine.execQaddf f s
  | .qdot2 f => Sys2Proof.Machine.execQdot2 f s
  | .qsubf f => Sys2Proof.Machine.execQsubf f s
  | .qrnd f => Sys2Proof.Machine.execQrnd f s
  | .qrndh f => Sys2Proof.Machine.execQrndh f s
  | .qwin f => Sys2Proof.Machine.execQwin f s
  | .qred f => Sys2Proof.Machine.execQred f s
  | .swap1 f => Sys2Proof.Machine.execSwap1 f s
  | .shfl f => Sys2Proof.Machine.execShfl f s
  | .shflx f => Sys2Proof.Machine.execShflx f s
  | .scan f => Sys2Proof.Machine.execScan f s
  | .rankf f => Sys2Proof.Machine.execRankf f s
  | .ranki f => Sys2Proof.Machine.execRanki f s
  | .maxw f => Sys2Proof.Machine.execMaxw f s
  | .minw f => Sys2Proof.Machine.execMinw f s
  | .rnd32 f => Sys2Proof.Machine.execRnd32 f s
  | .rndf f => Sys2Proof.Machine.execRndf f s
  | .qsave f => Sys2Proof.Machine.execQsave f s
  | .qload f => Sys2Proof.Machine.execQload f s
  | .qscan f => Sys2Proof.Machine.execQscan f s
  | .trap imm => Sys2Proof.Machine.execTrap imm s
  | .fwait f => Sys2Proof.Machine.execFwait f s
  | .sysr f => Sys2Proof.Machine.execSysr f s
  | .sysw f => Sys2Proof.Machine.execSysw f s
  | .sysset f => Sys2Proof.Machine.execSysset f s
  | .sysclr f => Sys2Proof.Machine.execSysclr f s
  | .commit f => Sys2Proof.Machine.execCommit f s
  | .prot f => Sys2Proof.Machine.execProt f s
  | .fork f => Sys2Proof.Machine.execFork f s
  | .rdv f => Sys2Proof.Machine.execRdv f s
  | .forkstat f => Sys2Proof.Machine.execForkstat f s
  | .spawn f => Sys2Proof.Machine.execSpawn f s
  | .spawni f => Sys2Proof.Machine.execSpawni f s
  | .launch f => Sys2Proof.Machine.execLaunch f s
  | .msgsend f => Sys2Proof.Machine.execMsgsend f s
  | .msgrem f => Sys2Proof.Machine.execMsgrem f s
  | .clk f => Sys2Proof.Machine.execClk f s
  | .waitev f => Sys2Proof.Machine.execWaitev f s
  | .brk f => Sys2Proof.Machine.execBrk f s
  | .cancel f => Sys2Proof.Machine.execCancel f s
  | .countr f => Sys2Proof.Machine.execCountr f s
  | .frpt f => Sys2Proof.Machine.execFrpt f s
  | .freplay f => Sys2Proof.Machine.execFreplay f s
  | .fresume f => Sys2Proof.Machine.execFresume f s
  | .fkill f => Sys2Proof.Machine.execFkill f s
  | .ptew f => Sys2Proof.Machine.execPtew f s
  | .tlbinv f => Sys2Proof.Machine.execTlbinv f s
  | .mwin f => Sys2Proof.Machine.execMwin f s
  | .mzero f => Sys2Proof.Machine.execMzero f s
  | .msave f => Sys2Proof.Machine.execMsave f s
  | .mrst f => Sys2Proof.Machine.execMrst f s
  | .mma f => Sys2Proof.Machine.execMma f s
  | .mmaTri f => Sys2Proof.Machine.execMmaTri f s
  | .medge f => Sys2Proof.Machine.execMedge f s
  | .mfmt f => Sys2Proof.Machine.execMfmt f s
  | .mdrain f => Sys2Proof.Machine.execMdrain f s
  | .mdrainh f => Sys2Proof.Machine.execMdrainh f s
  | .mdrainb f => Sys2Proof.Machine.execMdrainb f s
  | .msync f => Sys2Proof.Machine.execMsync f s
  | .mbar f => Sys2Proof.Machine.execMbar f s
  | .mwaitb f => Sys2Proof.Machine.execMwaitb f s
  | .issueVote blk wp => Sys2Proof.Machine.execIssueVote blk wp s
  | .loadComplete t k => Sys2Proof.Machine.execLoadComplete t k s
  | .pageWalkComplete core ctx va => Sys2Proof.Machine.execPageWalkComplete core ctx va s
  | .atomicService c => Sys2Proof.Machine.execAtomicService c s
  | .yieldTimeout t => Sys2Proof.Machine.execYieldTimeout t s
  | .copyCommandExecute c => Sys2Proof.Machine.execCopyCommandExecute c s
  | .copyCommandComplete c => Sys2Proof.Machine.execCopyCommandComplete c s
  | .pairLaunchStart l => Sys2Proof.Machine.execPairLaunchStart l s
  | .pairTestingComplete l => Sys2Proof.Machine.execPairTestingComplete l s
  | .pairBatchStart l c core => Sys2Proof.Machine.execPairBatchStart l c core s
  | .pairEntryApply l => Sys2Proof.Machine.execPairEntryApply l s
  | .pairLaunchSuspend l => Sys2Proof.Machine.execPairLaunchSuspend l s
  | .pairLaunchDrain l => Sys2Proof.Machine.execPairLaunchDrain l s
  | .pairLaunchComplete l => Sys2Proof.Machine.execPairLaunchComplete l s
  | .tileProgramStart c => Sys2Proof.Machine.execTileProgramStart c s
  | .matrixUnitOperation core => Sys2Proof.Machine.execMatrixUnitOperation core s
  | .tileProgramEnd c => Sys2Proof.Machine.execTileProgramEnd c s
  | .granaryOperation u => Sys2Proof.Machine.execGranaryOperation u s
  | .granaryOperationDone u => Sys2Proof.Machine.execGranaryOperationDone u s
  | .itemGatherTimeout c entry => Sys2Proof.Machine.execItemGatherTimeout c entry s
  | .dispatch core => Sys2Proof.Machine.execDispatch core s
  | .blockPlacement l => Sys2Proof.Machine.execBlockPlacement l s
  | .unitCompletion ctx code id => Sys2Proof.Machine.execUnitCompletion ctx code id s
  | .phaseEnd ctx => Sys2Proof.Machine.execPhaseEnd ctx s
  | .entryWindowWrite slot off data => Sys2Proof.Machine.execEntryWindowWrite slot off data s
  | .m0Arrival slot data head => Sys2Proof.Machine.execM0Arrival slot data head s
  | .m1Arrival slot va data head => Sys2Proof.Machine.execM1Arrival slot va data head s
  | .m1Acknowledgement c num cause va => Sys2Proof.Machine.execM1Acknowledgement c num cause va s
  | .phaseCompletionMessage ctx id rank => Sys2Proof.Machine.execPhaseCompletionMessage ctx id rank s
  | .m3Contribution gid seq rank bins win nrank => Sys2Proof.Machine.execM3Contribution gid seq rank bins win nrank s
  | .reductionWindowExpiry gid seq => Sys2Proof.Machine.execReductionWindowExpiry gid seq s
  | .reductionIncomplete gid seq => Sys2Proof.Machine.execReductionIncomplete gid seq s
  | .reductionRoundComplete gid seq => Sys2Proof.Machine.execReductionRoundComplete gid seq s
  | .faultRecordPost p => Sys2Proof.Machine.execFaultRecordPost p s
  | .eventRingDeferredWrite fn => Sys2Proof.Machine.execEventRingDeferredWrite fn s
  | .fwaitTimeout t => Sys2Proof.Machine.execFwaitTimeout t s
  | .commitPoint blk => Sys2Proof.Machine.execCommitPoint blk s
  | .rollback blk cause => Sys2Proof.Machine.execRollback blk cause s
  | .preemptionSave blk => Sys2Proof.Machine.execPreemptionSave blk s
  | .blockMove blk core => Sys2Proof.Machine.execBlockMove blk core s
  | .forwardingExpiry blk => Sys2Proof.Machine.execForwardingExpiry blk s
  | .timerEvent blk => Sys2Proof.Machine.execTimerEvent blk s
  | .timerDeadlineWrite blk high v => Sys2Proof.Machine.execTimerDeadlineWrite blk high v s
  | .errorBankLatch t u => Sys2Proof.Machine.execErrorBankLatch t u s
  | .errorBankClear t u => Sys2Proof.Machine.execErrorBankClear t u s
  | .correctedError u loc => Sys2Proof.Machine.execCorrectedError u loc s
  | .uncorrectableError u loc cells => Sys2Proof.Machine.execUncorrectableError u loc cells s
  | .siloRefreshWindow die group enter => Sys2Proof.Machine.execSiloRefreshWindow die group enter s
  | .hbmScrubPass stack count rows => Sys2Proof.Machine.execHbmScrubPass stack count rows s
  | .arrayScrubPass u corrected bad => Sys2Proof.Machine.execArrayScrubPass u corrected bad s
  | .grantPeriod demand demandUp temp hot draw budget => Sys2Proof.Machine.execGrantPeriod demand demandUp temp hot draw budget s
  | .linkFailure link => Sys2Proof.Machine.execLinkFailure link s
  | .contextCreate fn slot => Sys2Proof.Machine.execContextCreate fn slot s
  | .contextDestroy fn slot => Sys2Proof.Machine.execContextDestroy fn slot s
  | .contextDestroyDone slot => Sys2Proof.Machine.execContextDestroyDone slot s
  | .startHandler fn slot => Sys2Proof.Machine.execStartHandler fn slot s
  | .signalHost fn slot => Sys2Proof.Machine.execSignalHost fn slot s
  | .silogo => Sys2Proof.Machine.execSilogo s
  | .siloLoadDone => Sys2Proof.Machine.execSiloLoadDone s
  | .attgo fn => Sys2Proof.Machine.execAttgo fn s
  | .rbcommit => Sys2Proof.Machine.execRbcommit s
  | .clusterFence die mask => Sys2Proof.Machine.execClusterFence die mask s
  | .hostRegisterWrite fn off size v => Sys2Proof.Machine.execHostRegisterWrite fn off size v s
  | .bar4Access off write data => Sys2Proof.Machine.execBar4Access off write data s
  | .pcieAtomicRequest fn => Sys2Proof.Machine.execPcieAtomicRequest fn s
  | .configurationRequest fn => Sys2Proof.Machine.execConfigurationRequest fn s
  | .deviceReset => Sys2Proof.Machine.execDeviceReset s
  | .memoryOperationPerformed m => Sys2Proof.Machine.execMemoryOperationPerformed m s
  | .evtailWrite fn v => Sys2Proof.Machine.execEvtailWrite fn v s
  | .failingClusterFence c => Sys2Proof.Machine.execFailingClusterFence c s

end Sys2Proof.Machine
end

