-- ==== Sys2Proof/Machine/Sched.lean ====
section
/-!
DEFINITION. What moves next. The spec orders units only where it says so (R66, R68, R69), so a step takes what the agenda names, and the order
given here when it names nothing (log entry 40).
-/

namespace Sys2Proof.Machine

/-! ## Time -/

/-- ns pass: the package's counter (R356) and the refresh timer of each Silo (R155) advance. -/
def State.pass (s : State) (n : Nat) : State :=
  let s := { s with clk := s.clk + BitVec.ofNat 64 n }
  [0, 1, 2, 3].foldl (fun s i => s.updDie i (fun d => { d with silo := d.silo + n })) s

/-- The time before a step: what `pace` says, or 1 ns (log entry 40). -/
def State.tick (s : State) : State :=
  match s.pace with
  | [] => s.pass 1
  | n :: rest => { s.pass n with pace := rest }

/-! ## Passes -/

/-- The clause is tile-sequencer code. -/
def Issue.isTile (i : Issue) : Bool := match i.who with | .tile _ => true | .lanes _ _ _ => false

/-- The instruction words of a clause from its next one on. -/
def Issue.words (i : Issue) : List Word := i.line.drop (linePos i.pc + i.idx) ++ List.replicate 9 0

/-- The engine class of a clause (R35). -/
def Issue.cls (i : Issue) : Cls := clsOf i.isTile (hdrEC i.hdr)

/-- The instruction whose pass is next. -/
noncomputable def Issue.instr (i : Issue) : Option Instr :=
  match decode i.cls i.words with
  | .ok (x, _) => some x
  | .error _ => none

/-- A word that is no instruction is an illegal opcode in every participant (R51). Decoding found it when the clause was issued, so no run
gets here. -/
def State.noInstr (s : State) (i : Issue) : State :=
  i.who.parts.foldl (fun s p => match s.env? p.2 (hdrSS i.hdr) i.pc i.idx with
    | some e => s.takeFault e i.line true i.idx (.of 0x02)
    | none => s) s

/-- The k-th clause in execution comes to the front. -/
def State.front (s : State) (k : Nat) (i : Issue) : State := { s with issues := i :: s.issues.eraseIdx k }

/-- The next word of a clause concerns all lanes of its issue. -/
def Issue.joint (i : Issue) : Bool :=
  !i.isTile && (lineOps false i.pc i.line).any (fun p => p.1 == i.idx && !laneLocal p.2)

/-- Two clauses in execution are parts of one issue. -/
def Issue.mate (i j : Issue) : Bool :=
  match i.who, j.who with
  | .lanes b w _, .lanes b' w' _ => b == b' && w == w' && i.id == j.id && i.pc == j.pc && i.line == j.line
  | _, _ => false

/-- Parts of an issue that stand at one word, as one. -/
def Issue.join (i : Issue) (is : List Issue) : Issue :=
  match i.who with
  | .tile _ => i
  | .lanes b w _ =>
    { i with who := .lanes b w ((List.range 32).filter (fun m => is.any (fun j => match j.who with | .lanes _ _ ms => ms.contains m | .tile _ => false))) }

/-- The state in which the k-th clause in execution takes its next pass: the clause at the front, with the other lanes of its issue where the word
concerns them all (log entry 62). None while a clause before it needs one of its lanes (R40, R68), or a lane of its issue has yet to reach such a word. -/
def State.lineUp (s : State) (k : Nat) (i : Issue) : Option State :=
  if (s.issues.take k).any i.shares then none
  else if i.joint then
    let with_ (j : Issue) : Bool := i.mate j && j.idx == i.idx
    if s.issues.zipIdx.any (fun p => i.mate p.1 && (decide (p.1.idx < i.idx) || (p.1.idx == i.idx && (s.issues.take p.2).any p.1.shares))) then none
    else some { s with issues := i.join (s.issues.filter with_) :: s.issues.filter (fun j => !with_ j) }
  else some (s.front k i)

/-- The k-th clause in execution takes its next pass, if it may. -/
noncomputable def State.runPass (s : State) (k : Nat) : Host.Outcome State Fault Refusal :=
  match s.issues[k]? with
  | none => .next s
  | some i =>
    match s.lineUp k i with
    | none => .next s
    | some t => match i.instr with
      | some x => exec x t
      | none => .next ({ s with issues := s.issues.eraseIdx k }.noInstr i)

/-- The first of the clauses added since there were n takes its first pass at once. -/
noncomputable def State.goOn (s : State) (n : Nat) : Host.Outcome State Fault Refusal :=
  if n < s.issues.length then s.runPass n else .next s

/-- No clause of a cluster's tile sequencer is in execution. -/
def State.tileIdle (s : State) (c : Nat) : Bool := s.issues.all (fun i => i.who != .tile c)

/-- The tile sequencer takes its next clause unless it is in one, has ended its program, or stands stopped or held (R71, R245, R252). -/
def State.tileClause (s : State) (c : Nat) : State :=
  match (s.cluster c).tile with
  | none => s
  | some r =>
    if r.ended || r.th.stop.isSome || r.th.hold.isSome || !r.th.live || !s.tileIdle c then s
    else
      match s.startTile c with
      | (s, some i) => { s with issues := s.issues ++ [i] }
      | (s, none) => s

/-- A cue takes place. A clause that a vote or the tile sequencer issues takes its first pass in the same step. -/
noncomputable def State.run (s : State) : Cue → Host.Outcome State Fault Refusal
  | .pass k => s.runPass k
  | .tile c => (s.tileClause c).goOn s.issues.length
  | .putOff t => .next { s with putOff := t :: s.putOff }
  | .takeUp t => .next { s with putOff := s.putOff.filter (fun u => u != t) }
  | .event i =>
    match exec i s with
    | .next t => t.goOn s.issues.length
    | r => r

/-! ## The order when the agenda names nothing -/

/-- Threads that a test picks. -/
def State.pick (s : State) (test : Thread → Bool) : List TRef :=
  (s.blocks.map (fun p => (p.2.trefs p.1).filter (fun t => match p.2.thread? t.wp t.m with | some th => test th | none => false))).flatten

/-- The first result of a thread that is there. -/
def State.firstReady (s : State) (t : TRef) : Nat :=
  match s.thread? t with
  | some th => th.owed.findIdx (fun o => o.ready)
  | none => 0

/-- The keys of a table. -/
def keysOf {α : Type} (t : Tab α) : List Nat := t.map (fun p => p.1)

/-- What units finish on their own: results, memory operations, engines. -/
noncomputable def State.finishing (s : State) : List Instr :=
  (s.pick (fun th => th.owed.any (fun o => o.ready))).map (fun t => .loadComplete t (s.firstReady t)) ++
  ((s.pick (fun _ => true)).filter s.storing).map (fun t => .memoryOperationPerformed ⟨t, 0, false⟩) ++
  (keysOf s.clusters).flatMap (fun c => [.atomicService c, .copyCommandComplete c, .copyCommandExecute c, .tileProgramEnd c, .tileProgramStart c]) ++
  (keysOf s.mats).map (fun c => .matrixUnitOperation c) ++
  (keysOf s.grans).flatMap (fun u => [.granaryOperationDone u, .granaryOperation u]) ++
  (keysOf s.pairs).flatMap (fun l => [.pairLaunchStart l, .pairTestingComplete l, .pairEntryApply l, .pairLaunchSuspend l, .pairLaunchDrain l,
    .pairLaunchComplete l])

/-- The launch has been chosen as a pre-emption victim (R374). -/
def State.victim (s : State) (lid : Nat) : Bool := match s.launch? lid with | some l => l.victim | none => false

/-- What follows for blocks, contexts and launches. Choosing a victim is left to the agenda. -/
noncomputable def State.settling (s : State) : List Instr :=
  (keysOf s.ctxs).map (fun c => .faultRecordPost ⟨c, 0⟩) ++
  s.blocks.flatMap (fun p => [.timerEvent p.1, .rollback p.1 (match p.2.rb with | some r => r.cause | none => 0), .commitPoint p.1, .unitCompletion p.2.ctx 0 p.1] ++
    (if s.victim p.2.lid then [.preemptionSave p.1] else [])) ++
  s.launches.map (fun p => .unitCompletion p.2.ctx 1 p.1) ++
  s.ctxs.flatMap (fun p =>
    (keysOf p.2.graphs).map (fun i => .unitCompletion p.1 2 i) ++ (keysOf p.2.phases).map (fun i => .unitCompletion p.1 3 i) ++
      (keysOf p.2.jobs).map (fun i => .unitCompletion p.1 4 i) ++ [.phaseEnd p.1, .contextDestroyDone p.1]) ++
  (keysOf s.fns).map (fun f => .eventRingDeferredWrite f) ++ [.siloLoadDone]

/-- Work that starts: batches, records, blocks. -/
noncomputable def State.starting (s : State) : List Instr :=
  s.pairs.flatMap (fun p => p.2.phys.zipIdx.flatMap (fun c => [0, 1, 2, 3].map (fun i => .pairBatchStart p.1 c.2 (4 * c.1 + i)))) ++
  (keysOf s.launches).map (fun l => .blockPlacement l) ++
  s.blocks.flatMap (fun p => if p.2.saved.isSome then [.blockMove p.1 p.2.core] else []) ++
  s.dies.flatMap (fun p => if p.2.ready.isEmpty then [] else (List.range 256).map (fun i => .dispatch (256 * p.1 + i))) ++
  s.clusters.flatMap (fun p => if p.2.gather.isEmpty && p.2.formed.isEmpty then [] else [0, 1, 2, 3].map (fun i => .dispatch (4 * p.1 + i)))

/-- What a passing time brings. -/
noncomputable def State.waiting (s : State) : List Instr :=
  (s.pick (fun th => th.yieldAt.isSome)).map (fun t => .yieldTimeout t) ++ (s.pick (fun th => th.hold.isSome)).map (fun t => .fwaitTimeout t) ++
  s.clusters.flatMap (fun p => p.2.gather.map (fun g => .itemGatherTimeout p.1 g.entry)) ++
  s.switches.flatMap (fun q => [.reductionRoundComplete q.gid q.seq, .reductionWindowExpiry q.gid q.seq, .reductionIncomplete q.gid q.seq]) ++
  s.fwds.map (fun f => .forwardingExpiry f.blk)

/-- Every warp, as block and index. -/
def State.warpList (s : State) : List (Nat × Nat) :=
  s.blocks.flatMap (fun p => (List.range p.2.warps.length).map (fun w => (p.1, w)))

/-- The warps in turn, the one after the last voter first. -/
def State.turn (s : State) : List (Nat × Nat) :=
  let ws := s.warpList
  let k := s.lastVote % max 1 ws.length
  ws.drop k ++ ws.take k

/-- Everything that could take place, in the order in which the model tries it. -/
noncomputable def State.cues (s : State) : List Cue :=
  (s.finishing ++ s.settling).map .event ++ (List.range s.issues.length).map .pass ++ (keysOf s.clusters).map .tile ++
    s.turn.map (fun w => .event (.issueVote w.1 w.2)) ++ (s.starting ++ s.waiting).map .event ++ s.putOff.map .takeUp

/-- A cue changes something beyond the order of the clauses in execution. -/
noncomputable def State.moves (s : State) (c : Cue) : Bool :=
  match s.run c with
  | .next t => t != s && (match c with | .pass k => some t != (s.issues[k]?).bind (s.lineUp k) | _ => true)
  | _ => false

/-- The next cue, and the state without it: the agenda's first, or the first that moves. A vote passes the turn on. -/
noncomputable def State.take (s : State) : Option Cue × State :=
  match s.agenda with
  | c :: rest => (some c, { s with agenda := rest })
  | [] =>
    match s.cues.find? s.moves with
    | some (.event (.issueVote b w)) => (some (.event (.issueVote b w)), { s with lastVote := s.warpList.idxOf (b, w) + 1 })
    | c => (c, s)

/-- Holds end once what they wait for has come (R403). -/
def settleHolds : Host.Outcome State Fault Refusal → Host.Outcome State Fault Refusal
  | .next s => .next s.wakeAll
  | r => r

/-- One step: time passes, one cue takes place, and holds end. With nothing to do only time passes. -/
noncomputable def State.advance (s : State) : Host.Outcome State Fault Refusal :=
  match s.tick.take with
  | (some c, s) => settleHolds (s.run c)
  | (none, s) => settleHolds (.next s)

end Sys2Proof.Machine
end

