-- ==== Sys2Proof/Machine/Place.lean ====
section
/-!
DEFINITION. A word placed where the next step fetches its instruction. On this device a thread exists only once software outside it has made a
context and a launch, so placing a word stands for that load (log entry 6): a context with one page, and a block of one thread, or a tile
program, at a clause that holds the word.
-/

namespace Sys2Proof.Machine

/-- The class field of a clause header (R34, R35). -/
def clsCode : Cls → Nat
  | .gen => 0
  | .mem => 1
  | .xu => 2
  | .sys => 3
  | .mat => 2

/-- The operation at the head of a class's words, and how many words its clause has. -/
def placedOp (c : Cls) (ws : List Word) : Option (Op × Nat) :=
  match readWord c ws with
  | .ok (op, sh, _) => some (op, 1 + extraWords op.info sh)
  | .error _ => none

/-- A clause header for n words of a class: slot 0, no slot awaited, no latch written, no H. -/
def placedHeader (c : Cls) (n : Nat) : Word := BitVec.ofNat 32 (n + 16 * clsCode c)

/-- The clause's fetch line: the header, the words, zeros. -/
def placedLine (c : Cls) (ws : List Word) : List Word :=
  let n := match placedOp c ws with | some (_, n) => n | none => 1
  (placedHeader c n :: ws.take n ++ List.replicate 16 0).take 16

/-- Where the clause stands, as a virtual and a physical address. -/
def placedAt : Nat := 0x20000

/-- Page tables at 0 and 0x10000 that map the first 512 MiB of HBM to itself, readable, writable and executable (R136, R137). -/
def placedTables : List (Nat × Byte) := atKeys 0 (leBytes 8 0x13001) ++ atKeys 0x10000 (leBytes 8 0x2007)

/-- The context a word runs in. -/
def placedCtx : Ctx := Ctx.of 0 (List.replicate 64 0)

/-- The item of a pair thread. -/
def placedItem : PairItem := ⟨0, 0, 0, 0, 0, 0, 0, 0, 0⟩

/-- The launch of a pair thread: no outputs, records of 64 bytes at address 0. -/
def placedPair : PairLaunch :=
  { ctx := 0, area := 0, desc := { PDesc.of (List.replicate 128 0) with strideA := 64, strideB := 64, nclus := 1 }, cluster := 0, num := 1, state := 2,
    ovf := false, trunc := false, cancelled := false, killed := false, cands := 1, excluded := 0, replayed := 0, abandoned := 0, dropped := 0,
    skipped := 0, ovfbins := 0, phys := [0], items := [placedItem], nextItem := [], nextBatch := [], again := [], running := [0], finished := 0,
    failed := [], apply := [], bins := [], reserved := true, tested := true, pos := [], got := [], tests := [], accFaults := [], final := false, stage := 2, blk := 0 }

/-- The kind of block whose threads may hold an operation: the handler for a privileged one (R54), a pair thread for those of R225. -/
def placedKind (o : OpInfo) : BlockKind := if o.is .priv then .handler else if o.is .pairOnly then .pair else .kernel

/-- A block of one thread at the clause, and its key. -/
def State.placeThread (s : State) (kind : BlockKind) : State × Nat :=
  let a : Start := { ctx := 0, lid := s.lidNext, idx := 0, kind := kind, regs := 128, unif := 64, nthr := 1, size := 4096, loft := 0, prot := 0,
                     grid := false, heap := 0, quota := 0, entry := BitVec.ofNat 64 placedAt }
  let (s, key) := s.startBlock a (if kind = .handler then 1024 else 0) 0 (entryUni 0 0 0 0 0 s.lidNext 1 1 0 0)
  (if kind = .pair then
    ({ s with pairs := Tab.ins s.pairs s.lidNext placedPair } : State).updThread ⟨key, 0, 0⟩ (fun th => { th with item := some placedItem })
   else s, key)

/-- The machine whose next step fetches and runs words of a class: tables and clause in memory, the context, and what is to run next. -/
noncomputable def State.placeWords (s : State) (c : Cls) (ws : List Word) : State :=
  let s := s.memWrite (placedTables ++ atKeys placedAt (wordsToBytes (placedLine c ws)))
  let s := { s with ctxs := Tab.ins s.ctxs 0 placedCtx, tlbs := Tab.put [] (Tab.put [] s.tlbs 0 []) 1024 [] }
  if c = .mat then
    let (s, key) := s.placeThread .kernel
    let s := { s with issues := s.issues.filter (fun i => i.who != .tile 0), agenda := [.tile 0] }
    match s.block? key with
    | none => s
    | some b =>
      let r : TileReq := ⟨1, ⟨key, 0, 0⟩, BitVec.ofNat 64 placedAt, 0⟩
      (s.updCluster 0 (fun k => { k with tile := some ⟨1, r.t, tileThread b r, false, false⟩ })).updMat 0 (fun _ => MatUnit.new)
  else
    let (s, key) := s.placeThread (match placedOp c ws with | some (op, _) => placedKind op.info | none => .kernel)
    { s with agenda := [.event (.issueVote key 0)] }

end Sys2Proof.Machine
end

