-- ==== Sys2Proof/Machine/Step.lean ====
section
/-!
DEFINITION. One step of the machine, and a word placed where the step fetches its next instruction.
-/

namespace Sys2Proof.Machine

/-- One step: time passes, what the agenda names next (or the model's own order) takes place, and holds end. -/
noncomputable def step (s : State) : Host.Outcome State Fault Refusal := s.advance

/-- The machine with an instruction of the opcode table placed where its next step fetches. -/
noncomputable def State.withFetchWord (s : State) (nbits w : Nat) : State :=
  s.placeWords ((classFirst (tableWords nbits w)).getD .gen) (tableWords nbits w)

end Sys2Proof.Machine
end

