-- ==== Sys2Proof/Safety.lean ====
section
/-!
DEFINITION. The terms in which claims speak: a safe state and a safe step, what it means that a clause's word is ready for all who take part
in it, and that a step touched nothing but their threads.
-/

namespace Sys2Proof.Machine

/-! ## Safe states and steps -/

/-- The step answers a next state: no fault, no refusal. -/
def Goes (r : Host.Outcome State Fault Refusal) : Prop := ∃ t, r = .next t

/-- Both memories stand in their canonical form: rising keys, no byte equal to what an unlisted one reads as. -/
structure State.Canonical (s : State) : Prop where
  mem : s.mem.wf = true
  scr : s.scr.wf = true

/-! ## A word that is ready -/

/-- The participants of a clause. -/
def Issue.lanes (i : Issue) : List Lane := i.who.parts.map (fun p => p.2)

/-- What a participant sees at the word whose pass is next. -/
def Sees (s : State) (iss : Issue) (l : Lane) (e : Env) : Prop := s.env? l (hdrSS iss.hdr) iss.pc iss.idx = some e

/-- Nothing turns a participant away from a word: no stop due from a twin (R366), no decode fault (R51), no privilege missing (R54), no
uncorrectable error in what it reads (R369), and it is no second copy that takes its primary's result (R366). -/
structure Free (s : State) (op : Op) (sh : Shape) (e : Env) : Prop where
  noStop : s.stopDue e = none
  decodes : checkWord e.dec op.info sh = none
  allowed : op.info.is .priv = true → e.sys = true
  own : (fixes op sh && s.isTwin e.blk) = false
  clean : e.badRead op sh = false
  live : e.th.live = true

/-- Room on the trail for what the word saves there (R292); outside search mode it saves nothing. -/
def TrailRoom (s : State) (op : Op) (sh : Shape) (e : Env) : Prop :=
  e.th.search.trail.length + (s.trailOf e op sh).length ≤ trailMax

/-- The word at the front of execution is instruction `i`, and every participant may go through it now. -/
structure Ready (s : State) (i : Instr) (op : Op) (sh : Shape) (iss : Issue) (rest : List Issue) : Prop where
  word : i.parts = some (op, sh)
  front : s.issues = iss :: rest
  any : iss.lanes ≠ []
  apart : iss.lanes.Nodup
  goes : s.passWaits iss op sh = false
  free : ∀ l ∈ iss.lanes, ∃ e, Sees s iss l e ∧ Free s op sh e ∧ TrailRoom s op sh e

/-- The word does not close a clause that carries H, so no further clause is issued in its step (R40). -/
def Quiet (iss : Issue) (op : Op) (sh : Shape) : Prop := (iss.after op sh).last = true → hdrH iss.hdr = false

/-- Where a participant stands after a word it stays in: at the next word, or, past the last, at the clause that follows with no valid latch
(R33, R39). -/
def stands (iss : Issue) (op : Op) (sh : Shape) (th : Thread) : Thread :=
  if (iss.after op sh).last then { th with pc := nextClause iss.pc iss.line, cont := 0, line := [], yn := 0 } else th

/-! ## What a step leaves alone -/

/-- A block without its threads. -/
def Block.shell (b : Block) : Block := { b with warps := b.warps.map (fun w => { w with threads := [] }) }

/-- A cluster without its tile program's registers. -/
def Cluster.shell (k : Cluster) : Cluster := { k with tile := k.tile.map (fun r => { r with th := Thread.new 0 }) }

/-- Only the threads of some participants differ, which clauses are in execution, and the tags given out (a MODEL field). Every byte of memory and
scratchpad, every register of every other thread, every uniform register, and every register of the blocks, engines, contexts, host and package
is as before. -/
structure OnlyLanes (s t : State) (ls : List Lane) : Prop where
  rest : t = { s with blocks := t.blocks, clusters := t.clusters, issues := t.issues, tags := t.tags }
  blocks : ∀ k, (t.block? k).map Block.shell = (s.block? k).map Block.shell
  clusters : ∀ c, (t.cluster c).shell = (s.cluster c).shell
  lanes : ∀ l, l ∉ ls → t.lane? l = s.lane? l

/-- Only TLBs differ: what the checks of an access may fill (R140). -/
def OnlyTlbs (s t : State) : Prop := ∃ x, t = { s with tlbs := x }

/-- Every byte of memory outside a set of keys reads as before. -/
def MemKept (s t : State) (keys : List Nat) : Prop := ∀ k, k ∉ keys → t.mem.byte k = s.mem.byte k

/-- Every byte of scratchpad outside a set of keys reads as before. -/
def ScrKept (s t : State) (keys : List Nat) : Prop := ∀ k, k ∉ keys → t.scr.byte k = s.scr.byte k

/-! ## How an instruction is said to run -/

/-- What the participants see, in the order of the pass. -/
def Seen (s : State) (iss : Issue) (es : List Env) : Prop :=
  es.map some = iss.lanes.map (fun l => s.env? l (hdrSS iss.hdr) iss.pc iss.idx)

/-- The instruction completes in every participant at once: where its word is ready and its operands satisfy `ok` in each of them, a next state
follows in which nothing but the participants' threads differs, each as `R` says from what all of them saw, with its trail entries (R290), standing
where the clause goes on. -/
def Does (i : Instr) (ok : Env → Prop) (R : List Env → Env → Thread → Prop) : Prop :=
  ∀ s op sh iss rest es, Ready s i op sh iss rest → Quiet iss op sh → Seen s iss es → (∀ e ∈ es, ok e) →
    ∃ t, exec i s = .next t ∧ OnlyLanes s t iss.lanes ∧
      ∀ l ∈ iss.lanes, ∀ e, Sees s iss l e → ∃ th, R es e th ∧ t.lane? l = some (stands iss op sh (th.trailAdd (s.trailOf e op sh)))

/-- One participant alone executes the word that is ready. -/
structure Alone (s : State) (i : Instr) (op : Op) (sh : Shape) (iss : Issue) (rest : List Issue) (l : Lane) (e : Env) : Prop where
  ready : Ready s i op sh iss rest
  quiet : Quiet iss op sh
  only  : iss.lanes = [l]
  sees  : Sees s iss l e

/-- The instruction completes in one participant: an exec that answers a next state, which differs from `s'` in nothing but the participant's thread
and the clauses in execution; the thread is `th`, with its trail entries (R290), standing where the clause goes on. -/
def Completes (i : Instr) (s : State) (op : Op) (sh : Shape) (iss : Issue) (l : Lane) (e : Env) (s' : State) (th : Thread) : Prop :=
  ∃ t, exec i s = .next t ∧ OnlyLanes s' t [l] ∧ t.lane? l = some (stands iss op sh (th.trailAdd (s.trailOf e op sh)))

/-- The instruction faults in one participant: it answers the state in which that participant has taken the fault (R340), with no other effect than
`s'` shows. -/
def FaultsAt (i : Instr) (s : State) (iss : Issue) (rest : List Issue) (e : Env) (s' : State) (f : FInfo) : Prop :=
  ∃ t, exec i s = .next t ∧ OnlyLanes (s'.takeFault e iss.line false iss.idx f) t [] ∧ ∀ j ∈ t.issues, j ∈ rest

end Sys2Proof.Machine
end

