-- ==== Sys2Proof/WellFormed.lean ====
section
/-!
DEFINITION. What a well-formed instruction is: a word that some code may hold (R51), in the one form its encoding gives back; and an event
row that names units the device has (Tables 1-1, 1-5, 16-9, 18-1).
-/

namespace Sys2Proof

/-- Literals that no LIT selector takes are 0, and a SWITCH has D[2:0] + 1 table words: the form in which the encoding determines the fields. -/
def Shape.canonical (o : OpInfo) : Shape → Bool
  | .a f => (o.ak.takesLit f.a || f.litA == 0) && (o.bk.takesLit f.b || f.litB == 0)
  | .m f => o.ak.takesLit f.base || f.lit == 0
  | .sw f => f.table.length == switchLen f.f && f.f.litA == 0 && f.f.litB == 0
  | _ => true

/-- The widest lane code an operation may stand in: every register declared, every latch valid (R39, R44). -/
def laneCtx (o : OpInfo) : DecodeCtx :=
  { regs := 128, unif := 64, tile := false, solo := o.is .pairOnly, pair := o.is .pairOnly, yn := 4 }

/-- Tile code (R55, R246). -/
def tileCtx : DecodeCtx := { regs := 64, unif := 0, tile := true, solo := false, pair := false, yn := 4 }

/-- Some code may hold the word (R51). -/
def wordOk (o : OpInfo) (sh : Shape) : Bool := (checkWord (laneCtx o) o sh).isNone || (checkWord tileCtx o sh).isNone

/-- A core of the package, service cores included (log entry 12). -/
def coreOk (core : Nat) : Bool := decide (core < Config.cores + Config.clusters)

/-- A thread's index lies in a warp of 32. -/
def TRef.ok (t : TRef) : Bool := decide (t.m < 32)

/-- An event names units of the device, with data of the sizes the spec gives. -/
def Instr.eventOk : Instr → Bool
  | .loadComplete t _ | .yieldTimeout t | .fwaitTimeout t | .errorBankLatch t _ | .errorBankClear t _ => t.ok
  | .memoryOperationPerformed m => m.t.ok
  | .pageWalkComplete core _ _ => coreOk core
  | .atomicService c | .copyCommandExecute c | .copyCommandComplete c | .tileProgramStart c | .tileProgramEnd c | .itemGatherTimeout c _
  | .failingClusterFence c | .m1Acknowledgement c _ _ _ => decide (c < Config.clusters)
  | .pairBatchStart _ c core => decide (c < Config.clusters) && coreOk core
  | .matrixUnitOperation core => decide (core < Config.cores)
  | .dispatch core | .blockMove _ core => coreOk core
  | .entryWindowWrite _ _ data | .m0Arrival _ data _ => data.length == 64
  | .siloRefreshWindow die group _ => decide (die < 4) && decide (group < 64)
  | .clusterFence die _ => decide (die < 4)
  | .hbmScrubPass stack _ _ => decide (stack < 8)
  | .grantPeriod demand demandUp temp hot _ _ =>
    demand.length == Config.clusters && demandUp.length == Config.clusters && temp.length == 4 && hot.length == 4
  | .linkFailure link => decide (link < 24)
  | .contextCreate fn slot | .contextDestroy fn slot | .startHandler fn slot | .signalHost fn slot => decide (fn ≤ 16) && decide (slot < 64)
  | .eventRingDeferredWrite fn | .attgo fn | .pcieAtomicRequest fn | .configurationRequest fn | .evtailWrite fn _
  | .hostRegisterWrite fn _ _ _ => decide (fn ≤ 16)
  | _ => true

/-- A well-formed instruction. -/
def Instr.wf (i : Instr) : Bool :=
  match i.parts with
  | some (op, sh) => sh.canonical op.info && wordOk op.info sh
  | none => i.eventOk

end Sys2Proof
end

