-- ==== Sys2Proof/Certificates/Slice0/Obligations.lean ====
section
/-!
DEFINITION. The statements for the provers, with the tables of the spec that they are stated from: the values the rules give, in the rules' own
terms, apart from the machine's definitions.
-/

open Sys2Proof Sys2Proof.Machine

namespace Sys2Proof.Spec

/-! ## How a result reaches a thread (R39, R42) -/

/-- y0 takes a value and the older latches shift; the count of valid ones rises by one, to at most 4. -/
def pushed (th : Thread) (v : Word) : Thread :=
  { th with y := #v[v, (th.y[0]), (th.y[1]), (th.y[2])], yn := min 4 (1 + th.yn) }

/-- Register w n takes a value, and holds no uncorrectable error any more (R369). -/
def withW (th : Thread) (n : Nat) (v : Word) : Thread :=
  { th with w := th.w.setIfInBounds n v, badW := th.badW.filter (fun k => k != n) }

/-- Predicate n takes a value; p7 discards it. -/
def withP (th : Thread) (n : Nat) (v : Bool) : Thread :=
  { th with p := if n = 7 then th.p else if v then th.p ||| (1#8 <<< n) else th.p &&& ~~~(1#8 <<< n) }

/-- A w result of a GEN instruction: pushed, and written unless WBS is set. -/
def wResult (f : FmtA) (th : Thread) (v : Word) : Thread :=
  if f.wbs then pushed th v else withW (pushed th v) f.d.toNat v

/-- A predicate result: 1 or 0 is pushed, and D[2:0] written unless WBS is set. -/
def pResult (f : FmtA) (th : Thread) (v : Bool) : Thread :=
  let t := pushed th (if v then 1 else 0)
  if f.wbs then t else withP t (f.d.toNat % 8) v

/-- An exact integer modulo 2^32. -/
def lo32 (v : Int) : Word := BitVec.ofInt 32 v

/-- v clamped to lo … hi. -/
def clampTo (lo hi v : Int) : Word := BitVec.ofInt 32 (if v < lo then lo else if hi < v then hi else v)

/-- Tables 3-2, 3-3 and R79: the effect on D from A, B and D, as an exact integer expression where the table gives one. -/
def intResult : Instr → Option (FmtA × (Word → Word → Word → Word))
  | .iadd f => some (f, fun a b _ => lo32 (a.toNat + b.toNat))
  | .iaddSatI f => some (f, fun a b _ => clampTo (-2 ^ 31) (2 ^ 31 - 1) (a.toInt + b.toInt))
  | .iaddSatN f => some (f, fun a b _ => clampTo 0 (2 ^ 32 - 1) ((a.toNat : Int) + b.toNat))
  | .isub f => some (f, fun a b _ => lo32 ((a.toNat : Int) - b.toNat))
  | .isubSatI f => some (f, fun a b _ => clampTo (-2 ^ 31) (2 ^ 31 - 1) (a.toInt - b.toInt))
  | .isubSatN f => some (f, fun a b _ => clampTo 0 (2 ^ 32 - 1) ((a.toNat : Int) - b.toNat))
  | .imul f => some (f, fun a b _ => lo32 (a.toNat * b.toNat))
  | .imulHiI f => some (f, fun a b _ => lo32 (a.toInt * b.toInt / 2 ^ 32))
  | .imulHiN f => some (f, fun a b _ => lo32 ((a.toNat : Int) * b.toNat / 2 ^ 32))
  | .imad f => some (f, fun a b d => lo32 (a.toNat * b.toNat + d.toNat))
  | .iminI f => some (f, fun a b _ => if a.toInt ≤ b.toInt then a else b)
  | .iminN f => some (f, fun a b _ => if a.toNat ≤ b.toNat then a else b)
  | .imaxI f => some (f, fun a b _ => if b.toInt ≤ a.toInt then a else b)
  | .imaxN f => some (f, fun a b _ => if b.toNat ≤ a.toNat then a else b)
  | .and f => some (f, fun a b _ => a &&& b)
  | .or f => some (f, fun a b _ => a ||| b)
  | .xor f => some (f, fun a b _ => a ^^^ b)
  | .andn f => some (f, fun a b _ => a &&& ~~~b)
  | .mov f => some (f, fun a _ _ => a)
  | _ => none

/-- Table 3-3 and R79, bit by bit: bit k of the effect on D. -/
def bitResult : Instr → Option (FmtA × (Word → Word → Word → Nat → Bool))
  | .shl f => some (f, fun a b _ k => decide (b.toNat ≤ k) && a.getLsbD (k - b.toNat))
  | .shr f => some (f, fun a b _ k => a.getLsbD (k + b.toNat))
  | .sar f => some (f, fun a b _ k => a.getLsbD (min 31 (k + b.toNat)))
  | .rol f => some (f, fun a b _ k => a.getLsbD ((k + 32 - b.toNat % 32) % 32))
  | .brev f => some (f, fun a _ _ k => a.getLsbD (31 - k))
  | .bfxN f => some (f, fun a b _ k =>
      let pos := (b.extractLsb' 0 5).toNat
      let wd := min (b.extractLsb' 8 6).toNat (32 - pos)
      decide (k < wd) && a.getLsbD (pos + k))
  | .bfxI f => some (f, fun a b _ k =>
      let pos := (b.extractLsb' 0 5).toNat
      let wd := min (b.extractLsb' 8 6).toNat (32 - pos)
      decide (wd ≠ 0) && a.getLsbD (pos + min k (wd - 1)))
  | .bfi f => some (f, fun a b d k =>
      let pos := (b.extractLsb' 0 5).toNat
      let wd := min (b.extractLsb' 8 6).toNat (32 - pos)
      if pos ≤ k ∧ k < pos + wd then a.getLsbD (k - pos) else d.getLsbD k)
  | _ => none

/-- Table 3-3: a count is right for A. -/
def countResult : Instr → Option (FmtA × (Word → Nat → Prop))
  | .popc f => some (f, fun a n => n = (List.range 32).countP (fun k => a.getLsbD k))
  | .clz f => some (f, fun a n => n ≤ 32 ∧ (∀ k, k < n → a.getLsbD (31 - k) = false) ∧ (n < 32 → a.getLsbD (31 - n) = true))
  | .ctz f => some (f, fun a n => n ≤ 32 ∧ (∀ k, k < n → a.getLsbD k = false) ∧ (n < 32 → a.getLsbD n = true))
  | _ => none

/-- Table 3-4 and R82: the predicate from A and B, or from the predicates that A[2:0] and B[2:0] name. -/
def predResult : Instr → Option (FmtA × (Env → Bool))
  | .icmpEq f => some (f, fun e => decide (e.a f = e.b f))
  | .icmpNe f => some (f, fun e => decide (e.a f ≠ e.b f))
  | .icmpLtI f => some (f, fun e => decide ((e.a f).toInt < (e.b f).toInt))
  | .icmpLtN f => some (f, fun e => decide ((e.a f).toNat < (e.b f).toNat))
  | .icmpLeI f => some (f, fun e => decide ((e.a f).toInt ≤ (e.b f).toInt))
  | .icmpLeN f => some (f, fun e => decide ((e.a f).toNat ≤ (e.b f).toNat))
  | .icmpTst f => some (f, fun e => decide ((e.a f &&& e.b f) ≠ 0))
  | .pand f => some (f, fun e => e.pred f.a && e.pred f.b)
  | .por f => some (f, fun e => e.pred f.a || e.pred f.b)
  | .pxor f => some (f, fun e => e.pred f.a ^^ e.pred f.b)
  | .pnot f => some (f, fun e => !e.pred f.a)
  | _ => none

/-! ## Numbers (R102 to R123) -/

/-- The value of an f32 pattern from its sign, exponent and fraction fields (R102). -/
def f32Value (sign : Bool) (ex fr : Nat) : NumVal :=
  if ex = 255 then (if fr = 0 then .inf sign else .nan)
  else if ex = 0 then .fin sign fr (-149)
  else .fin sign (2 ^ 23 + fr) ((ex : Int) - 150)

/-- An exact value rounded once to f32 by a mode. -/
def once (m : Mode) (x : NumVal) : Word := toF32 m x

/-- R118, R122: the result from A, B and D, each exact value rounded once. -/
def floatResult : Instr → Option (FmtA × (Word → Word → Word → Word))
  | .fadd f => some (f, fun a b _ => once .rn (NumVal.add false (f32 a) (f32 b)))
  | .faddRz f => some (f, fun a b _ => once .rz (NumVal.add false (f32 a) (f32 b)))
  | .faddRu f => some (f, fun a b _ => once .ru (NumVal.add false (f32 a) (f32 b)))
  | .faddRd f => some (f, fun a b _ => once .rd (NumVal.add true (f32 a) (f32 b)))
  | .fsub f => some (f, fun a b _ => once .rn (NumVal.add false (f32 a) (f32 b).neg))
  | .fsubRz f => some (f, fun a b _ => once .rz (NumVal.add false (f32 a) (f32 b).neg))
  | .fsubRu f => some (f, fun a b _ => once .ru (NumVal.add false (f32 a) (f32 b).neg))
  | .fsubRd f => some (f, fun a b _ => once .rd (NumVal.add true (f32 a) (f32 b).neg))
  | .fmul f => some (f, fun a b _ => once .rn (NumVal.mul (f32 a) (f32 b)))
  | .fmulRz f => some (f, fun a b _ => once .rz (NumVal.mul (f32 a) (f32 b)))
  | .fmulRu f => some (f, fun a b _ => once .ru (NumVal.mul (f32 a) (f32 b)))
  | .fmulRd f => some (f, fun a b _ => once .rd (NumVal.mul (f32 a) (f32 b)))
  | .ffma f => some (f, fun a b d => once .rn (NumVal.add false (NumVal.mul (f32 a) (f32 b)) (f32 d)))
  | .ffmaRz f => some (f, fun a b d => once .rz (NumVal.add false (NumVal.mul (f32 a) (f32 b)) (f32 d)))
  | .ffmaRu f => some (f, fun a b d => once .ru (NumVal.add false (NumVal.mul (f32 a) (f32 b)) (f32 d)))
  | .ffmaRd f => some (f, fun a b d => once .rd (NumVal.add true (NumVal.mul (f32 a) (f32 b)) (f32 d)))
  | .hadd2 f => some (f, fun a b _ => packHalves (fmtBf16.round .rn (NumVal.add false (bf16 a 0) (bf16 b 0))) (fmtBf16.round .rn (NumVal.add false (bf16 a 1) (bf16 b 1))))
  | .hsub2 f => some (f, fun a b _ =>
      packHalves (fmtBf16.round .rn (NumVal.add false (bf16 a 0) (bf16 b 0).neg)) (fmtBf16.round .rn (NumVal.add false (bf16 a 1) (bf16 b 1).neg)))
  | .hmul2 f => some (f, fun a b _ => packHalves (fmtBf16.round .rn (NumVal.mul (bf16 a 0) (bf16 b 0))) (fmtBf16.round .rn (NumVal.mul (bf16 a 1) (bf16 b 1))))
  | .hfma2 f => some (f, fun a b d =>
      packHalves (fmtBf16.round .rn (NumVal.add false (NumVal.mul (bf16 a 0) (bf16 b 0)) (bf16 d 0)))
        (fmtBf16.round .rn (NumVal.add false (NumVal.mul (bf16 a 1) (bf16 b 1)) (bf16 d 1))))
  | _ => none

/-- R119: what Table 4-4 says of a result, as a condition on it: `least` for the minimum forms, `num` for the forms that take the other input. -/
def extremum (least num : Bool) (a b v : Word) : Prop :=
  let below (x y : Word) : Bool := NumVal.lt (f32 x) (f32 y) || (decide (x = 0x80000000) && decide (y = 0))
  ((f32 a).isNan = true → (f32 b).isNan = true → v = 0x7FC00000) ∧
  ((f32 a).isNan = true → (f32 b).isNan = false → v = if num then b else 0x7FC00000) ∧
  ((f32 a).isNan = false → (f32 b).isNan = true → v = if num then a else 0x7FC00000) ∧
  ((f32 a).isNan = false → (f32 b).isNan = false → (v = a ∨ v = b) ∧
    (if least then below a v = false ∧ below b v = false else below v a = false ∧ below v b = false))

/-- R119: the four forms. -/
def minmaxResult : Instr → Option (FmtA × (Word → Word → Word → Prop))
  | .fmin f => some (f, extremum true false)
  | .fmax f => some (f, extremum false false)
  | .fminnum f => some (f, extremum true true)
  | .fmaxnum f => some (f, extremum false true)
  | _ => none

/-- R120: the compares of f32 values. -/
def fcmpResult : Instr → Option (FmtA × (NumVal → NumVal → Bool))
  | .fcmpEq f => some (f, fun a b => !a.isNan && !b.isNan && !NumVal.lt a b && !NumVal.lt b a)
  | .fcmpLt f => some (f, fun a b => !a.isNan && !b.isNan && NumVal.lt a b)
  | .fcmpLe f => some (f, fun a b => !a.isNan && !b.isNan && !NumVal.lt b a)
  | .fcmpUn f => some (f, fun a b => a.isNan || b.isNan)
  | _ => none

/-- Table 4-5: the class of an f32 value and its pattern. -/
def classBit (w : Word) : Nat :=
  match f32 w with
  | .nan => if w.getLsbD 22 then 9 else 8
  | .inf neg => if neg then 0 else 7
  | .fin neg 0 _ => if neg then 3 else 4
  | .fin neg m _ => if m < 2 ^ 23 then (if neg then 2 else 5) else (if neg then 1 else 6)

/-- R121 and Table 4-6 but for the collective forms: the effect on D from A, B and D. -/
def convResult : Instr → Option (FmtA × (Word → Word → Word → Word))
  | .fabs f => some (f, fun a _ _ => if (f32 a).isNan then 0x7FC00000 else a &&& 0x7FFFFFFF)
  | .fneg f => some (f, fun a _ _ => if (f32 a).isNan then 0x7FC00000 else a ^^^ 0x80000000)
  | .fcpsgn f => some (f, fun a b _ => if (f32 a).isNan then 0x7FC00000 else b.extractLsb' 31 1 ++ a.extractLsb' 0 31)
  | .fclass f => some (f, fun a _ _ => BitVec.ofNat 32 (2 ^ classBit a))
  | .cvtBf16F32 f => some (f, fun a _ _ => BitVec.ofNat 32 (fmtBf16.round .rn (f32 a)))
  | .cvtF32Bf16 f => some (f, fun a b _ =>
      let half := if b.getLsbD 0 then a.extractLsb' 16 16 else a.extractLsb' 0 16
      if (fmtBf16.decode half.toNat).isNan then 0x7FC00000 else half ++ 0#16)
  | .cvtF32I32 f => some (f, fun a _ _ => once .rn (.fin a.msb a.toInt.natAbs 0))
  | .cvtF32N32 f => some (f, fun a _ _ => once .rn (.fin false a.toNat 0))
  | .cvtI32F32RzSat f => some (f, fun a _ _ => BitVec.ofInt 32 (clampInt .rz (-2 ^ 31) (2 ^ 31 - 1) (f32 a)))
  | .cvtI32F32Sat f => some (f, fun a _ _ => BitVec.ofInt 32 (clampInt .rn (-2 ^ 31) (2 ^ 31 - 1) (f32 a)))
  | .cvtN32F32RzSat f => some (f, fun a _ _ => BitVec.ofInt 32 (clampInt .rz 0 (2 ^ 32 - 1) (f32 a)))
  | .cvtF32E4m3 f => some (f, fun a b _ => once .rn (fmtE4m3.decode (a.extractLsb' (8 * (b.toNat % 4)) 8).toNat))
  | .cvtF32E5m2 f => some (f, fun a b _ => once .rn (fmtE5m2.decode (a.extractLsb' (8 * (b.toNat % 4)) 8).toNat))
  | .pack2 f => some (f, fun a b _ => BitVec.ofNat 16 (fmtBf16.round .rn (f32 b)) ++ BitVec.ofNat 16 (fmtBf16.round .rn (f32 a)))
  | _ => none

/-- Byte k of D replaced, bit by bit (R123). -/
def byteMerged (d : Word) (k : Nat) (v : Nat) (i : Nat) : Bool := if i / 8 = k then v.testBit (i % 8) else d.getLsbD i

/-- The byte-merging conversions: the format and whether they round stochastically. -/
def mergeResult : Instr → Option (FmtA × FloatFmt × Bool)
  | .cvtE4m3 f => some (f, fmtE4m3, false)
  | .cvtE4m3Sr f => some (f, fmtE4m3, true)
  | .cvtE5m2 f => some (f, fmtE5m2, false)
  | .cvtE5m2Sr f => some (f, fmtE5m2, true)
  | _ => none

/-- What thread m of the warp supplies in a collective; an inactive thread supplies 0 (R73). -/
def fromThread (es : List Env) (m : Nat) (v : Env → Nat) : Nat := ((es.find? (fun x => x.m == m)).map v).getD 0

/-- The random fraction of R110 and R111, in units of 2^-16. -/
def srBits (fmt : FloatFmt) (f : FmtA) (es : List Env) (e : Env) : Nat :=
  let dl := fromThread es ((e.m + 31) % 32) (fun x => fmt.discarded (f32 (x.a f)))
  let dh := fromThread es ((e.m + 1) % 32) (fun x => fmt.discarded (f32 (x.a f)))
  let h := (dl * 0x9E37 + dh * 0x79B9 + e.m * 0x3C6F + 0x2B5A) % 65536
  (h * 0xA3C5 + h >>> 7) % 65536

/-! ## Results that are owed (R37, R38, R124) -/

/-- A long-latency result: owed to the thread under the clause's slot, and nothing else of the thread changes. Without a register to write and
without a slot nothing is tracked. In tile code it is written at once (log entry 9). -/
def owesFrom (base : Thread) (e : Env) (wr : List RegVal) (th : Thread) : Prop :=
  match e.lane with
  | .tile _ => th = base.puts wr
  | .thr _ => if e.slot = 7 ∧ wr = [] then th = base else ∃ tag, th = { base with owed := base.owed ++ [⟨e.slot, tag, true, wr⟩] }

/-- A result owed to a thread that is otherwise as the instruction found it. -/
def owes (e : Env) (wr : List RegVal) (th : Thread) : Prop := owesFrom e.th e wr th

/-- The registers D, D + 1, … that a w result goes to; none with WBS set. -/
def toD (f : FmtA) (vs : List Word) : List RegVal := if f.wbs then [] else vs.zipIdx.map (fun p => .w (f.d.toNat + p.2) p.1)

/-- The q register that D[1:0] names. -/
def toDq (f : FmtA) (q : QReg) : List RegVal := if f.wbs then [] else [.q (f.d.toNat % 4) q]

/-- G of R129. -/
def genG (key counter : Word) : Word :=
  let r (kx : Word × Word) : Word × Word :=
    let x := (kx.2 ^^^ kx.1) * 0x85EBCA6B
    (kx.1 + 0x9E3779B9, x ^^^ (x >>> 13))
  (r (r (r (r (key, counter))))).2

/-- Table 4-8, R125 and R129: what an XU function owes. The correctly rounded functions are the model's (log entry 10). -/
def xuResult : Instr → Option (FmtA × (Word → Word → List Word))
  | .frcp f => some (f, fun a _ => [fdivN (.fin false 1 0) (f32 a)])
  | .frsq f => some (f, fun a _ => [frsqN (f32 a)])
  | .fsqrt f => some (f, fun a _ => [fsqrtN (f32 a)])
  | .fdiv f => some (f, fun a b => [fdivN (f32 a) (f32 b)])
  | .fexp2 f => some (f, fun a _ => [fexp2N (f32 a)])
  | .flog2 f => some (f, fun a _ => [flog2N (f32 a)])
  | .fexp f => some (f, fun a _ => [fexpN (f32 a)])
  | .ftanh f => some (f, fun a _ => [ftanhN (f32 a)])
  | .fsin f => some (f, fun a _ => [fsinN (f32 a)])
  | .fcos f => some (f, fun a _ => [fcosN (f32 a)])
  | .fsincos f => some (f, fun a _ => [fsinN (f32 a), fcosN (f32 a)])
  | .rnd32 f => some (f, fun a b => [genG a b])
  | .rndf f => some (f, fun a b => [once .rn (.fin false ((genG a b).toNat / 256) (-24))])
  | _ => none

/-- Table 4-10: the q register that D names after a q instruction. -/
def qResult : Instr → Option (FmtA × (Env → QReg → QReg))
  | .qclr f => some (f, fun _ q => ⟨0, q.win⟩)
  | .qaddf f => some (f, fun e q => ⟨contribute q.bits q.win.toInt (f32 (e.a f)), q.win⟩)
  | .qsubf f => some (f, fun e q => ⟨contribute q.bits q.win.toInt (f32 (e.a f)).neg, q.win⟩)
  | .qdot2 f => some (f, fun e q =>
      ⟨contribute (contribute q.bits q.win.toInt (NumVal.mul (bf16 (e.a f) 0) (bf16 (e.b f) 0))) q.win.toInt (NumVal.mul (bf16 (e.a f) 1) (bf16 (e.b f) 1)), q.win⟩)
  | .qload f => some (f, fun e q =>
      ⟨0#4 ++ (e.th.rw (f.a.toNat + 3)).extractLsb' 0 28 ++ e.th.rw (f.a.toNat + 2) ++ e.th.rw (f.a.toNat + 1) ++ e.th.rw f.a.toNat, q.win⟩)
  | _ => none

/-- Table 4-10: the words that D names after an instruction that reads the q in A. -/
def qRead : Instr → Option (FmtA × (QReg → List Word))
  | .qrnd f => some (f, fun q => [drainF32 q.bits q.win.toInt])
  | .qrndh f => some (f, fun q => [BitVec.ofNat 32 (drainBf16 q.bits q.win.toInt)])
  | .qsave f => some (f, fun q => [q.bits.extractLsb' 0 32, q.bits.extractLsb' 32 32, q.bits.extractLsb' 64 32, q.bits.extractLsb' 96 32])
  | _ => none

/-- Bins of one window together (R115): values add modulo 2^120, flags OR, bits [127:124] are 0. -/
def together (bs : List BinBits) : BinBits :=
  0#4 ++ (bs.foldl (fun a b => a ||| b.extractLsb' 120 4) 0#4) ++ BitVec.ofInt 120 ((bs.map (fun b => (b.extractLsb' 0 120).toInt)).sum)

/-- R96 to R100: what a lane exchange or a ranking gives a participant. -/
def exchangeResult : Instr → Option (FmtA × (List Env → Env → Word → Prop))
  | .shfl f => some (f, fun es e v => v.toNat = fromThread es ((e.b f).toNat % 32) (fun x => (x.a f).toNat))
  | .shflx f => some (f, fun es e v => v.toNat = fromThread es (e.m ^^^ ((e.b f).toNat % 32)) (fun x => (x.a f).toNat))
  | .scan f => some (f, fun es e v => v = lo32 (((es.filter (fun x => x.m ≤ e.m)).map (fun x => ((x.a f).toNat : Int))).sum))
  | .ranki f => some (f, fun es e v => v = BitVec.ofNat 32 (es.countP (fun x => decide ((e.a f).toInt < (x.a f).toInt ∨ ((x.a f).toInt = (e.a f).toInt ∧ x.m < e.m)))))
  | .rankf f => some (f, fun es e v => v = BitVec.ofNat 32 (es.countP (fun x =>
      let p := f32 (x.a f)
      let q := f32 (e.a f)
      let before := !p.isNan && (q.isNan || NumVal.lt q p)
      let after := !q.isNan && (p.isNan || NumVal.lt p q)
      before || (!after && decide (x.m < e.m)))))
  | .maxw f => some (f, fun es _ v => (v = 0x7FC00000 ∧ ∀ x ∈ es, (f32 (x.a f)).isNan = true) ∨
      ((∃ x ∈ es, x.a f = v) ∧ (f32 v).isNan = false ∧ ∀ x ∈ es, (f32 (x.a f)).isNan = true ∨ extremum false false v (x.a f) v))
  | .minw f => some (f, fun es _ v => (v = 0x7FC00000 ∧ ∀ x ∈ es, (f32 (x.a f)).isNan = true) ∨
      ((∃ x ∈ es, x.a f = v) ∧ (f32 v).isNan = false ∧ ∀ x ∈ es, (f32 (x.a f)).isNan = true ∨ extremum true false v (x.a f) v))
  | _ => none

end Sys2Proof.Spec

open Sys2Proof.Spec

/-- R76, R77 and Table 3-2, with MOV (R83): each arithmetic, min-max and logic instruction completes in every participant, pushes its result
and writes it to D unless WBS is set; nothing else changes. -/
def Sys2Proof.Spec.IntegerResults : Prop :=
  ∀ i f v, intResult i = some (f, v) → Does i (fun _ => True) (fun _ e th => th = wResult f e.th (v (e.a f) (e.b f) (e.d f.d)))

/-- R78, R79: shifts, rotates, bit reversal and the bit fields, bit by bit, and the bit counts. -/
def Sys2Proof.Spec.ShiftAndFieldResults : Prop :=
  (∀ i f g, bitResult i = some (f, g) → Does i (fun _ => True) (fun _ e th =>
    ∃ v : Word, (∀ k, k < 32 → v.getLsbD k = g (e.a f) (e.b f) (e.d f.d) k) ∧ th = wResult f e.th v)) ∧
  (∀ i f c, countResult i = some (f, c) → Does i (fun _ => True) (fun _ e th => ∃ n, c (e.a f) n ∧ th = wResult f e.th (BitVec.ofNat 32 n)))

/-- R80, R82: the compares and the predicate operations write the predicate that D[2:0] names and push 1 or 0. -/
def Sys2Proof.Spec.PredicateResults : Prop :=
  ∀ i f v, predResult i = some (f, v) → Does i (fun _ => True) (fun _ e th => th = pResult f e.th (v e))

/-- R81: SEL gives A where the predicate its FN names is 1, B where it is 0. -/
def Sys2Proof.Spec.SelectResults : Prop :=
  ∀ fn f, Does (.sel fn f) (fun _ => True) (fun _ e th => th = wResult f e.th (if e.th.p.getLsbD fn.toNat then e.a f else e.b f))

/-- R102 to R104, Table 4-1: the value of every f32, bf16, e4m3 and e5m2 pattern, and widening is exact or the canonical NaN. -/
def Sys2Proof.Spec.NumberFormats : Prop :=
  (∀ w : Word, f32 w = f32Value w.msb (w.extractLsb' 23 8).toNat (w.extractLsb' 0 23).toNat) ∧
  (∀ (h : BitVec 16), let w : Word := h ++ 0#16
    once .rn (fmtBf16.decode h.toNat) = if (f32 w).isNan then 0x7FC00000 else w) ∧
  (∀ b : BitVec 8, fmtE4m3.decode b.toNat =
    (if b.extractLsb' 0 7 = 0x7F#7 then .nan
     else if b.extractLsb' 3 4 = 0#4 then .fin b.msb (b.extractLsb' 0 3).toNat (-9)
     else .fin b.msb (8 + (b.extractLsb' 0 3).toNat) ((b.extractLsb' 3 4).toNat - 10))) ∧
  (∀ b : BitVec 8, fmtE5m2.decode b.toNat =
    (if b.extractLsb' 2 5 = 0x1F#5 then (if b.extractLsb' 0 2 = 0#2 then .inf b.msb else .nan)
     else if b.extractLsb' 2 5 = 0#5 then .fin b.msb (b.extractLsb' 0 2).toNat (-16)
     else .fin b.msb (4 + (b.extractLsb' 0 2).toNat) ((b.extractLsb' 2 5).toNat - 17)))

/-- R109, R110: a magnitude m × 2^e rounded to a multiple of 2^q (with e below q) is a nearest multiple under rn, with an even one at a tie; the one
next toward zero under rz; the one next above or below the signed value under ru and rd; under sr the one next above when the discarded part of a step and
the random fraction come to a whole step, else the one next toward zero. A multiple of 2^q stays as it is. -/
def Sys2Proof.Spec.RoundingIsDirected : Prop :=
  ∀ (neg : Bool) (m : Nat) (e q : Int), e < q →
    let u := 2 ^ (q - e).toNat
    let n (mode : Mode) := roundMag mode neg m e q
    (2 * m ≤ 2 * (n .rn * u) + u ∧ 2 * (n .rn * u) ≤ 2 * m + u ∧
      (2 * m = 2 * (n .rn * u) + u ∨ 2 * (n .rn * u) = 2 * m + u → n .rn % 2 = 0)) ∧
    (n .rz * u ≤ m ∧ m < n .rz * u + u) ∧
    (signInt neg m ≤ signInt neg (n .ru) * u ∧ signInt neg (n .ru) * u < signInt neg m + u) ∧
    (signInt neg (n .rd) * u ≤ signInt neg m ∧ signInt neg m < signInt neg (n .rd) * u + u) ∧
    (∀ r, n (.sr r) = m / u + if 2 ^ 16 * u ≤ 2 ^ 16 * (m % u) + r * u then 1 else 0) ∧
    (∀ mode k, (∀ r, mode = .sr r → r < 2 ^ 16) → roundMag mode neg (k * u) e q = k ∧ roundMag mode neg m q e = m * u)

/-- Table 4-1: significand bits, the exponent of the smallest subnormal, the largest finite value over that smallest one, its pattern, the place of the
sign bit, the infinity and the canonical NaN of a format. -/
structure Sys2Proof.Spec.FormatRow where
  fmt  : FloatFmt
  prec : Nat
  minE : Int
  top  : Nat
  max  : Nat
  sign : Nat
  inf  : Option Nat
  nan  : Nat

/-- Table 4-1. -/
def Sys2Proof.Spec.formatTable : List Sys2Proof.Spec.FormatRow :=
  [⟨fmtF32, 24, -149, (2 ^ 24 - 1) * 2 ^ 253, 0x7F7FFFFF, 2 ^ 31, some 0x7F800000, 0x7FC00000⟩,
   ⟨fmtBf16, 8, -133, (2 ^ 8 - 1) * 2 ^ 253, 0x7F7F, 2 ^ 15, some 0x7F80, 0x7FC0⟩,
   ⟨fmtE4m3, 4, -9, 448 * 2 ^ 9, 0x7E, 2 ^ 7, none, 0x7F⟩,
   ⟨fmtE5m2, 3, -16, 57344 * 2 ^ 16, 0x7B, 2 ^ 7, some 0x7C, 0x7E⟩]

/-- R102, R104, R109, R110, Table 4-1: the pattern that an exact value is rounded to in each floating format. A NaN gives the canonical one, an infinity the
infinity, or ±448 in e4m3; a zero keeps its sign. Any other value is rounded as the format's exponent range were unbounded above, on the grid of its
binade and not finer than the smallest subnormal; a rounded magnitude within the format is that value with the value's sign, and one above the largest
finite value is the mode's overflow result. The discarded bits of a value within the format are floor(f × 2^16) for the discarded part f of a step, and 0
for the others. -/
def Sys2Proof.Spec.RoundedPatterns : Prop :=
  (∀ x ∈ Sys2Proof.Spec.formatTable,
    let pat (neg : Bool) (p : Nat) : Nat := p + if neg then x.sign else 0
    (∀ mode, x.fmt.round mode .nan = x.nan ∧ x.fmt.discarded .nan = 0 ∧
      ∀ neg, x.fmt.round mode (.inf neg) = pat neg (x.inf.getD x.max) ∧ x.fmt.discarded (.inf neg) = 0 ∧
        ((∀ r, mode = .sr r → r < 2 ^ 16) → ∀ e, x.fmt.round mode (.fin neg 0 e) = pat neg 0)) ∧
    (∀ mode neg m (e : Int), m ≠ 0 →
      let q := max x.minE (e + (m.log2 : Int) + 1 - (x.prec : Int))
      let n := roundMag mode neg m e q * 2 ^ (q - x.minE).toNat
      let p := x.fmt.round mode (.fin neg m e)
      (n ≤ x.top → p % x.sign ≤ x.max ∧ p = pat neg (p % x.sign) ∧
        ∃ m' e', x.fmt.decode p = .fin neg m' e' ∧ x.minE ≤ e' ∧ m' * 2 ^ (e' - x.minE).toNat = n) ∧
      (x.top < n → p = pat neg (match x.inf with
        | none => x.max
        | some i => (match mode with
          | .rn => i
          | .rz => x.max
          | .ru => if neg then x.max else i
          | .rd => if neg then i else x.max
          | .sr _ => i)))) ∧
    (∀ neg m (e : Int), m ≠ 0 →
      let q := max x.minE (e + (m.log2 : Int) + 1 - (x.prec : Int))
      let u := 2 ^ (q - e).toNat
      let within := m * 2 ^ (e - x.minE).toNat ≤ x.top * 2 ^ (x.minE - e).toNat
      x.fmt.discarded (.fin neg m e) = if within then (m % u) * 2 ^ 16 / u else 0)) ∧
  (∀ w : Word, (w.extractLsb' 0 31).toNat ≤ 0x7F7F0000 → fmtBf16.discarded (f32 w) = (w.extractLsb' 0 16).toNat)

/-- R117, R118, R122: FADD, FSUB, FMUL and FFMA in their four modes, and the bf16x2 forms: one rounding of the exact value, pushed and written to D. -/
def Sys2Proof.Spec.FloatArithmetic : Prop :=
  ∀ i f v, floatResult i = some (f, v) → Does i (fun _ => True) (fun _ e th => th = wResult f e.th (v (e.a f) (e.b f) (e.d f.d)))

/-- R119, R120: the minimum and maximum forms and the compares. -/
def Sys2Proof.Spec.FloatOrder : Prop :=
  (∀ i f c, minmaxResult i = some (f, c) → Does i (fun _ => True) (fun _ e th => ∃ v, c (e.a f) (e.b f) v ∧ th = wResult f e.th v)) ∧
  (∀ i f v, fcmpResult i = some (f, v) → Does i (fun _ => True) (fun _ e th => th = pResult f e.th (v (f32 (e.a f)) (f32 (e.b f)))))

/-- R121, R123: signs, classes and the conversions, the byte-merging and stochastic ones among them. -/
def Obligations.ConversionResults : Prop :=
  (∀ i f v, convResult i = some (f, v) → Does i (fun _ => True) (fun _ e th => th = wResult f e.th (v (e.a f) (e.b f) (e.d f.d)))) ∧
  (∀ i f fmt sr, mergeResult i = some (f, fmt, sr) → Does i (fun _ => True) (fun es e th => ∃ v : Word,
    (∀ k, k < 32 → v.getLsbD k = byteMerged (e.d f.d) ((e.b f).toNat % 4)
      (fmt.round (if sr then .sr (srBits fmt f es e) else .rn) (f32 (e.a f))) k) ∧ th = wResult f e.th v)) ∧
  (∀ f, Does (.cvtBf16F32Sr f) (fun _ => True) (fun es e th =>
    th = wResult f e.th (BitVec.ofNat 32 (fmtBf16.round (.sr (srBits fmtBf16 f es e)) (f32 (e.a f))))))

/-- R124, R125, R129: an XU function owes its result to D under the clause's slot; no latch is pushed. What the functions of Table 4-8 give is the model's
own enclosure of the exact value (log entry 10). -/
def Sys2Proof.Spec.XuOwed : Prop :=
  ∀ i f v, xuResult i = some (f, v) → Does i (fun _ => True) (fun _ e => owes e (toD f (v (e.a f) (e.b f))))

/-- Table 4-8: the special inputs of the XU functions; 2^A at the integers where it is representable, log2 at the powers of two, and e^0. -/
def Sys2Proof.Spec.XuSpecials : Prop :=
  let one : NumVal := .fin false 1 0
  let inf : Word := 0x7F800000
  let ninf : Word := 0xFF800000
  let sgn (s : Bool) (w : Word) : Word := if s then w ||| 0x80000000 else w
  (∀ v : Word, (f32 v).isNan = true →
    fdivN one (f32 v) = 0x7FC00000 ∧ frsqN (f32 v) = 0x7FC00000 ∧ fsqrtN (f32 v) = 0x7FC00000 ∧ (∀ x, fdivN (f32 v) x = 0x7FC00000 ∧ fdivN x (f32 v) = 0x7FC00000) ∧
    fexp2N (f32 v) = 0x7FC00000 ∧ flog2N (f32 v) = 0x7FC00000 ∧ fexpN (f32 v) = 0x7FC00000 ∧ ftanhN (f32 v) = 0x7FC00000 ∧
    fsinN (f32 v) = 0x7FC00000 ∧ fcosN (f32 v) = 0x7FC00000) ∧
  (∀ s : Bool, let z := f32 (sgn s 0)
    let i := f32 (sgn s inf)
    fdivN one z = sgn s inf ∧ fdivN one i = sgn s 0 ∧ frsqN z = sgn s inf ∧ fsqrtN z = sgn s 0 ∧ flog2N z = ninf ∧ ftanhN z = sgn s 0 ∧
      fsinN z = sgn s 0 ∧ fcosN z = 0x3F800000 ∧ fexp2N z = 0x3F800000 ∧ fexpN z = 0x3F800000 ∧ ftanhN i = sgn s 0x3F800000 ∧
      fsinN i = 0x7FC00000 ∧ fcosN i = 0x7FC00000 ∧
      ∀ t m e, (m ≠ 0 → fdivN (.fin t m e) z = sgn (s != t) inf) ∧ fdivN (.fin t m e) i = sgn (s != t) 0 ∧ fdivN i (.fin t m e) = sgn (s != t) inf ∧
        fdivN i (.inf t) = 0x7FC00000 ∧ fdivN z (.fin t 0 e) = 0x7FC00000) ∧
  (∀ v : Word, (f32 v).isNan = false → v.msb = true → v ≠ 0x80000000 →
    frsqN (f32 v) = 0x7FC00000 ∧ fsqrtN (f32 v) = 0x7FC00000 ∧ flog2N (f32 v) = 0x7FC00000) ∧
  frsqN (f32 inf) = 0 ∧ fsqrtN (f32 inf) = inf ∧ fexp2N (f32 inf) = inf ∧ fexp2N (f32 ninf) = 0 ∧ fexpN (f32 inf) = inf ∧ fexpN (f32 ninf) = 0 ∧
  flog2N (f32 inf) = inf ∧
  (∀ (v : Word) s m e (k : Int), f32 v = .fin s m e → signInt s (m * 2 ^ e.toNat) = k * 2 ^ (-e).toNat →
    (-149 ≤ k → k < -126 → fexp2N (f32 v) = BitVec.ofNat 32 (2 ^ (k + 149).toNat)) ∧
    (-126 ≤ k → k ≤ 127 → fexp2N (f32 v) = BitVec.ofNat 32 ((k + 127).toNat * 2 ^ 23)) ∧ (127 < k → fexp2N (f32 v) = inf)) ∧
  (∀ (l : Nat) (e : Int), flog2N (.fin false (2 ^ l) e) = once .rn (.fin (decide (e + l < 0)) (e + l).natAbs 0))

/-- The value of an f32 magnitude pattern in units of 2^-149; 0x7F800000 stands for 2^128. -/
def Sys2Proof.Spec.magOf (p : Nat) : Nat := if p < 2 ^ 23 then p else (2 ^ 23 + p % 2 ^ 23) * 2 ^ (p / 2 ^ 23 - 1)

/-- A magnitude pattern is the one nearest a magnitude, ties to even, with overflow to the infinity (R109): the magnitude is given by whether it is at least,
and at most, x × 2^-150. -/
def Sys2Proof.Spec.Nearest (p : Nat) (atLeast atMost : Nat → Prop) : Prop :=
  let mid (p : Nat) : Nat := Sys2Proof.Spec.magOf p + Sys2Proof.Spec.magOf (p + 1)
  p ≤ 0x7F800000 ∧ (p ≠ 0 → atLeast (mid (p - 1)) ∧ (p % 2 = 1 → ¬ atMost (mid (p - 1)))) ∧
    (p < 0x7F800000 → atMost (mid p) ∧ (p % 2 = 1 → ¬ atLeast (mid p)))

/-- R124: FDIV, FRCP, FSQRT and FRSQ give the f32 nearest the exact quotient, root or reciprocal root, ties to even: the pattern p has the exact magnitude between
the points halfway to its neighbours. And the sine and cosine of Table 4-9. For the other functions the nearest value is the model's
enclosure (log entry 10) and is not stated. -/
def Sys2Proof.Spec.XuRounded : Prop :=
  (∀ (a b : Word) s m e t n f, f32 a = .fin s m e → f32 b = .fin t n f → n ≠ 0 →
    let g := e - f + 150
    ∃ p, fdivN (f32 a) (f32 b) = BitVec.ofNat 32 (p + if s ≠ t then 2 ^ 31 else 0) ∧
      Sys2Proof.Spec.Nearest p (fun x => x * n * 2 ^ (-g).toNat ≤ m * 2 ^ g.toNat) (fun x => m * 2 ^ g.toNat ≤ x * n * 2 ^ (-g).toNat)) ∧
  (∀ (b : Word) t n f, f32 b = .fin t n f → n ≠ 0 →
    let g := 150 - f
    ∃ p, fdivN (.fin false 1 0) (f32 b) = BitVec.ofNat 32 (p + if t then 2 ^ 31 else 0) ∧
      Sys2Proof.Spec.Nearest p (fun x => x * n * 2 ^ (-g).toNat ≤ 2 ^ g.toNat) (fun x => 2 ^ g.toNat ≤ x * n * 2 ^ (-g).toNat)) ∧
  (∀ (a : Word) m e, f32 a = .fin false m e → m ≠ 0 →
    let g := e + 300
    let h := 300 - e
    (∃ p, fsqrtN (f32 a) = BitVec.ofNat 32 p ∧ Sys2Proof.Spec.Nearest p (fun x => x * x ≤ m * 2 ^ g.toNat) (fun x => m * 2 ^ g.toNat ≤ x * x)) ∧
    ∃ p, frsqN (f32 a) = BitVec.ofNat 32 p ∧ Sys2Proof.Spec.Nearest p (fun x => x * x * m ≤ 2 ^ h.toNat) (fun x => 2 ^ h.toNat ≤ x * x * m)) ∧
  fsinN (f32 0x3FC90FDB) = 0x3F800000 ∧ fcosN (f32 0x3FC90FDB) = 0xB33BBD2E

/-- R126: the q instructions, but for the collective ones. -/
def Sys2Proof.Spec.QRegister : Prop :=
  (∀ i f v, qResult i = some (f, v) → Does i (fun _ => True) (fun _ e => owes e (toDq f (v e (e.th.rq (f.d.toNat % 4)))))) ∧
  (∀ i f v, qRead i = some (f, v) → Does i (fun _ => True) (fun _ e => owes e (toD f (v (e.th.rq (f.a.toNat % 4)))))) ∧
  (∀ f, Does (.qwin f) (fun e => -100 ≤ (e.a f).toInt ∧ (e.a f).toInt ≤ 40)
    (fun _ e => owes e (toDq f ⟨0, (e.a f).extractLsb' 0 8⟩))) ∧
  (∀ f s op sh iss rest l e, Alone s (.qwin f) op sh iss rest l e → ((e.a f).toInt < -100 ∨ 40 < (e.a f).toInt) →
    FaultsAt (.qwin f) s iss rest e s (.of 0x03))

/-- R127: QRED gives every participant the combination of all, QSCAN that of those up to its index, at the one window they share. Where two windows
differ every participant raises operand (0x03), and no q changes. -/
def Sys2Proof.Spec.QCollective : Prop :=
  (∀ (scan : Bool) f s op sh iss rest es, Ready s (if scan then .qscan f else .qred f) op sh iss rest → Seen s iss es →
    (∃ x ∈ es, ∃ y ∈ es, (x.th.rq (f.d.toNat % 4)).win ≠ (y.th.rq (f.d.toNat % 4)).win) →
    (∀ r b, .thr r ∈ iss.lanes → s.block? r.blk = some b → b.kind = .kernel ∨ b.kind = .task) →
    ∃ t, exec (if scan then .qscan f else .qred f) s = .next t ∧ t.mem = s.mem ∧ t.scr = s.scr ∧ ∀ l ∈ iss.lanes, ∀ e, Sees s iss l e →
      ∃ th st, t.lane? l = some th ∧ th.stop = some st ∧ st.cause = 0x03 ∧ st.idx = iss.idx ∧ th.pc = iss.pc ∧ th.q = e.th.q ∧ th.w = e.th.w ∧ th.owed = e.th.owed) ∧
  ∀ (scan : Bool) f s op sh iss rest es, Ready s (if scan then .qscan f else .qred f) op sh iss rest → Quiet iss op sh → Seen s iss es →
    (∀ x ∈ es, ∀ y ∈ es, (x.th.rq (f.d.toNat % 4)).win = (y.th.rq (f.d.toNat % 4)).win) →
    ∃ t, exec (if scan then .qscan f else .qred f) s = .next t ∧ OnlyLanes s t iss.lanes ∧
      ∀ l ∈ iss.lanes, ∀ e, Sees s iss l e → ∃ th,
        owes e (toDq f ⟨together ((es.filter (fun x => !scan || decide (x.m ≤ e.m))).map (fun x => (x.th.rq (f.d.toNat % 4)).bits)),
          (e.th.rq (f.d.toNat % 4)).win⟩) th ∧
        t.lane? l = some (stands iss op sh (th.trailAdd (s.trailOf e op sh)))

/-- R96 to R100: the exchanges, SCAN, the ranks and the extremes owe their result; SWAP1 writes it in its pass. -/
def Obligations.ExchangeResults : Prop :=
  (∀ i f c, exchangeResult i = some (f, c) → Does i (fun _ => True) (fun es e th => ∃ v, c es e v ∧ owes e (toD f [v]) th)) ∧
  (∀ f, Does (.swap1 f) (fun _ => True) (fun es e th => ∃ v : Word, v.toNat = fromThread es (e.m ^^^ 1) (fun x => (x.a f).toNat) ∧
    th = if f.wbs then e.th else withW e.th f.d.toNat v))

/-- R92: the votes over the participants' predicates B[2:0]; every participant gets and pushes the same result. -/
def Sys2Proof.Spec.Votes : Prop :=
  ∀ f,
    Does (.voteAny f) (fun _ => True) (fun es e th => th = pResult f e.th (decide (∃ x ∈ es, x.pred f.b = true))) ∧
    Does (.voteAll f) (fun _ => True) (fun es e th => th = pResult f e.th (decide (∀ x ∈ es, x.pred f.b = true))) ∧
    Does (.voteCnt f) (fun _ => True) (fun es e th => th = wResult f e.th (BitVec.ofNat 32 (es.countP (fun x => x.pred f.b)))) ∧
    Does (.voteBallot f) (fun _ => True) (fun es e th => ∃ v : Word,
      (∀ k, k < 32 → v.getLsbD k = es.any (fun x => x.m == k && x.pred f.b)) ∧ th = wResult f e.th v)

/-- R86, R87: a uniform instruction writes the s register of the warp once with the lowest participant's result, and every participant pushes it. -/
def Sys2Proof.Spec.uniResult : Instr → Option (FmtA × (List Env → Env → Word))
  | .smov f => some (f, fun _ e => e.a f)
  | .sadd f => some (f, fun _ e => e.a f + e.b f)
  | .sand f => some (f, fun _ e => e.a f &&& e.b f)
  | .sshl f => some (f, fun _ e => lo32 ((e.a f).toNat * 2 ^ (e.b f).toNat))
  | .rdl f => some (f, fun es e => BitVec.ofNat 32 (fromThread es ((e.b f).toNat % 32) (fun x => (x.a f).toNat)))
  | _ => none

/-- R86, R87: a uniform instruction runs once, with the operands of the participant of the lowest tid, the first in the order of the pass (R27). -/
def Sys2Proof.Spec.Uniforms : Prop :=
  ∀ i f v, uniResult i = some (f, v) → ∀ s op sh iss rest es e0 t0, Ready s i op sh iss rest → Quiet iss op sh → Seen s iss es →
    es.head? = some e0 → (∀ e ∈ es, e0.tid ≤ e.tid) → e0.lane = .thr t0 →
    ∃ t, exec i s = .next t ∧
      OnlyLanes (if f.wbs then s else s.updUni t0 (fun u => u.setIfInBounds (f.d.toNat % 64) (v es e0))) t iss.lanes ∧
      ∀ l ∈ iss.lanes, ∀ e, Sees s iss l e → t.lane? l = some (stands iss op sh ((pushed e.th (v es e0)).trailAdd (s.trailOf e op sh)))

/-- R84: the index registers. XRD and XWR reach w[x.base + A] where A is below the count, and raise register index (0x05) where it is not;
XSET sets base and count within the declared registers, and raises 0x05 otherwise. -/
def Sys2Proof.Spec.IndexRegisters : Prop :=
  ∀ f : FmtA,
    let x (e : Env) : XReg := e.th.rx (f.b.toNat % 8)
    let bad (e : Env) : Prop := 127 < (e.a f).toNat ∨ 255 < (e.b f).toNat ∨ e.dec.regs < (e.a f).toNat + (e.b f).toNat
    Does (.xrd f) (fun e => (e.a f).toNat < (x e).count.toNat)
      (fun _ e th => th = wResult f e.th ((e.th.w[(x e).base.toNat + (e.a f).toNat]?).getD 0)) ∧
    Does (.xwr f) (fun e => (e.a f).toNat < (x e).count.toNat)
      (fun _ e th => th = if f.wbs then pushed e.th (e.d f.d) else withW (pushed e.th (e.d f.d)) ((x e).base.toNat + (e.a f).toNat) (e.d f.d)) ∧
    Does (.xset f) (fun e => ¬ bad e)
      (fun _ e th => th = if f.wbs then e.th else
        { e.th with x := e.th.x.setIfInBounds (f.d.toNat % 8) ⟨(e.a f).extractLsb' 0 7, (e.b f).extractLsb' 0 8⟩ }) ∧
    (∀ s op sh iss rest l e, Alone s (.xrd f) op sh iss rest l e → (x e).count.toNat ≤ (e.a f).toNat → FaultsAt (.xrd f) s iss rest e s (.of 0x05)) ∧
    (∀ s op sh iss rest l e, Alone s (.xwr f) op sh iss rest l e → (x e).count.toNat ≤ (e.a f).toNat → FaultsAt (.xwr f) s iss rest e s (.of 0x05)) ∧
    (∀ s op sh iss rest l e, Alone s (.xset f) op sh iss rest l e → bad e → FaultsAt (.xset f) s iss rest e s (.of 0x05))

/-- R85: the sum or difference of a 64-bit pair and B × 1, 4 or 16 modulo 2^64 goes to D and D + 1, and its low word is pushed. -/
def Sys2Proof.Spec.AddressSums : Prop :=
  ∀ f : FmtA, ∀ p ∈ ([(.adda f, 1), (.addaX4 f, 4), (.addaX16 f, 16), (.suba f, -1)] : List (Instr × Int)),
    Does p.1 (fun _ => True) (fun _ e th =>
      let r : DWord := BitVec.ofInt 64 ((e.pair f.a).toNat + (e.b f).toInt * p.2)
      let t := pushed e.th (r.extractLsb' 0 32)
      th = if f.wbs then t else withW (withW t f.d.toNat (r.extractLsb' 0 32)) (f.d.toNat + 1) (r.extractLsb' 32 32))

/-- R95: NOP changes nothing of any participant, and pushes no latch. -/
def Sys2Proof.Spec.NopDoesNothing : Prop := ∀ f, Does (.nop f) (fun _ => True) (fun _ e th => th = e.th)

namespace Sys2Proof.Spec

/-! ## Control (R33, R88 to R94) -/

/-- The instruction moves its participant to another clause: a next state that differs from `s'` in nothing but the participant's thread and the
clauses in execution; the thread is `th`, standing at the start of the clause at `pc` with no valid latch (R39). -/
def Jumps (i : Instr) (s : State) (l : Lane) (s' : State) (pc : DWord) (th : Thread) : Prop :=
  ∃ t, exec i s = .next t ∧ OnlyLanes s' t [l] ∧ t.lane? l = some { th with pc := pc, cont := 0, line := [], yn := 0 }

/-- A control instruction stands last in its clause (R50). -/
def LastOf (iss : Issue) (op : Op) (sh : Shape) : Prop := (iss.after op sh).last = true

/-- The three forms of BR: whether a participant branches (R88). -/
def branches : Instr → Option (FmtC × (Thread → Bool))
  | .br f => some (f, fun _ => true)
  | .brIfP f => some (f, fun th => decide (f.p.toNat = 7) || th.p.getLsbD f.p.toNat)
  | .brIfNotP f => some (f, fun th => !(decide (f.p.toNat = 7) || th.p.getLsbD f.p.toNat))
  | _ => none

/-- R46: the address of the C word plus 4 × offset. -/
def targetAt (e : Env) (word : Nat) (off : Int) : DWord := e.pc + BitVec.ofInt 64 (4 * word + 4 * off)

/-- The two calls and the target of each (R89). -/
def callsTo : Instr → Option (Env → DWord)
  | .call f => some (fun e => targetAt e e.idx f.off.toInt)
  | .callIndirect f => some (fun e => e.pair f.a)
  | _ => none

/-- R91: table word k is the first whose compare value is A. -/
def firstMatch (a : Word) (table : List Word) (k : Nat) (w : Word) : Prop :=
  table[k]? = some w ∧ a.toNat = (w.extractLsb' 16 16).toNat ∧ ∀ j v, j < k → table[j]? = some v → a.toNat ≠ (v.extractLsb' 16 16).toNat

/-! ## Search (R289 to R303) -/

/-- The value that unwinding some trail entries, newest first, leaves in a location: the oldest entry's, if there is one (R291). -/
def unwoundTo (es : List TrailE) (win : Bool) (loc : Nat) (now : Word) : Word :=
  (((es.filter (fun t => t.win == win && t.loc == loc)).getLast?).map TrailE.old).getD now

/-- The entries at and above a mark; the trail is held newest first. -/
def aboveMark (q : Search) (mark : Nat) : List TrailE := q.trail.take (q.trail.length - mark)

/-- The three forms of FAIL: whether a participant fails (R297). -/
def fails : Instr → Option (FmtC × (Thread → Bool))
  | .fail f => some (f, fun _ => true)
  | .failIfP f => some (f, fun th => decide (f.p.toNat = 7) || th.p.getLsbD f.p.toNat)
  | .failIfNotP f => some (f, fun th => !(decide (f.p.toNat = 7) || th.p.getLsbD f.p.toNat))
  | _ => none

end Sys2Proof.Spec

/-- R88: a participant that branches stands at the target, one that does not goes on at the clause that follows, and a target that is no clause
start raises branch to non-header (0x0C). -/
def Sys2Proof.Spec.Branches : Prop :=
  ∀ i f c, branches i = some (f, c) → ∀ s op sh iss rest l e s1, Alone s i op sh iss rest l e → LastOf iss op sh →
    (c e.th = true → s.targetOk e (targetAt e e.idx f.off.toInt) = (s1, true) → Jumps i s l s1 (targetAt e e.idx f.off.toInt) e.th) ∧
    (c e.th = true → s.targetOk e (targetAt e e.idx f.off.toInt) = (s1, false) → FaultsAt i s iss rest e s1 (.of 0x0C)) ∧
    (c e.th = false → Completes i s op sh iss l e s e.th)

/-- R33: a target must be word-aligned and one of the clause starts of its line. A line that cannot be fetched is left to the fetch (log entry 8).
The check fills TLBs at most. -/
def Sys2Proof.Spec.TargetCheck : Prop :=
  ∀ (s : State) (e : Env) (pc : DWord),
    OnlyTlbs s (s.targetOk e pc).1 ∧
    (pc.toNat % 4 ≠ 0 → (s.targetOk e pc).2 = false) ∧
    (∀ s1 line, pc.toNat % 4 = 0 → s.fetchLine e.core e.ctx e.blk pc = (s1, .ok line) →
      s.targetOk e pc = (s1, startsAt line (linePos pc) 16 0)) ∧
    (∀ s1 x, pc.toNat % 4 = 0 → s.fetchLine e.core e.ctx e.blk pc = (s1, .error x) → s.targetOk e pc = (s1, true))

/-- R91: SWITCH goes to the address of the first table word whose compare value equals A, plus 4 × its offset; with no match it falls through. -/
def Sys2Proof.Spec.Switches : Prop :=
  ∀ (f : FmtSwitch) s op sh iss rest l e s1, Alone s (.switch f) op sh iss rest l e → LastOf iss op sh →
    let a := e.val f.f.a 0
    (∀ (k : Nat) (w : Word), firstMatch a f.table k w →
      let pc := targetAt e (e.idx + 1 + k) (w.extractLsb' 0 16).toInt
      (s.targetOk e pc = (s1, true) → Jumps (.switch f) s l s1 pc e.th) ∧
      (s.targetOk e pc = (s1, false) → FaultsAt (.switch f) s iss rest e s1 (.of 0x0C))) ∧
    ((∀ (k : Nat) (w : Word), f.table[k]? = some w → a.toNat ≠ (w.extractLsb' 16 16).toNat) → Completes (.switch f) s op sh iss l e s e.th)

/-- R74, R89: a call pushes the address of the clause that follows and goes to its target; the ninth entry reserves 192 bytes of the context's
loft on the thread's die. A 33rd entry, the tile sequencer's ninth, or a loft without room raises loft exhausted (0x1A), and a target that is
no clause start raises 0x0C before the push. -/
def Sys2Proof.Spec.Calls : Prop :=
  ∀ i c, callsTo i = some c → ∀ s op sh iss rest l e s1, Alone s i op sh iss rest l e → LastOf iss op sh →
    let room := if e.dec.tile then 8 else 32
    let pushed (th : Thread) : Thread :=
      { th with stack := nextClause iss.pc iss.line :: th.stack, badRet := th.badRet.filter (fun k => k != th.stack.length) }
    (s.targetOk e (c e) = (s1, true) →
      (e.th.stack.length < room ∧ (e.th.stack.length < 8 ∨ e.th.loftRs = true) → Jumps i s l s1 (c e) (pushed e.th)) ∧
      (∀ s2, e.th.stack.length < room ∧ 8 ≤ e.th.stack.length ∧ e.th.loftRs = false → s1.loftTake e.ctx (coreDie e.core) 192 = some s2 →
        Jumps i s l s2 (c e) { pushed e.th with loftRs := true }) ∧
      (room ≤ e.th.stack.length ∨ (8 ≤ e.th.stack.length ∧ e.th.loftRs = false ∧ s1.loftTake e.ctx (coreDie e.core) 192 = none) →
        FaultsAt i s iss rest e s1 (.of 0x1A))) ∧
    (s.targetOk e (c e) = (s1, false) → FaultsAt i s iss rest e s1 (.of 0x0C))

/-- R74, R158: bytes taken from a context's loft on a die raise what is in use there, and are refused where they do not fit. -/
def Sys2Proof.Spec.LoftReserved : Prop :=
  ∀ (s : State) ctx die n c, Tab.find s.ctxs ctx = some c →
    (n ≤ c.loft.getD die 0 * 65536 - c.loftUsed.getD die 0 → ∃ t, s.loftTake ctx die n = some t ∧
      t = { s with ctxs := t.ctxs } ∧ Tab.find t.ctxs ctx = some { c with loftUsed := c.loftUsed.modify die (fun u => u + n) } ∧
      ∀ k, k ≠ ctx → Tab.find t.ctxs k = Tab.find s.ctxs k) ∧
    (c.loft.getD die 0 * 65536 - c.loftUsed.getD die 0 < n → s.loftTake ctx die n = none)

/-- R90: RET pops the newest entry and goes on there; on an empty stack it ends the thread exactly as EXIT; a newest entry that is no clause
start raises 0x0C before the pop. -/
def Sys2Proof.Spec.Returns : Prop :=
  ∀ (f : FmtA) s op sh iss rest l e s1, Alone s (.ret f) op sh iss rest l e → LastOf iss op sh →
    (∀ a st, e.th.stack = a :: st → s.targetOk e a = (s1, true) → Jumps (.ret f) s l s1 a { e.th with stack := st }) ∧
    (∀ a st, e.th.stack = a :: st → s.targetOk e a = (s1, false) → FaultsAt (.ret f) s iss rest e s1 (.of 0x0C)) ∧
    (e.th.stack = [] → ∃ t, exec (.ret f) s = .next t ∧ OnlyLanes (s.exitThread e) t [])

/-- R93, R74, R295, R323, R234: EXIT ends its participant: no longer live, its return stack's and its search state's loft given back, in a protected
block at its next commit (log entry 68); of an item the memory operations are performed, and then its launch counter falls by one; a pair thread's staged
entries go to its launch to be applied. A tile program's sequencer is marked ended. -/
def Sys2Proof.Spec.Exits : Prop :=
  ∀ (f : FmtA) s op sh iss rest l e, Alone s (.exit f) op sh iss rest l e →
    (∃ t, exec (.exit f) s = .next t ∧ OnlyLanes (s.exitThread e) t []) ∧
    (∀ r b, l = .thr r → s.block? r.blk = some b →
      let gone : Thread := { e.th with live := false, loftRs := false, search := Search.none }
      let give := (if e.th.loftRs then 192 else 0) + (if e.th.search.mode then 12288 else 0)
      (b.kind ≠ .item → (s.exitThread e).lane? l = some gone ∧
        (∀ c, b.prot = 0 → Tab.find s.ctxs b.ctx = some c → ∃ c', Tab.find (s.exitThread e).ctxs b.ctx = some c' ∧
          c'.loftUsed.getD (coreDie b.core) 0 = c.loftUsed.getD (coreDie b.core) 0 - give) ∧
        (b.prot ≠ 0 → (s.exitThread e).ctxs = s.ctxs ∧
          ((s.exitThread e).block? r.blk).map (fun k => k.spare) = some (b.spare + give))) ∧
      (b.kind = .item → ∃ s0, s0.lane? l = some gone ∧ (give = 0 → OnlyLanes s s0 [l]) ∧
        s.exitThread e = { s0.settle r with launches := Tab.upd (s0.settle r).launches b.lid (fun k => { k with count := k.count - 1 }) }) ∧
      (∀ it, b.kind = .pair → e.th.item = some it → (s.exitThread e).pairs =
        Tab.upd s.pairs b.lid (fun p => { p with apply := p.apply ++ [(it, e.th.staged)], running := p.running.erase it.n })) ∧
      (give = 0 → b.kind ≠ .item → b.kind ≠ .pair → OnlyLanes s (s.exitThread e) [l])) ∧
    (∀ c r, l = .tile c → (s.cluster c).tile = some r → ((s.exitThread e).cluster c).tile = some { r with ended := true } ∧
      (s.exitThread e).mem = s.mem ∧ (s.exitThread e).scr = s.scr ∧ (s.exitThread e).blocks = s.blocks)

/-- R94: YIELD moves its participant to the clause that follows, resets its age and leaves it out of the votes until its slice issues elsewhere. -/
def Sys2Proof.Spec.Yields : Prop :=
  ∀ (f : FmtA) s op sh iss rest l e, Alone s (.yield f) op sh iss rest l e → LastOf iss op sh →
    Jumps (.yield f) s l s (nextClause iss.pc iss.line) { e.th with age := 0, yieldAt := some (nextClause iss.pc iss.line) }

/-- R299: DEPTH and ALTS. -/
def Sys2Proof.Spec.SearchReads : Prop :=
  ∀ f : FmtA,
    Does (.depth f) (fun _ => True) (fun _ e th => th = wResult f e.th (BitVec.ofNat 32 e.th.search.sheaf.length)) ∧
    Does (.alts f) (fun _ => True) (fun _ e th =>
      th = wResult f e.th (match e.th.search.sheaf.head? with | none => 0 | some c => BitVec.ofNat 32 (c.n - c.next)))

/-- R294, R295: SBEGIN enters search mode with 12 KiB of loft, in the order of its checks; SEND leaves it and gives the loft back, in a protected
block at its next commit (log entry 68); outside search mode SEND raises operand (0x03). -/
def Sys2Proof.Spec.SearchModes : Prop :=
  (∀ (f : FmtSbegin) s op sh iss rest l e s1, Alone s (.sbegin f) op sh iss rest l e →
    let frame := e.val (f.operand.extractLsb' 0 8) 0
    let floor := (e.val (f.operand.extractLsb' 8 8) 0).toNat
    let label := targetAt e e.idx f.f.off.toInt
    let clear := e.th.search.mode = false
    let low := floor ≤ e.dec.regs
    let aligned := frame.toNat % 16 = 0
    let inside := e.scrBase ≤ frame.toNat ∧ frame.toNat + 256 ≤ e.scrBase + e.scrSize
    (∀ s2, clear → low → aligned → inside → s.targetOk e label = (s1, true) → s1.loftTake e.ctx (coreDie e.core) 12288 = some s2 →
      Completes (.sbegin f) s op sh iss l e s2 { e.th with search := ⟨true, label, frame, floor, [], []⟩ }) ∧
    (¬ clear ∨ ¬ low → FaultsAt (.sbegin f) s iss rest e s (.of 0x03)) ∧
    (clear → low → ¬ aligned → FaultsAt (.sbegin f) s iss rest e s (.of 0x06)) ∧
    (clear → low → aligned → ¬ inside → FaultsAt (.sbegin f) s iss rest e s (.of 0x08)) ∧
    (clear → low → aligned → inside → s.targetOk e label = (s1, false) → FaultsAt (.sbegin f) s iss rest e s1 (.of 0x0C)) ∧
    (clear → low → aligned → inside → s.targetOk e label = (s1, true) → s1.loftTake e.ctx (coreDie e.core) 12288 = none →
      FaultsAt (.sbegin f) s iss rest e s1 (.of 0x1A))) ∧
  (∀ (f : FmtA) s op sh iss rest l e, Alone s (.send f) op sh iss rest l e →
    (e.th.search.mode = true → e.prot = 0 →
      Completes (.send f) s op sh iss l e (s.loftGive e.ctx (coreDie e.core) 12288) { e.th with search := Search.none }) ∧
    (e.th.search.mode = true → e.prot ≠ 0 →
      Completes (.send f) s op sh iss l e (s.updBlock e.blk (fun b => { b with spare := b.spare + 12288 })) { e.th with search := Search.none }) ∧
    (e.th.search.mode = false → FaultsAt (.send f) s iss rest e s (.of 0x03)))

/-- R296, R292, R293: TRY saves WD where it is at or above FLOOR, then pushes a choice point whose mark is the trail's length after that, sets WD to
0 and pushes 0 (R39). A full sheaf, a full trail, a bad label or a thread outside search mode faults with no effect. -/
def Obligations.TryResults : Prop :=
  ∀ (f : FmtT) s op sh iss rest l e s1, Alone s (.tryMark f) op sh iss rest l e →
    let label := targetAt e e.idx f.off.toInt
    let q := e.th.search
    let trail := if q.floor ≤ f.d.toNat then ⟨e.th.rw f.d.toNat, f.d.toNat, false⟩ :: q.trail else q.trail
    let c : Choice := ⟨label, f.n.toNat + 1, 1, trail.length, f.d.toNat⟩
    (q.mode = false → FaultsAt (.tryMark f) s iss rest e s (.of 0x03)) ∧
    (q.mode = true → s.targetOk e label = (s1, false) → FaultsAt (.tryMark f) s iss rest e s1 (.of 0x0C)) ∧
    (q.mode = true → s.targetOk e label = (s1, true) →
      (272 ≤ q.sheaf.length → FaultsAt (.tryMark f) s iss rest e s1 (.of 0x0F)) ∧
      (q.sheaf.length < 272 → 1024 < trail.length → FaultsAt (.tryMark f) s iss rest e s1 (.of 0x0E)) ∧
      (q.sheaf.length < 272 → trail.length ≤ 1024 → Completes (.tryMark f) s op sh iss l e s1
        { pushed (withW e.th f.d.toNat 0) 0 with search := { q with sheaf := c :: q.sheaf, trail := trail } }))

/-- R297: a participant that fails drops its newest choice points that have no alternative left, puts every register and every word of its frame
window back to what it was at the mark of the first that has one, sets WD to that alternative and goes on at its resume label; with none left it
unwinds the whole trail and goes on at EXIT, still in search mode, with an empty sheaf. One that does not fail goes on; outside search mode FAIL raises operand (0x03). -/
def Obligations.FailResults : Prop :=
  ∀ i f c, fails i = some (f, c) → ∀ s op sh iss rest l e, Alone s i op sh iss rest l e → LastOf iss op sh →
    let q := e.th.search
    let frame := q.frame.toNat
    (c e.th = false → Completes i s op sh iss l e s e.th) ∧
    (c e.th = true → q.mode = false → FaultsAt i s iss rest e s (.of 0x03)) ∧
    (c e.th = true → q.mode = true → e.prot = 0 → ∀ used mark pc wd rest', (∀ u ∈ used, u.n ≤ u.next) →
      ((q.sheaf = used ∧ mark = 0 ∧ pc = q.exit ∧ wd = none ∧ rest' = []) ∨
        (∃ p ps, q.sheaf = used ++ p :: ps ∧ p.next < p.n ∧ mark = (used.map Choice.mark).foldl min p.mark ∧ pc = p.resume ∧
          wd = some (p.wd, p.next) ∧ rest' = { p with next := p.next + 1 } :: ps)) →
        ∃ t th, exec i s = .next t ∧ t.lane? l = some th ∧ th.pc = pc ∧ th.cont = 0 ∧ th.yn = 0 ∧
          (∀ n, n < 128 → th.rw n = (match wd with
            | some (d, k) => if n = d then BitVec.ofNat 32 k else unwoundTo (aboveMark q mark) false n (e.th.rw n)
            | none => unwoundTo (aboveMark q mark) false n (e.th.rw n))) ∧
          (∀ n ∈ th.badW, n ∈ e.th.badW) ∧
          th = { e.th with pc := pc, cont := 0, line := [], yn := 0, w := th.w, badW := th.badW, search := { q with sheaf := rest', trail := q.trail.drop (q.trail.length - mark) } } ∧
          (∀ k, k < 128 → t.scrWord e.core (frame + 4 * k) = unwoundTo (aboveMark q mark) true k (s.scrWord e.core (frame + 4 * k))) ∧
          ScrKept s t (((aboveMark q mark).filter (fun x => x.win)).flatMap (fun x => (List.range 4).map (fun j => scrKey e.core (frame + 4 * x.loc) + j))) ∧
          t.mem = s.mem)

/-- R298: CUT keeps choice points 0 to k - 1 and the whole trail, CUT with k = 0 and CUTALL empty both; outside search mode both raise 0x03. -/
def Sys2Proof.Spec.Cuts : Prop :=
  ∀ f : FmtA,
    (Does (.cut f) (fun e => e.th.search.mode = true) (fun _ e th =>
      let q := e.th.search
      let k := (e.a f).toNat
      th = { e.th with search := if k = 0 then { q with sheaf := [], trail := [] } else { q with sheaf := (q.sheaf.reverse.take k).reverse } })) ∧
    (Does (.cutall f) (fun e => e.th.search.mode = true) (fun _ e th => th = { e.th with search := { e.th.search with sheaf := [], trail := [] } })) ∧
    (∀ s op sh iss rest l e, Alone s (.cut f) op sh iss rest l e → e.th.search.mode = false → FaultsAt (.cut f) s iss rest e s (.of 0x03)) ∧
    (∀ s op sh iss rest l e, Alone s (.cutall f) op sh iss rest l e → e.th.search.mode = false → FaultsAt (.cutall f) s iss rest e s (.of 0x03))

namespace Sys2Proof.Spec

/-- R300: a choice point at a depth of a thread of a block that a thief of some FLOOR may take from. -/
def Eligible (b : Block) (blk floor : Nat) (t : TRef) (depth : Nat) (c : Choice) : Prop :=
  t.blk = blk ∧ ∃ th, b.thread? t.wp t.m = some th ∧ th.live = true ∧ th.search.mode = true ∧ th.search.floor = floor ∧
    th.search.sheaf.reverse[depth]? = some c ∧ c.next < c.n

end Sys2Proof.Spec

/-- R300: GLEAN takes of all eligible choice points the one of least depth index, of those the one of the thread of lower tid, and finds one where there is
one. A second copy takes from the thread that the first one took from (R366). -/
def Sys2Proof.Spec.GleanChoice : Prop :=
  ∀ (s : State) (e : Env) b, (∀ w ∈ b.warps, w.threads.length ≤ 32) → s.isTwin e.blk = false →
    (s.gleanPick e b = none ↔ ∀ t d c, ¬ Eligible b e.blk e.th.search.floor t d c) ∧
    (∀ depth vtid v c, s.gleanPick e b = some (depth, vtid, v, c) → Eligible b e.blk e.th.search.floor v depth c ∧ vtid = 32 * v.wp + v.m ∧
      ∀ t d c', Eligible b e.blk e.th.search.floor t d c' → depth < d ∨ (depth = d ∧ 32 * v.wp + v.m ≤ 32 * t.wp + t.m))

/-- R303: a thread held in GLEAN that still cannot take goes on with the following clause when every live thread of the block waits in GLEAN and none has a
candidate, and all of them with it; else it stays. -/
def Sys2Proof.Spec.GleanFallsThrough : Prop :=
  ∀ (s : State) (r : TRef) b th e pc idx, s.block? r.blk = some b → b.saved = none → s.thread? r = some th → th.live = true →
    th.hold = some (.glean pc idx) → s.env? (.thr r) 7 th.pc th.cont = some e → s.steal e r = none →
    let waits (x : Thread) : Prop := (∃ pc idx, x.hold = some (.glean pc idx)) ∧ x.stop = none ∧ ∀ t d c, ¬ Eligible b r.blk x.search.floor t d c
    let ends : Prop := ∀ w ∈ b.warps, ∀ x ∈ w.threads, x.live = true → waits x
    (ends → ∀ u x, u.blk = r.blk → s.thread? u = some x → x.live = true →
      (s.wake r).thread? u = some { x with hold := none, line := if x.cont = 0 then [] else x.line }) ∧
    (¬ ends → s.wake r = s)

/-- R300 to R303: GLEAN in a thief with an empty sheaf. Where a theft can be made it is made at once: the victim's choice point loses its last
alternative, and the thief goes on at that choice point's resume label with WD set to the alternative it took, its own sheaf and trail empty, and the
registers from FLOOR on and the frame window of the victim as they stood at the choice point (R301). Where none can, the thief is held at its clause;
that a thief the agenda puts off waits too is the model's choice (log entry 64). -/
def Sys2Proof.Spec.GleanDone : Prop :=
  ∀ (f : FmtC) s op sh iss rest r e s1, Alone s (.glean f) op sh iss rest (.thr r) e → LastOf iss op sh →
    let label := targetAt e e.idx f.off.toInt
    let may := e.th.search.mode = true ∧ e.th.search.sheaf = []
    (¬ may → FaultsAt (.glean f) s iss rest e s (.of 0x03)) ∧
    (may → s.targetOk e label = (s1, false) → FaultsAt (.glean f) s iss rest e s1 (.of 0x0C)) ∧
    (may → s.targetOk e label = (s1, true) → s1.steal e r = none →
      ∃ t, exec (.glean f) s = .next t ∧ OnlyLanes s1 t [.thr r] ∧
        t.lane? (.thr r) = some { e.th with hold := some (.glean iss.pc iss.idx), pc := nextClause iss.pc iss.line, cont := 0, line := iss.line, yn := 0 }) ∧
    (∀ b depth vtid v vt c, may → s.targetOk e label = (s1, true) → s1.block? e.blk = some b → s1.gleanPick e b = some (depth, vtid, v, c) →
      b.thread? v.wp v.m = some vt → v ≠ r → v.blk = r.blk → vt.search.sheaf.reverse[depth]? = some c → r ∉ s.putOff →
      let high := (List.range (128 - e.th.search.floor)).map (fun i => Reg.w (e.th.search.floor + i))
      vt.owes high = false → e.th.owes (.w c.wd :: high) = false →
      let mine := e.th.search.frame.toNat
      let theirs := vt.search.frame.toNat
      (e.prot = 0 ∨ (mine % 4 = 0 ∧ b.jcount + 64 ≤ 4096)) →
      ∃ t th vth, exec (.glean f) s = .next t ∧ t.lane? (.thr r) = some th ∧ t.lane? (.thr v) = some vth ∧
        th.pc = c.resume ∧ th.cont = 0 ∧ th.yn = 0 ∧ th.search = { e.th.search with sheaf := [], trail := [] } ∧ th.p = e.th.p ∧ th.q = e.th.q ∧ th.x = e.th.x ∧
        th.stack = e.th.stack ∧ (c.wd < 128 → th.rw c.wd = BitVec.ofNat 32 (c.n - 1)) ∧
        (∀ n, n < 128 → n ≠ c.wd → th.rw n = if e.th.search.floor ≤ n ∧ n < b.regs then
            unwoundTo (aboveMark vt.search c.mark) false n (vt.rw n) else e.th.rw n) ∧
        vth = { vt with search := { vt.search with sheaf := (vt.search.sheaf.reverse.set depth { c with n := c.n - 1 }).reverse } } ∧
        (∀ k, k < 64 → t.scrWord e.core (mine + 4 * k) = unwoundTo (aboveMark vt.search c.mark) true k (s.scrWord e.core (theirs + 4 * k))) ∧
        ScrKept s t ((List.range 256).map (fun k => e.core * 262144 + mine + k)) ∧ t.mem = s.mem)

namespace Sys2Proof.Spec

/-! ## Memory (R134 to R168) -/

/-- The registers D, D + 1, … of a format M load; none with WBS set. -/
def toDm (f : FmtM) (vs : List Word) : List RegVal := if f.wbs then [] else vs.zipIdx.map (fun p => .w (f.d.toNat + p.2) p.1)

/-- The predicate that D[2:0] names. -/
def toDp (f : FmtA) (v : Bool) : List RegVal := if f.wbs then [] else [.p (f.d.toNat % 8) v]

/-- R47: the base pair plus the offset times the access size. -/
def addrOf (e : Env) (f : FmtM) (size : Nat) : DWord := BitVec.ofInt 64 ((e.pair f.base).toNat + f.off.toInt * size)
/-- R47: the 32-bit base plus the offset times the access size. -/
def offOf (e : Env) (f : FmtM) (size : Nat) : Word := BitVec.ofInt 32 ((e.val f.base f.lit).toNat + f.off.toInt * size)

/-- The 32-bit words of n little-endian bytes, the last one zero-extended; or one sign-extended word. -/
def loaded (n : Nat) (signed : Bool) (bs : List Byte) : List Word :=
  if signed then [(BitVec.ofNat (8 * n) (leVal bs)).signExtend 32]
  else (List.range ((n + 3) / 4)).map (fun i => BitVec.ofNat 32 (leVal bs / 2 ^ (32 * i)))

/-- Table 5-4: the loads, their size, and whether they sign-extend. -/
def loadOf : Instr → Option (FmtM × Nat × Bool)
  | .ld16 f => some (f, 2, false) | .ld32 f => some (f, 4, false) | .ld64 f => some (f, 8, false) | .ld128 f => some (f, 16, false)
  | .ld16S f => some (f, 2, true) | .ldb f => some (f, 1, false) | .ldbs f => some (f, 1, true)
  | _ => none

/-- Table 5-4: the stores and their size. -/
def storeOf : Instr → Option (FmtM × Nat)
  | .st8 f => some (f, 1) | .st16 f => some (f, 2) | .st32 f => some (f, 4) | .st64 f => some (f, 8) | .st128 f => some (f, 16)
  | _ => none

/-- R149: the scratchpad loads and stores and their size. -/
def ldsOf : Instr → Option (FmtM × Nat)
  | .lds16 f => some (f, 2) | .lds32 f => some (f, 4) | .lds64 f => some (f, 8) | .lds128 f => some (f, 16)
  | _ => none
def stsOf : Instr → Option (FmtM × Nat)
  | .sts16 f => some (f, 2) | .sts32 f => some (f, 4) | .sts64 f => some (f, 8) | .sts128 f => some (f, 16)
  | _ => none

/-- Byte i of the registers D, D + 1, …, lowest register and byte first. -/
def dByte (e : Env) (d : BitVec 7) (i : Nat) : Byte := (e.th.rw (d.toNat + i / 4)).extractLsb' (8 * (i % 4)) 8

/-- The bytes that a store takes from D on. -/
def dBytes (e : Env) (d : BitVec 7) (n : Nat) : List Byte := (List.range n).map (dByte e d)

/-- The instruction completes in a participant whose thread stands in `s'` as `base`: nothing but the thread and the clauses in execution differs from
`s'`, and the thread is as `R` says, standing where the clause goes on. -/
def Ends (i : Instr) (s : State) (op : Op) (sh : Shape) (iss : Issue) (l : Lane) (e : Env) (s' : State) (R : Thread → Thread → Prop) : Prop :=
  ∃ t base th, exec i s = .next t ∧ OnlyLanes s' t [l] ∧ s'.lane? l = some base ∧ R base th ∧
    t.lane? l = some (stands iss op sh (th.trailAdd (s.trailOf e op sh)))

/-- A held participant (R403): it keeps its clause and the index of the next word, or, after the last word, stands at the clause that follows. It keeps
the words of the line as they were fetched (R52). -/
def heldAt (iss : Issue) (op : Op) (sh : Shape) (th : Thread) (h : Hold) : Thread :=
  if (iss.after op sh).last then { th with hold := some h, pc := nextClause iss.pc iss.line, cont := 0, line := iss.line, yn := 0 }
  else { th with hold := some h, cont := (iss.after op sh).nextIdx, line := iss.line }

/-- The instruction holds a participant: nothing but its thread and the clauses in execution differs from `s'`. -/
def Holds (i : Instr) (s : State) (op : Op) (sh : Shape) (iss : Issue) (l : Lane) (s' : State) (h : Hold) : Prop :=
  ∃ t base, exec i s = .next t ∧ OnlyLanes s' t [l] ∧ s'.lane? l = some base ∧ t.lane? l = some (heldAt iss op sh base h)

/-- An instruction that executes once per issue completes (R86, R173): with the operands of the first participant, which is the lowest (R27), it brings
about `s'`, and every participant is owed the same results. -/
def DoesOnce (i : Instr) (s : State) (s' : State) (op : Op) (sh : Shape) (iss : Issue) (wr : List RegVal) : Prop :=
  ∃ t, exec i s = .next t ∧ OnlyLanes s' t iss.lanes ∧ ∀ l ∈ iss.lanes, ∀ e, Sees s iss l e → ∃ base th, s'.lane? l = some base ∧
    owesFrom base e wr th ∧ t.lane? l = some (stands iss op sh (th.trailAdd (s'.trailOf e op sh)))

/-- The cells that a store writes on the device; bytes on LOC 3 pages go elsewhere. -/
def cellsOf (o : StoreOp) : List (Nat × Byte) := (o.keys.zip o.data).filter (fun c => o.peer.isNone || decide (c.1 < 3 * 2 ^ 52))

/-- The cells of a thread's stores that only it sees, oldest first. -/
def inFlight (th : Thread) : List (Nat × Byte) := th.stq.flatMap cellsOf

/-- What the last of some writes leaves at a key. -/
def lastAt (cells : List (Nat × Byte)) (k : Nat) (v : Byte) : Byte := (((cells.filter (fun c => c.1 == k)).getLast?).map (fun c => c.2)).getD v

/-- No request of any owner's queue is at these keys. -/
def NoRequests (s : State) (keys : List Nat) : Prop :=
  ∀ p ∈ s.clusters, ∀ r ∈ p.2.atomQ, ∀ k ∈ keys, ¬ (r.key ≤ k ∧ k < r.key + r.kind.size)

/-- No store that is visible in the block and not yet performed beyond it reaches these keys. -/
def NoBlockStores (s : State) (blk : Nat) (keys : List Nat) : Prop :=
  ∀ b, s.block? blk = some b → ∀ p ∈ b.out, ∀ k ∈ p.2.keys, k ∉ keys

/-- No other thread has a store in flight to these keys. -/
def NoOtherStores (s : State) (t : TRef) (keys : List Nat) : Prop :=
  ∀ u th, u ≠ t → s.thread? u = some th → ∀ o ∈ th.stq, ∀ k ∈ o.keys, k ∉ keys

/-- No held operation of the block, or of the launch it works for, has to come before what an engine or a tile program stores. -/
def NothingHeld (s : State) (blk : Nat) : Prop := ∀ b, s.block? (s.origin blk) = some b → b.fixed = false ∨ b.held = []

/-- A store to peers with the bytes of one more thread of its issue. -/
def joined (o : StoreOp) (r : TRef) (keys : List Nat) (data : List Byte) : StoreOp :=
  ⟨o.keys ++ keys, o.data ++ data, o.peer.map (fun p => (p.1, p.2 ++ [r]))⟩

/-- The bytes for peers of an issue and word that a held operation carries. -/
def peerOfIssue (h : HeldOp) (n : Nat × Nat) : Option StoreOp :=
  match h.act with
  | .store o => if o.peer.map (fun p => p.1) = some n then some o else none
  | _ => none

/-- A thread's bytes for peers among the stores of its block: one entry holds those of an issue's word (R327). -/
def toPeers (n : Nat × Nat) (r : TRef) (keys : List Nat) (data : List Byte) (out : List (TRef × StoreOp)) : List (TRef × StoreOp) :=
  match out.findIdx? (fun p => p.2.peer.map (fun q => q.1) == some n) with
  | some k => out.modify k (fun p => (p.1, joined p.2 r keys data))
  | none => out ++ [(r, ⟨keys, data, some (n, [r])⟩)]

end Sys2Proof.Spec

/-- R137, R135: translation at a core whose TLB holds nothing for the address. A 64 KiB, a 2 MiB or a 512 MiB leaf gives the place LOC × 2^52 + page
base + offset, within the range that LOC selects; an invalid entry, a leaf or a pointer at the wrong level, a reserved bit, a misplaced page, an
address with a bit of [63:52] set, or a place outside the range is refused. -/
def Sys2Proof.Spec.TranslationWalk : Prop :=
  ∀ (s : State) core ctx (va : DWord) c, Tab.find s.ctxs ctx = some c → s.tlbHit core ctx va = none →
    let e0 := entryAt s.mem (c.root + 8 * (va.extractLsb' 42 10).toNat)
    let e1 := entryAt s.mem (pteBase e0 + 8 * (va.extractLsb' 29 13).toNat)
    let e2 := entryAt s.mem (pteBase e1 + 8 * (va.extractLsb' 16 13).toNat)
    let good (e : DWord) : Prop := pteV e = true ∧ pteReserved e = false
    let at_ (e : DWord) (size : Nat) := pteBase e + va.toNat % size
    (va.extractLsb' 52 12 ≠ 0 → (s.translate core ctx va).2 = none) ∧
    (va.extractLsb' 52 12 = 0 →
      (¬ good e0 ∨ pteKind e0 ≠ 3 → (s.translate core ctx va).2 = none) ∧
      (good e0 → pteKind e0 = 3 →
        (¬ good e1 ∨ pteKind e1 < 2 → (s.translate core ctx va).2 = none) ∧
        (good e1 → pteKind e1 = 2 → pteBase e1 % 536870912 = 0 → inRange s.mem c (pteLoc e1) (at_ e1 536870912) = true →
          (s.translate core ctx va).2 = some (pteLoc e1 * 2 ^ 52 + at_ e1 536870912, e1)) ∧
        (good e1 → pteKind e1 = 2 → (pteBase e1 % 536870912 ≠ 0 ∨ inRange s.mem c (pteLoc e1) (at_ e1 536870912) = false) →
          (s.translate core ctx va).2 = none) ∧
        (good e1 → pteKind e1 = 3 →
          (¬ good e2 ∨ 1 < pteKind e2 → (s.translate core ctx va).2 = none) ∧
          (∀ size, good e2 → (pteKind e2 = 0 ∧ size = 65536 ∨ pteKind e2 = 1 ∧ size = 2097152) →
            (pteBase e2 % size = 0 → inRange s.mem c (pteLoc e2) (at_ e2 size) = true →
              (s.translate core ctx va).2 = some (pteLoc e2 * 2 ^ 52 + at_ e2 size, e2)) ∧
            (pteBase e2 % size ≠ 0 ∨ inRange s.mem c (pteLoc e2) (at_ e2 size) = false → (s.translate core ctx va).2 = none)))))

/-- R139, R179: the checks of an access that stays on one 64 KiB frame, in their order: misaligned (0x06), translation (0x07), permission (0x08), format
(0x09), unheld write (0x0B); an access that passes them gets the keys of its bytes. An uncorrectable error in an entry that the walk reads, or in the entry of
the peer table that a LOC 3 address names, is consumed (R369, log entry 17). The checks change nothing but TLBs. -/
def Sys2Proof.Spec.AccessChecks : Prop :=
  ∀ (s : State) core ctx blk (w : Want) (align : Nat) (va : DWord) (n : Nat),
    OnlyTlbs s (s.access core ctx blk w align va n).1 ∧
    (va.toNat % align ≠ 0 → (s.access core ctx blk w align va n).2 = .error (.acc 0x06 va w.acc)) ∧
    (va.toNat % align = 0 → va.toNat % 65536 + n ≤ 65536 →
      let tr := s.translate core ctx va
      let spoilt := s.tlbHit core ctx va = none ∧ s.walkBad ctx va = true
      (spoilt → (s.access core ctx blk w align va n).2 = .error (.acc 0x10 va w.acc)) ∧
      (¬ spoilt → tr.2 = none → (s.access core ctx blk w align va n).2 = .error (.acc 0x07 va w.acc)) ∧
      (∀ k pte, ¬ spoilt → tr.2 = some (k, pte) →
        (permitted pte w.acc w.atom = false → (s.access core ctx blk w align va n).2 = .error (.acc 0x08 va w.acc)) ∧
        (permitted pte w.acc w.atom = true → w.fmt pte = false → (s.access core ctx blk w align va n).2 = .error (.acc 0x09 va w.acc)) ∧
        (permitted pte w.acc w.atom = true → w.fmt pte = true →
          let unheld := w.bound = true ∧ (w.acc = .write ∨ w.acc = .rw) ∧ s.unheld ctx blk va n = true
          (unheld → (s.access core ctx blk w align va n).2 = .error (.acc 0x0B va w.acc)) ∧
          let poisoned := pteLoc pte = 3 ∧ s.peerBad ctx (k - 3 * 2 ^ 52) = true
          (¬ unheld → poisoned → (s.access core ctx blk w align va n).2 = .error (.acc 0x10 va w.acc)) ∧
          (¬ unheld → ¬ poisoned → (s.access core ctx blk w align va n).2 = .ok ((List.range n).map (fun i => k + i), [pte])))))

/-- R144, R170, R171, R199: a thread of a block that is no pair launch's reads its own latest store that only it sees to a byte, else the latest that has
become visible in its block, else the latest that its block holds until a commit, else memory (the two steps of a store: log entry 11). -/
def Sys2Proof.Spec.OwnView : Prop :=
  ∀ (s : State) (r : TRef) b th k, s.block? r.blk = some b → s.thread? r = some th → b.kind ≠ .pair → (∀ h ∈ b.held, ∃ o, h.act = .store o) →
    (s.view r).byte k = lastAt (inFlight th) k (lastAt (b.out.flatMap (fun p => cellsOf p.2)) k (lastAt (b.held.flatMap (fun h => match h.act with
      | .store o => cellsOf o
      | _ => [])) k (s.mem.byte k)))

/-- R143: a load computes its address from the base pair, and once its access passes, it owes its slot the bytes that its thread sees there, widened as
Table 5-4 gives; no memory changes unless requests of the thread at those bytes have to come first (R171). A check that fails is its fault. That it owes
the bytes of its own pass is the model's choice (log entry 11). -/
def Sys2Proof.Spec.Loads : Prop :=
  ∀ i f n signed, loadOf i = some (f, n, signed) → ∀ s op sh iss rest l e s1, Alone s i op sh iss rest l e →
    let a := s.access e.core e.ctx e.blk ⟨.read, false, fmtRaw, true⟩ n (addrOf e f n) n
    (∀ x, a = (s1, .error x) → FaultsAt i s iss rest e s1 x) ∧
    (∀ keys ptes s2 bs, a = (s1, .ok (keys, ptes)) → s1.readBytes e (addrOf e f n) keys = (s2, .ok bs) →
      Ends i s op sh iss l e s2 (fun base th => owesFrom base e (toDm f (loaded n signed bs)) th) ∧
      (NoRequests s keys → s.memBad keys = false → bs = keys.map (s.viewL e).byte ∧ OnlyTlbs s s2)) ∧
    (∀ keys ptes s2 x, a = (s1, .ok (keys, ptes)) → s1.readBytes e (addrOf e f n) keys = (s2, .error x) →
      x = .acc 0x10 (addrOf e f n) .read ∧ FaultsAt i s iss rest e s2 x)

/-- R143, R144, R199, R327, R392: a store computes its address from the base pair, and once its access passes, its bytes are in flight as the newest
store of its thread; bytes of a peer, whose keys are those from 3 × 2^52 on, join those of its issue among the stores of the block, as one message
carries the consecutive bytes of an issue (log entry 58). In a protected block they are held for the commit instead. No byte of memory or scratchpad
changes: that the store is in flight from its pass on, and performed later, is the model's choice (log entry 11). A tile program's bytes reach memory
at once (log entry 9). -/
def Obligations.StoreResults : Prop :=
  ∀ i f n, storeOf i = some (f, n) → ∀ s op sh iss rest l e s1, Alone s i op sh iss rest l e →
    let a := s.access e.core e.ctx e.blk ⟨.write, false, fmtRaw, true⟩ n (addrOf e f n) n
    (∀ x, a = (s1, .error x) → FaultsAt i s iss rest e s1 x) ∧
    (∀ keys ptes, a = (s1, .ok (keys, ptes)) →
      let data := dBytes e f.d n
      let here := ∀ k ∈ keys, k < 3 * 2 ^ 52
      let away := ∀ k ∈ keys, 3 * 2 ^ 52 ≤ k
      (∀ r, l = .thr r → e.prot = 0 → NoRequests s keys → NoOtherStores s r keys →
        (here → Completes i s op sh iss l e s1 { e.th with stq := e.th.stq ++ [⟨keys, data, none⟩] }) ∧
        (away → Completes i s op sh iss l e (s1.updBlock r.blk (fun b => { b with out := toPeers (iss.id, iss.idx) r keys data b.out })) e.th)) ∧
      (∀ r b, l = .thr r → s.block? r.blk = some b → b.prot ≠ 0 → NoRequests s keys →
        let held (o : StoreOp) : HeldOp := ⟨0, n, e.tid, addrOf e f n, data, .store o⟩
        let done (hs : List HeldOp) : Prop := Completes i s op sh iss l e
          (s1.updBlock r.blk (fun b => { b with jcount := b.jcount + (n + 7) / 8, held := hs })) e.th
        (4096 < b.jcount + (n + 7) / 8 → FaultsAt i s iss rest e s1 (.of 0x19)) ∧
        (b.jcount + (n + 7) / 8 ≤ 4096 → b.primary = true ∨ b.twin = none →
          (here → done (b.held ++ [held ⟨keys, data, none⟩])) ∧
          (away → (∀ h ∈ b.held, peerOfIssue h (iss.id, iss.idx) = none) → done (b.held ++ [held ⟨keys, data, some ((iss.id, iss.idx), [r])⟩])) ∧
          (∀ pre h q post, away → b.held = pre ++ h :: post → (∀ x ∈ pre, peerOfIssue x (iss.id, iss.idx) = none) → peerOfIssue h (iss.id, iss.idx) = some q →
            done (pre ++ { h with act := .store (joined q r keys data) } :: post ++ [held ⟨[], [], none⟩])))) ∧
      (∀ c, l = .tile c → here → NoBlockStores s e.blk keys → NothingHeld s e.blk →
        ∃ t, exec i s = .next t ∧ t.lane? l = some (stands iss op sh e.th) ∧ t.scr = s.scr ∧ t.blocks = s.blocks ∧
          ∀ k, t.mem.byte k = lastAt (keys.zip data) k (s.mem.byte k)))

/-- R145: where element i of a base stands. A scalar element of z bytes lies at base + i × z; element i of a bfp page is element i mod n of the block
at base + floor(i / n) × (4 + n × B / 8). -/
def Sys2Proof.Spec.ElementPlace : Prop :=
  ∀ (pte base : DWord) (i : Nat),
    (∀ z, ((pteFmt pte = 1 ∧ z = 4) ∨ (pteFmt pte = 2 ∧ z = 2) ∨ (pteFmt pte ∈ [3, 4, 12] ∧ z = 1)) →
      (elemAt pte base i).va = BitVec.ofNat 64 (base.toNat + i * z) ∧ (elemAt pte base i).n = z) ∧
    (∀ B n, 5 ≤ pteFmt pte → pteFmt pte ≤ 11 → B = 13 - pteFmt pte → ((pteGeo pte = 0 ∧ n = 32) ∨ (pteGeo pte = 1 ∧ n = 16) ∨ (pteGeo pte = 2 ∧ n = 64)) →
      (elemAt pte base i).va = BitVec.ofNat 64 (base.toNat + i / n * (4 + n * B / 8)) ∧ (elemAt pte base i).n = 4 + n * B / 8 ∧
      (elemAt pte base i).sub = i % n)

/-- R107, R145, R146: the bytes of an element that a load reads, and the value in them. A scalar element is read whole; of a block, the exponent byte and
the bytes that hold the mantissa, for LDEXP the exponent byte alone. Exponent 0 makes +0, 255 a NaN, and any other m × 2^(E - 127) / 2^(B - 2). -/
def Sys2Proof.Spec.ElementValue : Prop :=
  ∀ (x : ElemAt) (bs : List Byte),
    (5 ≤ pteFmt x.pte → pteFmt x.pte ≤ 11 →
      let B := 13 - pteFmt x.pte
      let raw := leVal (bs.drop 4) / 2 ^ (B * x.sub) % 2 ^ B
      let m : Int := if raw < 2 ^ (B - 1) then raw else (raw : Int) - 2 ^ B
      let E := (bs.headD 0).toNat
      elemSpans true x = [(0, 1)] ∧
      (4 + (B * x.sub + B - 1) / 8 < bs.length →
        elemNum x ((elemSpans false x).flatMap (fun p => (bs.drop p.1).take p.2)) =
          (if E = 0 then .fin false 0 0 else if E = 255 then .nan else .fin (decide (m < 0)) m.natAbs ((E : Int) - 127 - (B - 2))))) ∧
    (pteFmt x.pte ∈ [1, 2, 3, 4, 12] → elemSpans false x = [(0, x.n)]) ∧
    (pteFmt x.pte = 1 → elemNum x bs = fmtF32.decode (leVal bs)) ∧ (pteFmt x.pte = 2 → elemNum x bs = fmtBf16.decode (leVal bs)) ∧
    (pteFmt x.pte = 3 → elemNum x bs = fmtE4m3.decode (leVal bs)) ∧ (pteFmt x.pte = 4 → elemNum x bs = fmtE5m2.decode (leVal bs)) ∧
    (∀ b : Byte, pteFmt x.pte = 12 → elemNum x [b] = .fin b.msb b.toInt.natAbs 0)

/-- R139, R145: the checks of an element access, whose format is the one of the page that holds the base: that page's translation (0x07), then the base's
alignment (0x06), permission (0x08) and format (0x09); a scalar element on a page that differs in FMT, GEO or SR raises format (0x09) there, and one that
agrees gives the keys of its bytes. That the base's page is looked up before the alignment is checked is the model's choice (log entry 15). -/
def Sys2Proof.Spec.ElementChecks : Prop :=
  ∀ (s : State) (e : Env) (w : Want) (base : DWord) (i : Nat) (spans : ElemAt → List (Nat × Nat)),
    let tr := s.translate e.core e.ctx base
    let spoilt (s : State) (va : DWord) := s.tlbHit e.core e.ctx va = none ∧ s.walkBad e.ctx va = true
    (spoilt s base → (s.element e w spans base i).2 = .error (.acc 0x10 base w.acc)) ∧
    (¬ spoilt s base → tr.2 = none → (s.element e w spans base i).2 = .error (.acc 0x07 base w.acc)) ∧
    (∀ k pte, ¬ spoilt s base → tr.2 = some (k, pte) →
      let bfp := 5 ≤ pteFmt pte ∧ pteFmt pte ≤ 11
      let element := 1 ≤ pteFmt pte ∧ pteFmt pte ≤ 12 ∧ ¬ (bfp ∧ pteGeo pte = 3)
      let askew := element ∧ ((bfp ∧ base.toNat % 4 ≠ 0) ∨ (pteFmt pte = 1 ∧ base.toNat % 4 ≠ 0) ∨ (pteFmt pte = 2 ∧ base.toNat % 2 ≠ 0))
      let at_ := elemAt pte base i
      (askew → (s.element e w spans base i).2 = .error (.acc 0x06 base w.acc)) ∧
      (¬ askew → permitted pte w.acc false = false → (s.element e w spans base i).2 = .error (.acc 0x08 base w.acc)) ∧
      (¬ askew → permitted pte w.acc false = true → w.fmt pte = false → (s.element e w spans base i).2 = .error (.acc 0x09 base w.acc)) ∧
      (∀ k2 pte2, ¬ askew → permitted pte w.acc false = true → w.fmt pte = true → spans at_ = [(0, at_.n)] → at_.va.toNat % 65536 + at_.n ≤ 65536 →
        ¬ spoilt tr.1 at_.va → (tr.1.translate e.core e.ctx at_.va).2 = some (k2, pte2) → permitted pte2 w.acc w.atom = true →
        (¬ (pteFmt pte = pteFmt pte2 ∧ pteGeo pte = pteGeo pte2 ∧ pteSr pte = pteSr pte2) →
          (s.element e w spans base i).2 = .error (.acc 0x09 at_.va w.acc)) ∧
        (pteFmt pte = pteFmt pte2 ∧ pteGeo pte = pteGeo pte2 ∧ pteSr pte = pteSr pte2 → w.bound = false →
          (s.element e w spans base i).2 = .ok (at_, (List.range at_.n).map (fun j => k2 + j), [pte2]))))

/-- R146: LDE.F32, LDE.BF16X2 and LDEXP owe the element, two elements, or the shared exponent; a check that fails is the fault, of the element in D[15:0]
before that in D[31:16]. Index e + 1 is not wrapped to 32 bits (log entry 15), and each owes the bytes of its own pass (log entry 11). -/
def Sys2Proof.Spec.ElementLoads : Prop :=
  ∀ (f : FmtA) s op sh iss rest l e,
    (∀ s1 x bs, Alone s (.ldeF32 f) op sh iss rest l e → s.loadElem e false (e.pair f.a) (e.b f).toNat = (s1, .ok (x, bs)) →
      Ends (.ldeF32 f) s op sh iss l e s1 (fun base th => owesFrom base e (toD f [once .rn (elemNum x bs)]) th)) ∧
    (∀ s1 s2 x bs y cs, Alone s (.ldeBf16x2 f) op sh iss rest l e → s.loadElem e false (e.pair f.a) (e.b f).toNat = (s1, .ok (x, bs)) →
      s1.loadElem e false (e.pair f.a) ((e.b f).toNat + 1) = (s2, .ok (y, cs)) →
      Ends (.ldeBf16x2 f) s op sh iss l e s2 (fun base th => owesFrom base e
        (toD f [BitVec.ofNat 16 (fmtBf16.round .rn (elemNum y cs)) ++ BitVec.ofNat 16 (fmtBf16.round .rn (elemNum x bs))]) th)) ∧
    (∀ s1 x bs, Alone s (.ldexp f) op sh iss rest l e → s.loadElem e true (e.pair f.a) (e.b f).toNat = (s1, .ok (x, bs)) →
      Ends (.ldexp f) s op sh iss l e s1 (fun base th => owesFrom base e (toD f [(bs.headD 0).setWidth 32]) th)) ∧
    (∀ s1 x, Alone s (.ldeF32 f) op sh iss rest l e → s.loadElem e false (e.pair f.a) (e.b f).toNat = (s1, .error x) →
      FaultsAt (.ldeF32 f) s iss rest e s1 x) ∧
    (∀ s1 x, Alone s (.ldeBf16x2 f) op sh iss rest l e → s.loadElem e false (e.pair f.a) (e.b f).toNat = (s1, .error x) →
      FaultsAt (.ldeBf16x2 f) s iss rest e s1 x) ∧
    (∀ s1 s2 x bs y, Alone s (.ldeBf16x2 f) op sh iss rest l e → s.loadElem e false (e.pair f.a) (e.b f).toNat = (s1, .ok (x, bs)) →
      s1.loadElem e false (e.pair f.a) ((e.b f).toNat + 1) = (s2, .error y) → FaultsAt (.ldeBf16x2 f) s iss rest e s2 y) ∧
    (∀ s1 x, Alone s (.ldexp f) op sh iss rest l e → s.loadElem e true (e.pair f.a) (e.b f).toNat = (s1, .error x) →
      FaultsAt (.ldexp f) s iss rest e s1 x)

/-- R146: what an element load reads once the element is checked: the bytes that its thread sees, where no request of the thread has to come first and no
uncorrectable error stands there. -/
def Sys2Proof.Spec.ElementRead : Prop :=
  ∀ (expo : Bool) (s : State) (e : Env) (base : DWord) (i : Nat) s1 x keys ptes,
    s.element e ⟨.read, false, if expo then fmtBfp else fmtElem, true⟩ (elemSpans expo) base i = (s1, .ok (x, keys, ptes)) →
    NoRequests s keys → s.memBad keys = false → s.loadElem e expo base i = (s1, .ok (x, keys.map (s.viewL e).byte))

/-- The random fraction of R110 in units of 2^-16, from the discarded bits of the two neighbours and the index. -/
def Sys2Proof.Spec.srBits16 (dl dh e : Nat) : Nat :=
  let h := (dl * 0x9E37 + dh * 0x79B9 + e * 0x3C6F + 0x2B5A) % 65536
  (h * 0xA3C5 + h >>> 7) % 65536

/-- The discarded bits of m × 2^e on a grid of step 2^q: the first sixteen bits of its fraction of a step (R110). -/
def Sys2Proof.Spec.gridBits (m : Nat) (e q : Int) : Nat := if q ≤ e then 0 else m * 2 ^ 16 / 2 ^ (q - e).toNat % 2 ^ 16

/-- m × 2^e is below 2^j. -/
def Sys2Proof.Spec.below (m : Nat) (e j : Int) : Prop := m * 2 ^ (e - j).toNat < 2 ^ (j - e).toNat

/-- R108, R111, R112, Table 4-2: the bytes of an encoded block of n values with B-bit mantissas. A NaN or an infinity gives exponent 255 and mantissas 0; a
block of zeros is all 0; any other has the exponent of its largest magnitude, at least 1, and each mantissa is the value in units of 2^(E - 127 - B + 2),
rounded by rn or stochastically with the neighbours of its own block, and clamped. -/
def Sys2Proof.Spec.BlockEncoding : Prop :=
  ∀ (B : Nat) (sr : Bool) (xs : List NumVal), 2 ≤ B → B ≤ 8 → xs.length ∈ [16, 32, 64] →
    let bytes := bfpBytes B sr xs
    let n := xs.length
    ((∃ x ∈ xs, ∀ neg m e, x ≠ .fin neg m e) → bytes = 255 :: List.replicate (3 + n * B / 8) 0) ∧
    ((∀ x ∈ xs, ∃ neg e, x = .fin neg 0 e) → bytes = List.replicate (4 + n * B / 8) 0) ∧
    (∀ (mag : Nat → Nat) (ex : Nat → Int) (neg : Nat → Bool) (E : Nat), (∀ k, k < n → xs[k]? = some (.fin (neg k) (mag k) (ex k))) →
      (∃ k, k < n ∧ mag k ≠ 0) → 1 ≤ E → E ≤ 254 → (∀ k, k < n → below (mag k) (ex k) ((E : Int) - 126)) →
      (E = 1 ∨ ∃ k, k < n ∧ ¬ below (mag k) (ex k) ((E : Int) - 127)) →
      let q : Int := E - 127 - B + 2
      let d (k : Nat) := gridBits (mag (k % n)) (ex (k % n)) q
      bytes.length = 4 + n * B / 8 ∧ bytes.take 4 = [BitVec.ofNat 8 E, 0, 0, 0] ∧
      ∀ k, k < n →
        let t := roundMag (if sr then .sr (srBits16 (d (k + n - 1)) (d (k + 1)) k) else .rn) (neg k) (mag k) (ex k) q
        let v : Int := max (-2 ^ (B - 1)) (min (2 ^ (B - 1) - 1) (signInt (neg k) t))
        ((leVal (bytes.drop 4) / 2 ^ (B * k) % 2 ^ B : Nat) : Int) = v % 2 ^ B)

/-- The discarded bits of a value of an issue on the grid it is itself encoded on (R110). -/
def Sys2Proof.Spec.ownBits (vs : List SteVal) (y : SteVal) : Nat :=
  match pteFmt y.dst.pte, y.num with
  | 1, _ => 0
  | 2, x => fmtBf16.discarded x
  | 3, x => fmtE4m3.discarded x
  | 4, x => fmtE5m2.discarded x
  | 12, .fin neg m e => if NumVal.lt (.fin neg m e) (.fin true 128 0) || NumVal.lt (.fin false 127 0) (.fin neg m e) then 0 else gridBits m e 0
  | 12, _ => 0
  | _, _ => (bfpDiscards (13 - pteFmt y.dst.pte) (blockNums vs y)).getD y.dst.sub 0

/-- Table 5-5, R147: what a value of an issue stores on a page of each format: an F32 page takes it bit for bit; BF16, E4M3, E5M2 and I8 pages round it by rn,
or stochastically with the neighbours v - 1 and v + 1 of the sequence, an absent one discarding nothing; the block of a bfp page goes with its element 0. A
neighbour's bits are those on its own grid (log entry 15). -/
def Sys2Proof.Spec.StoredBytes : Prop :=
  ∀ (x2 : Bool) (vs : List SteVal) (x : SteVal),
    let fmt := pteFmt x.dst.pte
    let len := if x2 then 64 else 32
    let d (v : Nat) : Nat := ((vs.find? (fun y => y.v == v % len)).map (ownBits vs)).getD 0
    let mode : Mode := if pteSr x.dst.pte then .sr (srBits16 (d (x.v + len - 1)) (d (x.v + 1)) x.v) else .rn
    (fmt = 1 → leVal (steBytes x2 vs x) = x.bits.toNat ∧ (steBytes x2 vs x).length = 4) ∧
    (x.v < len → fmt = 2 → steBytes x2 vs x = leBytes 2 (fmtBf16.round mode x.num)) ∧
    (x.v < len → fmt = 3 → steBytes x2 vs x = [BitVec.ofNat 8 (fmtE4m3.round mode x.num)]) ∧
    (x.v < len → fmt = 4 → steBytes x2 vs x = [BitVec.ofNat 8 (fmtE5m2.round mode x.num)]) ∧
    (x.v < len → fmt = 12 → steBytes x2 vs x = [BitVec.ofInt 8 (clampInt mode (-128) 127 x.num)]) ∧
    (5 ≤ fmt → fmt ≤ 11 → steBytes x2 vs x = if x.dst.sub = 0 then bfpBytes (13 - fmt) (pteSr x.dst.pte) (blockNums vs x) else [])

/-- R147: the values of an STE issue: STE.F32 supplies D for element e, as value m of the sequence; STE.BF16X2 both halves, widened, for e and e + 1, as
values 2m and 2m + 1. A half that is a NaN is the canonical NaN as f32 (R103), which an F32 page stores. -/
def Sys2Proof.Spec.StoredValues : Prop :=
  ∀ (x2 more : Bool) (f : FmtA) (s : State) (es : List Env), ∀ x ∈ (s.steAll x2 f more es).vals, x.env ∈ es ∧
    x.num = f32 x.bits ∧ x.keys.length = x.dst.n ∧
    (x2 = false → x.v = x.env.m ∧ x.bits = x.env.d f.d ∧ x.dst = elemAt x.dst.pte (x.env.pair f.a) (x.env.b f).toNat) ∧
    (x2 = true → ∃ h, h < 2 ∧ x.v = 2 * x.env.m + h ∧
      (let half := (x.env.d f.d).extractLsb' (16 * h) 16
       x.bits = if half.extractLsb' 7 8 = 255 ∧ half.extractLsb' 0 7 ≠ 0 then 0x7FC00000 else half ++ 0#16) ∧
      x.dst = elemAt x.dst.pte (x.env.pair f.a) ((x.env.b f).toNat + h))

/-- The cells that a participant's values store. -/
def Sys2Proof.Spec.steCells (x2 : Bool) (vs : List SteVal) (m : Nat) : List (Nat × Byte) :=
  (vs.filter (fun x => x.env.m == m)).flatMap (fun x => x.keys.zip (steBytes x2 vs x))

/-- R147, R148, R327: an STE in which no participant faults stores every participant's values, in ascending order; no register changes. In an unprotected
block each participant has the cells of its own values in flight, as one store (log entry 11); the cells of peers of all participants stand among the
stores of the block as one store of the issue (log entry 58). -/
def Sys2Proof.Spec.ElementStores : Prop :=
  ∀ (x2 : Bool) (f : FmtA) s op sh iss rest es,
    let i : Instr := if x2 then .steBf16x2 f else .steF32 f
    let o := s.steAll x2 f false es
    Ready s i op sh iss rest → Quiet iss op sh → Seen s iss es → o.faults = [] →
      (∀ s2, es.foldlM (stePut x2 f o.vals) o.s = some s2 →
        ∃ t, exec i s = .next t ∧ OnlyLanes s2 t iss.lanes ∧
          ∀ l ∈ iss.lanes, ∀ e, Sees s iss l e → t.lane? l = (s2.lane? l).map (stands iss op sh)) ∧
      ((∀ e ∈ es, e.prot = 0 ∧ ∃ r, e.lane = .thr r ∧ NoOtherStores s r ((steCells x2 o.vals e.m).map (fun c => c.1))) →
        (∀ e ∈ es, ∀ e' ∈ es, e.m ≠ e'.m → ∀ c ∈ steCells x2 o.vals e.m, ∀ c' ∈ steCells x2 o.vals e'.m, c.1 ≠ c'.1) →
        NoRequests s (es.flatMap (fun e => (steCells x2 o.vals e.m).map (fun c => c.1))) →
        (∀ e ∈ es, ∀ c ∈ steCells x2 o.vals e.m, c.1 < 3 * 2 ^ 52) →
        ∃ t, exec i s = .next t ∧ (∃ s', OnlyTlbs s s' ∧ OnlyLanes s' t iss.lanes) ∧
          ∀ l ∈ iss.lanes, ∀ e, Sees s iss l e →
            let cells := steCells x2 o.vals e.m
            t.lane? l = some (stands iss op sh { e.th with stq := e.th.stq ++ [⟨cells.map (fun c => c.1), cells.map (fun c => c.2), none⟩] })) ∧
      (∀ blk b, (∀ e ∈ es, e.prot = 0 ∧ e.lane = .thr ⟨blk, e.tid / 32, e.m⟩) → s.block? blk = some b →
        (∀ p ∈ b.out, p.2.peer.map (fun q => q.1) ≠ some (iss.id, iss.idx)) →
        (∀ e ∈ es, steCells x2 o.vals e.m ≠ [] ∧ ∀ c ∈ steCells x2 o.vals e.m, 3 * 2 ^ 52 ≤ c.1) →
        NoRequests s (es.flatMap (fun e => (steCells x2 o.vals e.m).map (fun c => c.1))) →
        let cells := es.flatMap (fun e => steCells x2 o.vals e.m)
        let rs : List TRef := es.map (fun e => ⟨blk, e.tid / 32, e.m⟩)
        ∃ t, exec i s = .next t ∧ t.mem = s.mem ∧ t.scr = s.scr ∧ (∀ l ∈ iss.lanes, ∀ e, Sees s iss l e → t.lane? l = some (stands iss op sh e.th)) ∧
          ∀ b', t.block? blk = some b' → b'.out = b.out ++ [(rs.headD ⟨0, 0, 0⟩, ⟨cells.map (fun c => c.1), cells.map (fun c => c.2),
            some ((iss.id, iss.idx), rs)⟩)])

/-- The blocks of an issue's values on bfp pages are whole: each element of each of them once, and no block on two pages (R148). -/
def Sys2Proof.Spec.wholeBlocks (vs : List SteVal) : Prop :=
  ∀ x ∈ vs, 5 ≤ pteFmt x.dst.pte → pteFmt x.dst.pte ≤ 11 →
    let size := leafSize (pteKind (x.ptes.headD 0))
    x.dst.va.toNat / size = (x.dst.va.toNat + x.dst.n - 1) / size ∧
    ∀ i, i < geoElems (pteGeo x.dst.pte) →
      vs.countP (fun y => decide (5 ≤ pteFmt y.dst.pte) && decide (pteFmt y.dst.pte ≤ 11) && y.keys == x.keys && y.dst.sub == i) = 1

/-- R148: where every participant's elements pass their checks and the blocks are not whole, the STE raises partial block (0x0A) in every participant with an
element on a bfp page; the others remain at the clause, and nothing is stored. -/
def Sys2Proof.Spec.PartialBlocks : Prop :=
  ∀ (x2 : Bool) (f : FmtA) s op sh iss rest es,
    let i : Instr := if x2 then .steBf16x2 f else .steF32 f
    let o := s.steAll x2 f false es
    let bfp (x : SteVal) : Prop := 5 ≤ pteFmt x.dst.pte ∧ pteFmt x.dst.pte ≤ 11
    Ready s i op sh iss rest → Seen s iss es → o.vals.length = (if x2 then 2 else 1) * es.length → ¬ wholeBlocks o.vals →
    (∀ x ∈ o.vals, s.unheld x.env.ctx x.env.blk x.dst.va x.dst.n = false) → (∀ r b, .thr r ∈ iss.lanes → s.block? r.blk = some b → b.kind = .kernel ∨ b.kind = .task) →
      ∃ t, exec i s = .next t ∧ t.mem = s.mem ∧ t.scr = s.scr ∧ (∀ k, (t.block? k).map (fun b => (b.held, b.out)) = (s.block? k).map (fun b => (b.held, b.out))) ∧
        ∀ l ∈ iss.lanes, ∀ e, Sees s iss l e → ∃ th, t.lane? l = some th ∧ th.stq = e.th.stq ∧ th.w = e.th.w ∧
          ((∃ x ∈ o.vals, x.env.m = e.m ∧ bfp x) → th.pc = iss.pc ∧ ∃ st, th.stop = some st ∧ st.cause = 0x0A ∧ st.idx = iss.idx) ∧
          ((∀ x ∈ o.vals, x.env.m = e.m → ¬ bfp x) → th.stop = e.th.stop ∧ th.pc = e.th.pc ∧ th.cont = if iss.idx = 1 then 0 else iss.idx)

/-- R149: a scratchpad load owes the bytes at its offset in the core's scratchpad; a misaligned offset raises 0x06 and one outside the block's region
0x08. A scratchpad store writes exactly the bytes at its offset, and none of memory. -/
def Sys2Proof.Spec.Scratchpads : Prop :=
  (∀ i f n, ldsOf i = some (f, n) → ∀ s op sh iss rest l e, Alone s i op sh iss rest l e →
    let off := (offOf e f n).toNat
    let inside := e.scrBase ≤ off ∧ off + n ≤ e.scrBase + e.scrSize
    let keys := (List.range n).map (fun k => e.core * 262144 + off + k)
    (off % n = 0 → inside → s.scrBad keys = false →
      ∃ th, owes e (toDm f (loaded n false (keys.map s.scr.byte))) th ∧ Completes i s op sh iss l e s th) ∧
    (off % n = 0 → inside → s.scrBad keys = true → FaultsAt i s iss rest e s (.of 0x10)) ∧
    (off % n ≠ 0 → FaultsAt i s iss rest e s (.of 0x06)) ∧
    (off % n = 0 → ¬ inside → FaultsAt i s iss rest e s (.of 0x08))) ∧
  (∀ i f n, stsOf i = some (f, n) → ∀ s op sh iss rest r e, Alone s i op sh iss rest (.thr r) e → e.prot = 0 →
    let off := (offOf e f n).toNat
    let inside := e.scrBase ≤ off ∧ off + n ≤ e.scrBase + e.scrSize
    (off % n = 0 → inside →
      ∃ t, exec i s = .next t ∧ t.mem = s.mem ∧ t.lane? (.thr r) = some (stands iss op sh (e.th.trailAdd (s.trailOf e op sh))) ∧
        (∀ k, k < n → t.scr.byte (e.core * 262144 + off + k) = dByte e f.d k) ∧
        ScrKept s t ((List.range n).map (fun k => e.core * 262144 + off + k)) ∧
        OnlyLanes { s with scr := t.scr, poison := t.poison } t [.thr r]) ∧
    (off % n ≠ 0 → FaultsAt i s iss rest e s { FInfo.of 0x06 with wr := true }) ∧
    (off % n = 0 → ¬ inside → FaultsAt i s iss rest e s { FInfo.of 0x08 with wr := true }))

/-- R151 to R153: a sharing group's slot is joined once, by one block; the words of a member's region are reached by its slot; leaving unmaps it. -/
def Sys2Proof.Spec.SharingGroups : Prop :=
  (∀ (f : FmtA) s op sh iss rest es e0 b, Ready s (.gjoin f) op sh iss rest → Quiet iss op sh → Seen s iss es → es.head? = some e0 → e0.prot = 0 →
    s.block? e0.blk = some b →
    let key := e0.a f
    let slot := (e0.b f).toNat
    (slot ≤ 15 → b.group = some (key, slot) → DoesOnce (.gjoin f) s s op sh iss (toDp f true)) ∧
    (slot ≤ 15 → b.group ≠ some (key, slot) → (b.group ≠ none ∨ s.member b key slot ≠ none) → DoesOnce (.gjoin f) s s op sh iss (toDp f false)) ∧
    (slot ≤ 15 → b.group = none → s.member b key slot = none →
      DoesOnce (.gjoin f) s (s.updBlock e0.blk (fun b => { b with group := some (key, slot) })) op sh iss (toDp f true))) ∧
  (∀ (f : FmtA) s op sh iss rest l e, Alone s (.gjoin f) op sh iss rest l e → 15 < (e.b f).toNat → FaultsAt (.gjoin f) s iss rest e s (.of 0x03)) ∧
  (∀ (f : FmtA) s op sh iss rest es e0, Ready s (.gleave f) op sh iss rest → Quiet iss op sh → Seen s iss es → es.head? = some e0 → e0.prot = 0 →
    DoesOnce (.gleave f) s (s.updBlock e0.blk (fun b => { b with group := if b.group.map (fun g => g.1) = some (e0.a f) then none else b.group })) op sh iss []) ∧
  (∀ (f : FmtM) s op sh iss rest l e core o, Alone s (.ldc32 f) op sh iss rest l e → s.clusterWord e (offOf e f 4) false = .ok (core, o) →
    s.scrBad ((List.range 4).map (fun k => core * 262144 + o + k)) = false →
    ∃ th, owes e (toDm f [s.scrWord core o]) th ∧ Completes (.ldc32 f) s op sh iss l e s th) ∧
  (∀ (f : FmtM) s op sh iss rest l e core o, Alone s (.stc32 f) op sh iss rest l e → e.prot = 0 → s.clusterWord e (offOf e f 4) true = .ok (core, o) →
    ∃ t, exec (.stc32 f) s = .next t ∧ t.mem = s.mem ∧ t.lane? l = some (stands iss op sh e.th) ∧ t.scrWord core o = e.d f.d ∧
      ScrKept s t ((List.range 4).map (fun k => core * 262144 + o + k)) ∧ OnlyLanes { s with scr := t.scr, poison := t.poison } t [l]) ∧
  (∀ (f : FmtM) s op sh iss rest l e x, Alone s (.ldc32 f) op sh iss rest l e → s.clusterWord e (offOf e f 4) false = .error x →
    FaultsAt (.ldc32 f) s iss rest e s x) ∧
  (∀ (f : FmtM) s op sh iss rest l e x, Alone s (.stc32 f) op sh iss rest l e → s.clusterWord e (offOf e f 4) true = .error x →
    FaultsAt (.stc32 f) s iss rest e s x)

/-- R152: a cluster offset names slot [21:18] of the block's group and byte [17:0] of that member's region: misaligned 0x06, a bit above 21 or a byte
outside the region 0x08, no membership or no member there 0x1C. That the bits above 21 are looked at first, then the member, then its region is the
model's choice (log entry 16). -/
def Sys2Proof.Spec.ClusterOffsets : Prop :=
  ∀ (s : State) (e : Env) (off : Word) (wr : Bool) b, s.block? (s.holder e.blk) = some b →
    let slot := off.toNat / 2 ^ 18 % 16
    let byte := off.toNat % 2 ^ 18
    let bad (c : Nat) : FInfo := { FInfo.of c with wr := wr }
    (off.toNat % 4 ≠ 0 → s.clusterWord e off wr = .error (bad 0x06)) ∧
    (off.toNat % 4 = 0 → 2 ^ 22 ≤ off.toNat → s.clusterWord e off wr = .error (bad 0x08)) ∧
    (off.toNat % 4 = 0 → off.toNat < 2 ^ 22 →
      (b.group = none → s.clusterWord e off wr = .error (bad 0x1C)) ∧
      (∀ key own, b.group = some (key, own) →
        (s.member b key slot = none → s.clusterWord e off wr = .error (bad 0x1C)) ∧
        (∀ k, s.member b key slot = some k →
          (byte + 4 ≤ k.scrSize → s.clusterWord e off wr = .ok (k.core, k.scrBase + byte)) ∧
          (k.scrSize < byte + 4 → s.clusterWord e off wr = .error (bad 0x08)))))

/-- R155 to R157: SILOST owes the refresh status of a Silo address and 0 elsewhere; SILOWAIT goes on at once at any other place and where the group's next
window is far enough, and else holds its thread; a gap above 6,280 raises 0x03, an address without a translation 0x07. -/
def Sys2Proof.Spec.Silos : Prop :=
  ∀ (f : FmtA) s iss rest l e s1 (key : Nat) (keys : List Nat) (pte : DWord), keys.headD 0 = key →
    let va := e.pair f.a
    let a := s.access e.core e.ctx e.blk ⟨.read, false, fmtAny, true⟩ 1 va 1
    let pa : Nat := key - 2 ^ 52
    let g : Nat := pa / 2 ^ 12 % 64
    let timer : Nat := s.siloTimer (pa / 2 ^ 31 % 4)
    let now : Int := ((timer : Int) - 1000 * (g : Int)) % 64000
    let gap := (e.b f).toNat
    (∀ op sh, Alone s (.silost f) op sh iss rest l e → a = (s1, .ok (keys, [pte])) →
      (pteLoc pte ≠ 1 → ∃ th, owes e (toD f [0]) th ∧ Completes (.silost f) s op sh iss l e s1 th) ∧
      (pteLoc pte = 1 → now < 1200 → ∃ th, owes e (toD f [BitVec.ofInt 32 (1 + 2 * ((1200 - now) / 10) + 2 ^ 14 * g)]) th ∧
        Completes (.silost f) s op sh iss l e s1 th) ∧
      (pteLoc pte = 1 → 1200 ≤ now → ∃ th, owes e (toD f [BitVec.ofInt 32 (2 * ((64000 - now) / 10) + 2 ^ 14 * g)]) th ∧
        Completes (.silost f) s op sh iss l e s1 th)) ∧
    (∀ op sh, Alone s (.silowait f) op sh iss rest l e →
      (6280 < gap → FaultsAt (.silowait f) s iss rest e s (.of 0x03)) ∧
      let spoilt := s.tlbHit e.core e.ctx va = none ∧ s.walkBad e.ctx va = true
      (gap ≤ 6280 → spoilt → FaultsAt (.silowait f) s iss rest e s (.acc 0x10 va .read)) ∧
      (gap ≤ 6280 → ¬ spoilt → s.translate e.core e.ctx va = (s1, none) → FaultsAt (.silowait f) s iss rest e s1 (.acc 0x07 va .read)) ∧
      (gap ≤ 6280 → ¬ spoilt → s.translate e.core e.ctx va = (s1, some (key, pte)) →
        (pteLoc pte ≠ 1 ∨ (1200 ≤ now ∧ 10 * (gap : Int) ≤ 64000 - now) → Completes (.silowait f) s op sh iss l e s1 e.th) ∧
        (pteLoc pte = 1 → now < 1200 ∨ 64000 - now < 10 * (gap : Int) → Holds (.silowait f) s op sh iss l s1 (.silowait pa gap))))

/-- R159: SPILL writes exactly 16 bytes of its block's loft area, and FILL owes them; an offset that is no multiple of 16 raises 0x06, one outside
the area 0x08. -/
def Sys2Proof.Spec.LoftArea : Prop :=
  ∀ (f : FmtM) s iss rest r e b, s.block? r.blk = some b → b.prot = 0 →
    let off := (offOf e f 16).toNat
    (∀ op sh, Alone s (.spill f) op sh iss rest (.thr r) e →
      (off % 16 = 0 → off + 16 ≤ b.loftSize → ∃ t b', exec (.spill f) s = .next t ∧ t.mem = s.mem ∧ t.scr = s.scr ∧
        t.lane? (.thr r) = some (stands iss op sh e.th) ∧ t.block? r.blk = some b' ∧ (∀ k, k < 16 → b'.loft.byte (off + k) = dByte e f.d k) ∧
        (∀ k, k < off ∨ off + 16 ≤ k → b'.loft.byte k = b.loft.byte k)) ∧
      (off % 16 ≠ 0 → FaultsAt (.spill f) s iss rest e s { FInfo.of 0x06 with wr := true }) ∧
      (off % 16 = 0 → b.loftSize < off + 16 → FaultsAt (.spill f) s iss rest e s { FInfo.of 0x08 with wr := true })) ∧
    (∀ op sh, Alone s (.fill f) op sh iss rest (.thr r) e →
      (off % 16 = 0 → off + 16 ≤ b.loftSize → s.memBad (loftKeys r.blk off) = false →
        ∃ th, owes e (toDm f (loaded 16 false (b.loft.bytes off 16))) th ∧ Completes (.fill f) s op sh iss (.thr r) e s th) ∧
      (off % 16 ≠ 0 → FaultsAt (.fill f) s iss rest e s (.of 0x06)) ∧
      (off % 16 = 0 → b.loftSize < off + 16 → FaultsAt (.fill f) s iss rest e s (.of 0x08)))

/-- R161: PREF raises no fault and changes no value; the translation it makes may fill a TLB. -/
def Sys2Proof.Spec.PrefetchIsSilent : Prop :=
  ∀ (f : FmtM) s op sh iss rest l e, Alone s (.pref f) op sh iss rest l e →
    ∃ s1, OnlyTlbs s s1 ∧ Completes (.pref f) s op sh iss l e s1 e.th

/-- R162, R164, R167: EPUT stages a 64-bit word; EGO numbers its command, puts it into its cluster's queue and owes the number to D, D + 1, once the
thread's earlier operations are performed; with the queue full it holds its thread; EPOLL owes the state of a numbered command. -/
def Sys2Proof.Spec.Ports : Prop :=
  (∀ f, Does (.eput f) (fun _ => True) (fun _ e th => th = { e.th with stage := e.th.stage.setIfInBounds (f.d.toNat % 4) (e.pair f.a) })) ∧
  (∀ (f : FmtA) s op sh iss rest r e, Alone s (.ego f) op sh iss rest (.thr r) e → e.prot = 0 →
    let w := e.th.stage
    let c := e.core / 4
    let s1 := s.settle r
    (∀ x, egoFault e w[0] w[1] w[2] w[3] = some x → FaultsAt (.ego f) s iss rest e s x) ∧
    (e.core < 1024 → egoFault e w[0] w[1] w[2] w[3] = none → (s1.cluster c).ceQ.length < 8 →
      let n := ((s1.cluster c).tl 0).issued + 1
      ∃ t base th, exec (.ego f) s = .next t ∧ s1.lane? (.thr r) = some base ∧ owesFrom base e (toD f [BitVec.ofNat 32 n, BitVec.ofNat 32 (n / 2 ^ 32)]) th ∧
        t.lane? (.thr r) = some (stands iss op sh (th.trailAdd (s.trailOf e op sh))) ∧ t.mem = s1.mem ∧ t.scr = s1.scr ∧
        (t.cluster c).ceQ = (s1.cluster c).ceQ ++ [⟨n, e.ctx, e.core, r, w[0], w[1], w[2], w[3], none⟩] ∧
        ((t.cluster c).tl 0) = { (s1.cluster c).tl 0 with issued := n } ∧ (∀ k, k ≠ c → t.cluster k = s1.cluster k)) ∧
    (e.core < 1024 → egoFault e w[0] w[1] w[2] w[3] = none → 8 ≤ (s1.cluster c).ceQ.length →
      Holds (.ego f) s op sh iss (.thr r) s1 (.engine ⟨0, 0, 0, [], f.d.toNat, e.slot, f.wbs⟩))) ∧
  (∀ (f : FmtA) s op sh iss rest l e, Alone s (.epoll f) op sh iss rest l e →
    let n := (e.pair f.a).toNat
    let c := s.cluster (s.numCluster e.blk 0 n)
    let st := Tab.get ⟨0, 0, false⟩ c.ceStat n
    let v : Word := if n = 0 ∨ (c.tl 0).issued < n then 256 else if n + 256 ≤ (c.tl 0).issued then 2
      else BitVec.ofNat 32 (st.state + 4 * st.cause + if st.ovf then 512 else 0)
    ∃ th, owes e (toD f [v]) th ∧ Completes (.epoll f) s op sh iss l e s th)

/-- R164: what EGO refuses, in the order protocol (0x15), then a range or a sync word outside the block's region (0x08). -/
def Sys2Proof.Spec.EngineProtocol : Prop :=
  ∀ (e : Env) (w0 w1 w2 w3 : DWord),
    let op := (w3.extractLsb' 0 2).toNat
    let len := (w2.extractLsb' 0 16).toNat
    let rows := (w2.extractLsb' 16 16).toNat
    let row := if op = 1 then 2 * len else len
    let kind (w : DWord) := (w.extractLsb' 56 2).toNat
    let reserved (w : DWord) : Prop := w.extractLsb' 52 4 ≠ 0 ∨ w.extractLsb' 58 6 ≠ 0 ∨ kind w = 3
    let outside (a n : Nat) : Prop := a < e.scrBase ∨ e.scrBase + e.scrSize < a + n
    let protocol : Prop := reserved w0 ∨ reserved w1 ∨ w3.extractLsb' 5 3 ≠ 0 ∨ w3.extractLsb' 22 42 ≠ 0 ∨ 2 ≤ op ∨ len = 0 ∨ rows = 0 ∨
      (op = 1 ∧ kind w0 ≠ 0) ∨ (w3.getLsbD 2 = true ∧ (kind w1 ≠ 0 ∨ 65536 < rows * row)) ∨ (w3.getLsbD 3 = true ∧ kind w0 ≠ 0)
    let region : Prop := (kind w0 = 1 ∧ outside (w0.extractLsb' 0 52).toNat (16 * (w2.extractLsb' 32 16).toNat * (rows - 1) + len)) ∨
      (kind w1 = 1 ∧ outside (w1.extractLsb' 0 52).toNat (16 * (w2.extractLsb' 48 16).toNat * (rows - 1) + row)) ∨
      (w3.getLsbD 4 = true ∧ outside (16 * (w3.extractLsb' 8 14).toNat) 16)
    (protocol → egoFault e w0 w1 w2 w3 = some (.of 0x15)) ∧ (¬ protocol → region → egoFault e w0 w1 w2 w3 = some (.of 0x08)) ∧
      (¬ protocol → ¬ region → egoFault e w0 w1 w2 w3 = none)

/-- R168: ALLOC gives the next place of its warp's heap slice that holds the size rounded up to 16 bytes, or 0 where it does not fit; FREE of a live
allocation gives back that one and every later one, and any other address does nothing. Neither touches memory. -/
def Sys2Proof.Spec.Allocations : Prop :=
  ∀ (f : FmtA) s iss rest r e b w, s.block? r.blk = some b → b.warps[r.wp]? = some w →
    let z := ((e.a f).toNat + 15) / 16 * 16
    let slice (k : Nat) : DWord := BitVec.ofNat 64 (b.heap.toNat + (b.idx * 8 + r.wp) * b.quota + k)
    (∀ op sh, Alone s (.alloc f) op sh iss rest (.thr r) e →
      (z = 0 ∨ b.quota < w.heapOff + z → ∃ th, owes e (toD f [0, 0]) th ∧ Completes (.alloc f) s op sh iss (.thr r) e s th) ∧
      (z ≠ 0 → w.heapOff + z ≤ b.quota → ∃ th,
        owes e (toD f [(slice w.heapOff).extractLsb' 0 32, (slice w.heapOff).extractLsb' 32 32]) th ∧
        Completes (.alloc f) s op sh iss (.thr r) e
          (s.updBlock r.blk (fun b => b.updWarp r.wp (fun w => { w with heapOff := w.heapOff + z, allocs := w.heapOff :: w.allocs }))) th)) ∧
    (∀ op sh, Alone s (.free f) op sh iss rest (.thr r) e →
      (∀ o, o ∈ w.allocs → e.pair f.a = slice o → o < 2 ^ 64 → Completes (.free f) s op sh iss (.thr r) e
        (s.updBlock r.blk (fun b => b.updWarp r.wp (fun w => { w with heapOff := o, allocs := w.allocs.filter (fun x => decide (x < o)) }))) e.th) ∧
      ((∀ o ∈ w.allocs, e.pair f.a ≠ slice o) → Completes (.free f) s op sh iss (.thr r) e s e.th))

namespace Sys2Proof.Spec

/-! ## Synchronisation (R170 to R199) -/

/-- Table 6-3: the ATOM forms: the operation, the operand words from D on, and the words returned. -/
def atomOf : Instr → Option (FmtM × AtomOp × Nat × Nat)
  | .atomAdd f => some (f, .add, 1, 1) | .atomMaxI f => some (f, .maxI, 1, 1) | .atomMinI f => some (f, .minI, 1, 1)
  | .atomExch f => some (f, .exch, 1, 1) | .atomCas f => some (f, .cas, 2, 1) | .atomOr f => some (f, .or, 1, 1)
  | .atomAnd f => some (f, .and, 1, 1) | .atomFadd2 f => some (f, .fadd2, 1, 1) | .atomAdd64 f => some (f, .add64, 2, 2)
  | .atomCas64 f => some (f, .cas64, 4, 2) | .atomExch64 f => some (f, .exch64, 2, 2)
  | _ => none

/-- Bytes of an ATOM's location. -/
def atomSize (r : Nat) : Nat := 4 * r

/-- R186, R187: the bin instructions: the request, the access it asks for, and its operand words. -/
def binOf : Instr → Option (FmtM × ReqKind × Want × Nat)
  | .redxF f => some (f, .redxF, ⟨.write, true, fmtBin true, true⟩, 1)
  | .redxI f => some (f, .redxI, ⟨.write, true, fmtBin false, true⟩, 1)
  | .binclr f => some (f, .binclr, ⟨.write, true, fmtBin false, true⟩, 0)
  | _ => none

/-- Every request that waits at an owner was made before: one of its parts has a tag given out already. -/
def TagsOld (s : State) : Prop := ∀ p ∈ s.clusters, ∀ r ∈ p.2.atomQ, ∃ q ∈ r.parts, q.tag ≤ s.tags

/-- The thread has no store that only it sees to these keys. -/
def NoOwnStores (th : Thread) (keys : List Nat) : Prop := ∀ o ∈ th.stq, ∀ k ∈ o.keys, k ∉ keys

/-- Table 6-3: the value an ATOM of one participant leaves, from the old value and the operand, both as the width's unsigned number. -/
def atomNew (op : AtomOp) (old : Nat) (x : List Word) : Option Nat :=
  let d := x.getD 0 0
  let d1 := x.getD 1 0
  match op with
  | .add => some ((old + d.toNat) % 2 ^ 32)
  | .maxI => some (if (BitVec.ofNat 32 old).toInt < d.toInt then d.toNat else old)
  | .minI => some (if d.toInt < (BitVec.ofNat 32 old).toInt then d.toNat else old)
  | .exch => some d.toNat
  | .cas => some (if old = d.toNat then d1.toNat else old)
  | .or => some (old ||| d.toNat)
  | .and => some (old &&& d.toNat)
  | .fadd2 => none
  | .add64 => some ((old + (d1 ++ d).toNat) % 2 ^ 64)
  | .cas64 => some (if old = (d1 ++ d).toNat then (x.getD 3 0 ++ x.getD 2 0).toNat else old)
  | .exch64 => some (d1 ++ d).toNat

/-- Table 6-4: the fields of a barrier object in its two words. -/
structure BarWords (lo hi : Word) (o : BarObj) : Prop where
  exp  : o.exp = lo.toNat % 2 ^ 16
  arr  : o.arr = lo.toNat / 2 ^ 16
  ph   : o.ph = hi.getLsbD 0
  pend : o.pend = (hi.extractLsb' 1 15).toInt
  top  : o.top = hi.toNat / 2 ^ 16

/-- The memory operations of the participants performed, of one after another (Table 6-9). -/
def settledBy (s : State) (es : List Env) : State := es.foldl (fun s e => match e.lane with | .thr t => s.settle t | .tile _ => s) s

/-- R189, R190: the three arrivals. -/
def arrivesBy : Instr → Option (FmtA × ArrMode)
  | .arrive f => some (f, .arrive) | .arriveDrop f => some (f, .drop) | .arriveJoin f => some (f, .join)
  | _ => none

end Sys2Proof.Spec

/-- R173, R175: an acquire of a sync object, once per issue. A block that holds it already, in a mode that suffices, goes on; an object that is free for
the mode, with no waiter before, is taken at once and shows its holders; else the block waits in order of arrival and its participants are held. A
block that holds it shared and asks for it exclusively raises operand (0x03). -/
def Sys2Proof.Spec.Acquires : Prop :=
  ∀ (excl : Bool) (f : FmtA) s op sh iss rest es e0 s1 obj,
    let i : Instr := if excl then .acqX f else .acqS f
    Ready s i op sh iss rest → Quiet iss op sh → Seen s iss es → es.head? = some e0 → e0.prot = 0 →
    s.syncObj e0 (e0.pair f.a) = (s1, .ok obj) →
    let b := s1.holder e0.blk
    let hs := (s1.sync obj).1
    let ws := (s1.sync obj).2
    let has := (b, true) ∈ hs ∨ (excl = false ∧ (b, false) ∈ hs)
    let free := ws = [] ∧ (if excl then hs = [] else (∀ h ∈ hs, h.2 = false) ∧ hs.length < 65535)
    (has → DoesOnce i s s1 op sh iss []) ∧
    (¬ has → excl = true → (b, false) ∈ hs → ∀ l, iss.lanes = [l] → FaultsAt i s iss rest e0 s1 (.of 0x03)) ∧
    (¬ has → (b, false) ∉ hs → free → DoesOnce i s ((s1.setSync obj (hs ++ [(b, excl)]) []).writeHolders obj) op sh iss []) ∧
    (¬ has → (b, false) ∉ hs → ¬ free → ∃ t, exec i s = .next t ∧
      OnlyLanes (s1.setSync obj hs (if (b, excl) ∈ ws then ws else ws ++ [(b, excl)])) t iss.lanes ∧
      ∀ l ∈ iss.lanes, ∀ e, Sees s iss l e → t.lane? l = some (heldAt iss op sh e.th (.acq obj excl)))

/-- R176 to R178, R201: ACQTRY.X takes a free object or tells that it did not; REL and UNBIND first perform the memory operations of every participant
(Table 6-9), and an exclusive REL those of the whole block (R177); UNBIND frees the object's region. Each runs once per issue; REL and UNBIND without the object
held raise operand (0x03). -/
def Sys2Proof.Spec.SyncObjectsAre : Prop :=
  (∀ (f : FmtA) s iss rest es e0 s1 obj op sh, Seen s iss es → es.head? = some e0 → e0.prot = 0 → s.syncObj e0 (e0.pair f.a) = (s1, .ok obj) →
    let b := s1.holder e0.blk
    let hs := (s1.sync obj).1
    Ready s (.acqtryX f) op sh iss rest → Quiet iss op sh →
      ((b, true) ∈ hs → DoesOnce (.acqtryX f) s s1 op sh iss (toDp f true)) ∧
      ((b, true) ∉ hs → hs = [] → (s1.sync obj).2 = [] →
        DoesOnce (.acqtryX f) s ((s1.setSync obj [(b, true)] []).writeHolders obj) op sh iss (toDp f true)) ∧
      ((b, true) ∉ hs → (hs ≠ [] ∨ (s1.sync obj).2 ≠ []) → DoesOnce (.acqtryX f) s s1 op sh iss (toDp f false))) ∧
  (∀ (f : FmtA) s iss rest es e0 s1 obj, Seen s iss es → es.head? = some e0 → e0.prot = 0 →
    (settledBy s es).syncObj e0 (e0.pair f.a) = (s1, .ok obj) →
    let b := s1.holder e0.blk
    let hs := (s1.sync obj).1
    (∀ op sh, Ready s (.rel f) op sh iss rest → Quiet iss op sh →
      ((b, true) ∈ hs → DoesOnce (.rel f) s ((s1.settleBlock e0.blk).releaseObj e0.blk obj) op sh iss []) ∧
      ((b, true) ∉ hs → (b, false) ∈ hs → DoesOnce (.rel f) s (s1.releaseObj e0.blk obj) op sh iss []) ∧
      ((∀ h ∈ hs, h.1 ≠ b) → ∀ l, iss.lanes = [l] → FaultsAt (.rel f) s iss rest e0 s1 (.of 0x03))) ∧
    (∀ op sh, Ready s (.unbind f) op sh iss rest → Quiet iss op sh →
      ((b, true) ∈ hs →
        let v := s1.objBits obj
        DoesOnce (.unbind f) s ((s1.updCtx e0.ctx (fun c => { c with bound := c.bound.filter (fun r => r.1 != obj) })).setObjBits obj
          (0#64 ++ v.extractLsb' 18 46 ++ 0#1 ++ v.extractLsb' 0 17)) op sh iss []) ∧
      ((b, true) ∉ hs → ∀ l, iss.lanes = [l] → FaultsAt (.unbind f) s iss rest e0 s1 (.of 0x03))))

/-- R174: BIND of a region of whole 128-byte lines below 64 MiB that touches no SYNC page: it writes its predicate with 1 and binds the region, or with 0
where the object is bound already, the region overlaps one that is bound, or 4,096 are; a region that breaks the rule raises operand (0x03), which is
checked before the access of the object (log entry 3). -/
def Sys2Proof.Spec.Binds : Prop :=
  ∀ (f : FmtA) s op sh iss rest es e0 c, Ready s (.bind f) op sh iss rest → Quiet iss op sh → Seen s iss es → es.head? = some e0 → e0.prot = 0 →
    Tab.find s.ctxs e0.ctx = some c →
    let base := (e0.pair f.b).toNat
    let len := (e0.reg (f.b.toNat + 2)).toNat
    let legal := base % 128 = 0 ∧ len ≠ 0 ∧ len % 128 = 0 ∧ len < 2 ^ 26 ∧ touchesSync s.mem c.root (e0.pair f.b) len = false
    (¬ legal → ∀ l, iss.lanes = [l] → FaultsAt (.bind f) s iss rest e0 s (.of 0x03)) ∧
    (∀ s1 obj, legal → s.syncObj e0 (e0.pair f.a) = (s1, .ok obj) →
      let v := s1.objBits obj
      let taken := v.getLsbD 17 = true ∨ (∃ r ∈ c.bound, overlaps r.2.1 r.2.2 base len = true) ∨ 4096 ≤ c.bound.length
      (taken → DoesOnce (.bind f) s s1 op sh iss (toDp f false)) ∧
      (¬ taken → DoesOnce (.bind f) s ((s1.updCtx e0.ctx (fun c => { c with bound := c.bound ++ [(obj, base, len)] })).setObjBits obj
        (BitVec.ofNat 19 (len / 128) ++ BitVec.ofNat 45 (base / 128) ++ v.extractLsb' 18 46 ++ 1#1 ++ v.extractLsb' 0 17)) op sh iss (toDp f true)))

/-- R172, R175, R177: what a release does at the object: the block is no holder any more; an exclusive one advances GEN by one modulo 2^32; waiters are
granted in order of arrival, an exclusive one when no holder is left, a shared one while there is no exclusive holder and fewer than 65,535 share, up to
the first that cannot be granted; a shared request of a block that has become the exclusive holder is granted with that and waits no more; SHR and XH
show the holders, and no other bit of the object and no other byte of memory changes. -/
def Sys2Proof.Spec.ReleaseEffect : Prop :=
  ∀ (s : State) blk obj,
    let t := s.releaseObj blk obj
    let b := s.holder blk
    let hs := (s.sync obj).1
    let left := hs.filter (fun h => h.1 != b)
    let now := (t.sync obj).1
    let old := s.objBits obj
    let new := t.objBits obj
    let may (holders : List (Nat × Bool)) (excl : Bool) : Prop :=
      if excl then holders = [] else (∀ h ∈ holders, h.2 = false) ∧ holders.length < 65535
    (∃ given behind, (s.sync obj).2 = given ++ behind ∧ (∀ k w, given[k]? = some w → may (left ++ given.take k) w.2) ∧
      (∀ w, behind.head? = some w → ¬ may (left ++ given) w.2) ∧ now = left ++ given ∧
      (t.sync obj).2 = behind.filter (fun w => w.2 || !now.contains (w.1, true))) ∧
    new.extractLsb' 0 16 = BitVec.ofNat 16 ((now.filter (fun h => !h.2)).length) ∧ new.getLsbD 16 = now.any (fun h => h.2) ∧
    new.extractLsb' 17 15 = old.extractLsb' 17 15 ∧ new.extractLsb' 64 64 = old.extractLsb' 64 64 ∧
    new.extractLsb' 32 32 = old.extractLsb' 32 32 + (if (b, true) ∈ hs then 1 else 0) ∧
    MemKept s t ((List.range 16).map (fun k => obj + k)) ∧ t.blocks = s.blocks ∧ t.scr = s.scr

/-- R181: FENCE of scope 0 to 6 goes on once the thread's earlier operations are performed at that scope, and holds its thread until then; it changes
no register and no memory. Another code raises operand (0x03). A store is performed for its thread at once, in its block once it has left the thread,
and beyond once it has left the block (log entry 11); at scope 6 the M1s that carry bytes of the thread are acknowledged too. -/
def Sys2Proof.Spec.Fences : Prop :=
  ∀ (f : FmtA) s op sh iss rest r e, Alone s (.fence f) op sh iss rest (.thr r) e →
    let scope := (e.a f).toNat
    let done := (scope = 0 ∨ e.th.stq = []) ∧
      (2 < scope → ∀ b, s.block? r.blk = some b → ∀ p ∈ b.out, p.1 ≠ r ∧ ∀ q, p.2.peer = some q → r ∉ q.2) ∧
      (∀ p ∈ s.clusters, ∀ q ∈ p.2.atomQ, ∀ x ∈ q.parts, x.t ≠ r) ∧ (scope = 6 → ∀ p ∈ s.clusters, ∀ d ∈ p.2.m1Due, r ∉ d.1)
    (6 < scope → FaultsAt (.fence f) s iss rest e s (.of 0x03)) ∧
    (scope ≤ 6 → done → Completes (.fence f) s op sh iss (.thr r) e s e.th) ∧
    (scope ≤ 6 → ¬ done → Holds (.fence f) s op sh iss (.thr r) s (.fence scope))

/-- R182 to R184: an ATOM computes its address, and once its access passes, sends one request with its operand to the owner of the address, which is
cluster pa[14:7]; with WBS = 0 its old value is owed to D, not there yet. No memory changes before the owner performs it. With WBS = 1 in a protected
block the operation is held for the commit (shown for the first that an interval holds), and one that its journal has no room for raises 0x19. -/
def Sys2Proof.Spec.AtomicRequests : Prop :=
  ∀ i f a n w, atomOf i = some (f, a, n, w) → ∀ s op sh iss rest r e s1, Alone s i op sh iss rest (.thr r) e → TagsOld s →
    let size := atomSize w
    let acc := s.access e.core e.ctx e.blk ⟨.write, true, fmtRaw, true⟩ size (addrOf e f size) size
    let opnd := (List.range n).map (fun k => e.th.rw (f.d.toNat + k))
    (∀ x, acc = (s1, .error x) → FaultsAt i s iss rest e s1 x) ∧
    (∀ keys pte ptes, acc = (s1, .ok (keys, pte :: ptes)) → s.memBad keys = false → NoOwnStores e.th keys → NoBlockStores s r.blk keys →
      let key := keys.headD 0
      let own := key / 128 % 256
      (f.wbs = false → e.prot = 0 →
        let q : AtomReq := ⟨.atom a, key, pteWin pte, true, [⟨r, s.tags + 1, opnd, addrOf e f size, e.th.atoms + 1⟩]⟩
        Completes i s op sh iss (.thr r) e (s1.updCluster own (fun c => { c with atomQ := c.atomQ ++ [q] }))
          { e.th with atoms := e.th.atoms + 1,
                      owed := e.th.owed ++ [⟨e.slot, s.tags + 1, false, (List.range w).map (fun k => .w (f.d.toNat + k) 0)⟩] }) ∧
      (f.wbs = true → e.prot = 0 →
        let q : AtomReq := ⟨.atom a, key, pteWin pte, false, [⟨r, s.tags + 1, opnd, addrOf e f size, 0⟩]⟩
        Completes i s op sh iss (.thr r) e (s1.updCluster own (fun c => { c with atomQ := c.atomQ ++ [q] })) e.th) ∧
      (∀ b, f.wbs = true → e.prot ≠ 0 → s.block? r.blk = some b → b.held = [] → b.primary = true ∨ b.twin = none → NoRequests s keys →
        let q : AtomReq := ⟨.atom a, key, pteWin pte, false, [⟨r, s.tags + 1, opnd, addrOf e f size, 0⟩]⟩
        let h : HeldOp := ⟨2, 4 * n, e.tid, addrOf e f size, wordsToBytes opnd, .req q⟩
        let k := (4 * n + 7) / 8
        (b.jcount + k ≤ 4096 → Completes i s op sh iss (.thr r) e (s1.updBlock r.blk (fun b => { b with jcount := b.jcount + k, held := [h] })) e.th) ∧
        (4096 < b.jcount + k → FaultsAt i s iss rest e s1 (.of 0x19))))

/-- R186, R187: REDX.F, REDX.I and BINCLR send a request with the page's window to the owner of the bin; BINRD's two words are owed to D, D + 1. -/
def Sys2Proof.Spec.BinRequests : Prop :=
  (∀ i f kind want n, binOf i = some (f, kind, want, n) → ∀ s op sh iss rest r e s1, Alone s i op sh iss rest (.thr r) e → TagsOld s → e.prot = 0 →
    let acc := s.access e.core e.ctx e.blk want 16 (addrOf e f 16) 16
    (∀ x, acc = (s1, .error x) → FaultsAt i s iss rest e s1 x) ∧
    (∀ keys pte ptes, acc = (s1, .ok (keys, pte :: ptes)) → s.memBad keys = false → NoOwnStores e.th keys → NoBlockStores s r.blk keys →
      let q : AtomReq := ⟨kind, keys.headD 0, pteWin pte, false,
        [⟨r, s.tags + 1, (List.range n).map (fun k => e.th.rw (f.d.toNat + k)), addrOf e f 16, 0⟩]⟩
      Completes i s op sh iss (.thr r) e (s1.updCluster (keys.headD 0 / 128 % 256) (fun c => { c with atomQ := c.atomQ ++ [q] })) e.th)) ∧
  (∀ (f : FmtM) s op sh iss rest r e s1, Alone s (.binrd f) op sh iss rest (.thr r) e → TagsOld s → (f.wbs = false ∨ e.slot < 7) →
    let acc := s.access e.core e.ctx e.blk ⟨.read, true, fmtBin true, true⟩ 16 (addrOf e f 16) 16
    (∀ x, acc = (s1, .error x) → FaultsAt (.binrd f) s iss rest e s1 x) ∧
    (∀ keys pte ptes, acc = (s1, .ok (keys, pte :: ptes)) → s.memBad keys = false → NoOwnStores e.th keys → NoBlockStores s r.blk keys →
      let q : AtomReq := ⟨.binrd, keys.headD 0, pteWin pte, !f.wbs, [⟨r, s.tags + 1, [], addrOf e f 16, 0⟩]⟩
      Completes (.binrd f) s op sh iss (.thr r) e (s1.updCluster (keys.headD 0 / 128 % 256) (fun c => { c with atomQ := c.atomQ ++ [q] }))
        { e.th with owed := e.th.owed ++ [⟨e.slot, s.tags + 1, false, toDm f [0, 0]⟩] }))

/-- R171, R199, R200: what a block holds at some bytes can be done ahead of its commit, with nothing held lost: those bytes of memory then read as the
block saw them, and the block sees every byte as before. The owner does it before it performs a request of a thread of the block whose interval can no
longer be taken back (R360), and a BINRD reads what the block has held there (log entry 58). -/
def Sys2Proof.Spec.HeldOrder : Prop :=
  ∀ (s : State) blk b, s.block? blk = some b → b.kind ≠ .pair → (∀ h ∈ b.held, ∀ q, h.act = .req q → q.key % q.kind.size = 0) →
    (∀ keys : List Nat,
      let t := s.heldFirst blk keys
      (∀ k ∈ keys, t.mem.byte k = (s.heldView blk).byte k) ∧ (∀ k, (t.heldView blk).byte k = (s.heldView blk).byte k) ∧
      (∀ k, (∀ h ∈ b.held, k ∉ h.act.keys) → t.mem.byte k = s.mem.byte k) ∧ t.scr = s.scr ∧ t.clusters = s.clusters ∧ t.issues = s.issues) ∧
    (∀ (r : AtomReq) p ps, r.parts = p :: ps → p.t.blk = blk → (∀ q ∈ r.parts, q.nth = 0) →
      let s1 := if b.fixed then s.heldFirst blk ((List.range r.kind.size).map (fun i => r.key + i)) else s
      (r.kind ≠ .binrd → ∀ k, (s.serveReq r).mem.byte k = (serve s1.mem r).1.byte k) ∧
      (r.kind = .binrd → (s.serveReq r).mem = s.mem ∧ ∀ x ∈ (serve (s.heldView blk) r).2, ∀ th th' o, s.thread? x.1 = some th → o ∈ th.owed →
        r.parts.length = 1 → o.tag = x.2.1 → (s.serveReq r).thread? x.1 = some th' →
          { o with ready := true, wr := o.wr.zipIdx.map (fun y => match y.1 with | .w n v => .w n (x.2.2.getD y.2 v) | z => z) } ∈ th'.owed))

/-- R184, R185, Table 6-3: what the owner does with one merged request: its participants' operations in order as one update, whatever the form, each returning
the value it found; ATOM.FADD2 adds each half's exact sum with one rounding, and every participant receives the word as it stood before; REDX adds every operand into the bin; BINCLR empties it; BINRD reads its drain and
its flags. Only the location's bytes change (log entry 82). -/
def Obligations.AtomicEffects : Prop :=
  ∀ (m : Memory) (r : AtomReq),
    let old := leVal (m.bytes r.key r.kind.size)
    (∀ k, (k < r.key ∨ r.key + r.kind.size ≤ k) → (serve m r).1.byte k = m.byte k) ∧
    (∀ op p, r.kind = .atom op → r.parts = [p] → ∀ v, atomNew op old p.opnd = some v →
      leVal ((serve m r).1.bytes r.key r.kind.size) = v ∧
      (serve m r).2 = [(p.t, p.tag, if r.kind.size = 8 then [BitVec.ofNat 32 old, BitVec.ofNat 32 (old / 2 ^ 32)] else [BitVec.ofNat 32 old])]) ∧
    (r.kind = .atom .add → leVal ((serve m r).1.bytes r.key 4) = (old + (r.parts.map (fun p => (p.opnd.getD 0 0).toNat)).sum) % 2 ^ 32 ∧
      ∀ k p, r.parts[k]? = some p → (serve m r).2[k]? = some (p.t, p.tag,
        [BitVec.ofNat 32 (old + ((r.parts.take k).map (fun q => (q.opnd.getD 0 0).toNat)).sum)])) ∧
    (∀ op, r.kind = .atom op → op ≠ .fadd2 → ∃ vs : List Nat, vs.length = r.parts.length + 1 ∧ vs.getD 0 0 = old ∧
      leVal ((serve m r).1.bytes r.key r.kind.size) = vs.getD r.parts.length 0 ∧ (serve m r).2.length = r.parts.length ∧
      ∀ (k : Nat) (p : ReqPart), r.parts[k]? = some p → atomNew op (vs.getD k 0) p.opnd = some (vs.getD (k + 1) 0) ∧ (serve m r).2[k]? = some (p.t, p.tag,
        if r.kind.size = 8 then [BitVec.ofNat 32 (vs.getD k 0), BitVec.ofNat 32 (vs.getD k 0 / 2 ^ 32)] else [BitVec.ofNat 32 (vs.getD k 0)])) ∧
    (r.kind = .atom .fadd2 → (∀ (k : Nat) (p : ReqPart), r.parts[k]? = some p → (serve m r).2[k]? = some (p.t, p.tag, [BitVec.ofNat 32 old])) ∧
      ∃ w : Word, leVal ((serve m r).1.bytes r.key 4) = w.toNat ∧ ∀ h, h < 2 →
      (w.extractLsb' (16 * h) 16).toNat =
        (match NumVal.add false (bf16 (BitVec.ofNat 32 old) h) (r.parts.foldl (fun a p => NumVal.add false a (bf16 (p.opnd.getD 0 0) h)) (.fin false 0 0)) with
         | .fin _ 0 _ => 0
         | v => fmtBf16.round .rn v)) ∧
    (r.kind = .redxF → leVal ((serve m r).1.bytes r.key 16) =
      (r.parts.foldl (fun b p => contribute b r.win (f32 (p.opnd.getD 0 0))) (BitVec.ofNat 128 old)).toNat) ∧
    (r.kind = .redxI → (BitVec.ofNat 120 (leVal ((serve m r).1.bytes r.key 15))).toInt =
        (BitVec.ofInt 120 ((BitVec.ofNat 120 (old % 2 ^ 120)).toInt + (r.parts.map (fun p => (p.opnd.getD 0 0).toInt)).sum)).toInt ∧
      (serve m r).1.byte (r.key + 15) = m.byte (r.key + 15)) ∧
    (r.kind = .binclr → ∀ k, k < 16 → (serve m r).1.byte (r.key + k) = 0) ∧
    (r.kind = .binrd → (serve m r).1 = m ∧ ∀ x ∈ (serve m r).2,
      x.2.2 = [drainF32 (BitVec.ofNat 128 old) r.win, BitVec.ofNat 32 (old / 2 ^ 120)])

/-- R114: what one contribution does to a bin: a NaN, an infinity or an integer of 2^104 or more sets one flag and adds nothing; any other value adds the
integer nearest v / 2^W, ties to even, modulo 2^120, and sets no flag; a zero adds nothing. The product that is one contribution: a NaN with a NaN factor or of
zero and an infinity; an infinity with the product's sign of an infinity and a nonzero value; the exact product of two finite values. -/
def Sys2Proof.Spec.ContributionRule : Prop :=
  ∀ (b : BinBits) (w : Int),
    contribute b w .nan = b ||| (1#128 <<< 120) ∧
    contribute b w (.inf false) = b ||| (1#128 <<< 121) ∧ contribute b w (.inf true) = b ||| (1#128 <<< 122) ∧
    ∀ neg m e, let n := signInt neg (roundMag .rn neg m e w)
      (2 ^ 104 ≤ n.natAbs → contribute b w (.fin neg m e) = b ||| (1#128 <<< 123)) ∧
      (n.natAbs < 2 ^ 104 → (contribute b w (.fin neg m e)).extractLsb' 120 8 = b.extractLsb' 120 8 ∧
        (contribute b w (.fin neg m e)).extractLsb' 0 120 = BitVec.ofInt 120 ((b.extractLsb' 0 120).toInt + n)) ∧
      contribute b w (.fin neg 0 e) = b ∧
      (∀ x, NumVal.mul .nan x = .nan ∧ NumVal.mul x .nan = .nan) ∧
      (∀ inf, (NumVal.mul (.inf inf) (.fin neg 0 e) = .nan ∧ NumVal.mul (.fin neg 0 e) (.inf inf) = .nan) ∧
        (m ≠ 0 → NumVal.mul (.inf inf) (.fin neg m e) = .inf (inf != neg) ∧ NumVal.mul (.fin neg m e) (.inf inf) = .inf (inf != neg)) ∧
        NumVal.mul (.inf inf) (.inf neg) = .inf (inf != neg)) ∧
      (∀ neg2 m2 e2, NumVal.mul (.fin neg m e) (.fin neg2 m2 e2) = .fin (neg != neg2) (m * m2) (e + e2))

/-- R116: what a bin drains to at its window: the canonical NaN for a NaN, for both infinities, and, with OVF reported, for OVF or a value of 2^104 units or more;
an infinity for the one it holds; else its value × 2^W rounded once by rn to f32, or to bf16. -/
def Sys2Proof.Spec.Drains : Prop :=
  ∀ (b : BinBits) (w : Int),
    let nan := b.getLsbD 120
    let pinf := b.getLsbD 121
    let ninf := b.getLsbD 122
    let v := (b.extractLsb' 0 120).toInt
    let spills := b.getLsbD 123 = true ∨ 2 ^ 104 ≤ v.natAbs
    let gives (x : Word) (y : Nat) (ovf : Bool) : Prop := drainF32 b w = x ∧ drainBf16 b w = y ∧ drainOvf b = ovf
    (nan = true ∨ (pinf = true ∧ ninf = true) → gives 0x7FC00000 0x7FC0 false) ∧
    (nan = false → pinf = true → ninf = false → gives 0x7F800000 0x7F80 false) ∧
    (nan = false → pinf = false → ninf = true → gives 0xFF800000 0xFF80 false) ∧
    (nan = false → pinf = false → ninf = false → spills → gives 0x7FC00000 0x7FC0 true) ∧
    (nan = false → pinf = false → ninf = false → ¬ spills →
      gives (once .rn (.fin (decide (v < 0)) v.natAbs w)) (fmtBf16.round .rn (.fin (decide (v < 0)) v.natAbs w)) false)

/-- R115: bins combine in any order and grouping to one value. -/
def Sys2Proof.Spec.BinsCombine : Prop :=
  ∀ a b c : BinBits, a.extractLsb' 124 4 = 0 → b.extractLsb' 124 4 = 0 → c.extractLsb' 124 4 = 0 →
    binCombine a b = binCombine b a ∧ binCombine (binCombine a b) c = binCombine a (binCombine b c)

/-- R188, R189: one arrival at a barrier object. ARRIVE and ARRIVE.DROP need 0 < EXP and ARR < EXP; the arrival that fills the count starts the next
phase: ARR 0, PH inverted, EXP changed by PEND and PEND 0. A count that leaves its field raises operand (0x03) and changes nothing. -/
def Sys2Proof.Spec.BarrierArrival : Prop :=
  ∀ (lo hi : Word) (o : BarObj), BarWords lo hi o →
    barOf lo hi = o ∧ barOf o.lo o.hi = o ∧
    (o.arrive .join = if o.pend + 1 ≤ 16383 then some { o with pend := o.pend + 1 } else none) ∧
    (∀ d : Int, ∀ mode, ((mode = ArrMode.arrive ∧ d = 0) ∨ (mode = ArrMode.drop ∧ d = -1)) →
      (o.exp = 0 ∨ o.exp ≤ o.arr ∨ o.pend + d < -16384 → o.arrive mode = none) ∧
      (o.arr < o.exp → -16384 ≤ o.pend + d →
        (o.arr + 1 < o.exp → o.arrive mode = some { o with arr := o.arr + 1, pend := o.pend + d }) ∧
        (o.arr + 1 = o.exp → 1 ≤ o.exp + (o.pend + d) → o.exp + (o.pend + d) ≤ 65535 →
          o.arrive mode = some { o with arr := 0, ph := !o.ph, exp := (o.exp + (o.pend + d)).toNat, pend := 0 }) ∧
        (o.arr + 1 = o.exp → (o.exp + (o.pend + d) < 1 ∨ 65535 < o.exp + (o.pend + d)) → o.arrive mode = none)))

/-- R189 to R191, R201: the barrier instructions of a thread of an unprotected block, at an object inside its region. An arrival, made after the thread's
earlier operations are performed at block scope (Table 6-8), owes the phase bit it arrived in; BAR then holds the participant on that phase; BARWAIT and
BARTEST compare the phase bit with B[0]. For all of them an offset that is not 8-aligned raises 0x06, an aligned one outside the region 0x08, and an object
that holds an uncorrectable error 0x10, each with no effect; an arrival that leaves its fields raises 0x03. GBAR, after the thread's earlier operations are
performed (Table 6-9), counts and holds in a launch with the grid flag, and raises 0x03 in another. -/
def Sys2Proof.Spec.BarrierWaits : Prop :=
  ∀ (f : FmtA) s iss rest r e, e.prot = 0 →
    let off := (e.a f).toNat
    let placed := off % 8 = 0 ∧ e.scrBase ≤ off ∧ off + 8 ≤ e.scrBase + e.scrSize
    let clean := s.scrBad ((List.range 8).map (fun k => e.core * 262144 + off + k)) = false
    let inside := placed ∧ clean
    let turned (i : Instr) (write : Bool) : Prop :=
      (off % 8 ≠ 0 → FaultsAt i s iss rest e s { FInfo.of 0x06 with wr := write }) ∧
      (off % 8 = 0 → (off < e.scrBase ∨ e.scrBase + e.scrSize < off + 8) → FaultsAt i s iss rest e s { FInfo.of 0x08 with wr := write }) ∧
      (placed → ¬ clean → FaultsAt i s iss rest e s (.of 0x10))
    let o := barOf (s.scrWord e.core off) (s.scrWord e.core (off + 4))
    let ph := (e.b f).getLsbD 0
    (∀ i mode op sh, arrivesBy i = some (f, mode) → Alone s i op sh iss rest (.thr r) e →
      let s1 := if mode = .join then s else s.settleBlk r
      (∀ o', inside → o.arrive mode = some o' → ∃ t base th, exec i s = .next t ∧ s1.lane? (.thr r) = some base ∧
        owesFrom base e (toD f [if o.ph then 1 else 0]) th ∧ t.lane? (.thr r) = some (stands iss op sh (th.trailAdd (s.trailOf e op sh))) ∧
        t.scrWord e.core off = o'.lo ∧ t.scrWord e.core (off + 4) = o'.hi ∧
        ScrKept s1 t ((List.range 8).map (fun k => e.core * 262144 + off + k)) ∧ t.mem = s1.mem) ∧
      (inside → o.arrive mode = none → FaultsAt i s iss rest e s1 (.of 0x03)) ∧
      turned i true) ∧
    (∀ op sh, Alone s (.bar f) op sh iss rest (.thr r) e →
      (∀ o', inside → o.arrive .arrive = some o' → ∃ t base, exec (.bar f) s = .next t ∧ (s.settleBlk r).lane? (.thr r) = some base ∧
        t.lane? (.thr r) = some (heldAt iss op sh base (.bar off o.ph true)) ∧
        t.scrWord e.core off = o'.lo ∧ t.scrWord e.core (off + 4) = o'.hi ∧
        ScrKept (s.settleBlk r) t ((List.range 8).map (fun k => e.core * 262144 + off + k)) ∧ t.mem = (s.settleBlk r).mem) ∧
      (inside → o.arrive .arrive = none → FaultsAt (.bar f) s iss rest e (s.settleBlk r) (.of 0x03)) ∧
      turned (.bar f) true) ∧
    (∀ op sh, Alone s (.barwait f) op sh iss rest (.thr r) e →
      (inside → o.ph ≠ ph → Completes (.barwait f) s op sh iss (.thr r) e s e.th) ∧
      (inside → o.ph = ph → Holds (.barwait f) s op sh iss (.thr r) s (.bar off ph false)) ∧
      turned (.barwait f) false) ∧
    (∀ op sh, Alone s (.bartest f) op sh iss rest (.thr r) e →
      (inside → ∃ th, owes e (toDp f (o.ph != ph)) th ∧ Completes (.bartest f) s op sh iss (.thr r) e s th) ∧
      turned (.bartest f) false) ∧
    (∀ op sh b, Alone s (.gbar f) op sh iss rest (.thr r) e → s.block? r.blk = some b →
      (b.grid = true → Holds (.gbar f) s op sh iss (.thr r) ((s.settle r).updThread r (fun th => { th with gbars := e.th.gbars + 1 })) (.gbar (e.th.gbars + 1))) ∧
      (b.grid = false → FaultsAt (.gbar f) s iss rest e s (.of 0x03)))

/-- R192: SWARM sets a sync word's target to B and its count to 0 and owes the generation; SWWAIT and SWTEST compare the generation with B. For all three
an offset that is not 16-aligned raises 0x06, an aligned one outside the region 0x08, and a word that holds an uncorrectable error 0x10. -/
def Sys2Proof.Spec.SyncWords : Prop :=
  ∀ (f : FmtA) s iss rest r e, e.prot = 0 →
    let off := (e.a f).toNat
    let placed := off % 16 = 0 ∧ e.scrBase ≤ off ∧ off + 16 ≤ e.scrBase + e.scrSize
    let clean := s.scrBad ((List.range 16).map (fun k => e.core * 262144 + off + k)) = false
    let inside := placed ∧ clean
    let turned (i : Instr) (write : Bool) : Prop :=
      (off % 16 ≠ 0 → FaultsAt i s iss rest e s { FInfo.of 0x06 with wr := write }) ∧
      (off % 16 = 0 → (off < e.scrBase ∨ e.scrBase + e.scrSize < off + 16) → FaultsAt i s iss rest e s { FInfo.of 0x08 with wr := write }) ∧
      (placed → ¬ clean → FaultsAt i s iss rest e s (.of 0x10))
    let gen := s.scrWord e.core (off + 8)
    (∀ op sh, Alone s (.swarm f) op sh iss rest (.thr r) e →
      (inside → ∃ t th, exec (.swarm f) s = .next t ∧ owes e (toD f [gen]) th ∧
        t.lane? (.thr r) = some (stands iss op sh (th.trailAdd (s.trailOf e op sh))) ∧
        t.scrWord e.core off = e.b f ∧ t.scrWord e.core (off + 4) = 0 ∧ t.scrWord e.core (off + 8) = gen ∧
        ScrKept s t ((List.range 8).map (fun k => e.core * 262144 + off + k)) ∧ t.mem = s.mem) ∧
      turned (.swarm f) true) ∧
    (∀ op sh, Alone s (.swwait f) op sh iss rest (.thr r) e →
      (inside → gen ≠ e.b f → Completes (.swwait f) s op sh iss (.thr r) e s e.th) ∧
      (inside → gen = e.b f → Holds (.swwait f) s op sh iss (.thr r) s (.swwait off (e.b f))) ∧
      turned (.swwait f) false) ∧
    (∀ op sh, Alone s (.swtest f) op sh iss rest (.thr r) e →
      (inside → ∃ th, owes e (toDp f (gen != e.b f)) th ∧ Completes (.swtest f) s op sh iss (.thr r) e s th) ∧
      turned (.swtest f) false)

/-- R194: TLWAIT, TLREAD and TLTEST on the timeline of the engine that B names, at the cluster where the block's number was issued: after a move the
newest issue of a number is the one meant, and TLREAD reads the cluster of the block's newest issue there, its own with none (log entry 81); a code
above 4 raises operand (0x03). -/
def Sys2Proof.Spec.Timelines : Prop :=
  ∀ (f : FmtA) s iss rest l e,
    let eng := (e.b f).toNat
    let n := (e.pair f.a).toNat
    let c := s.numCluster e.blk eng n
    let done (c : Nat) := ((s.cluster c).tl eng).done
    (∀ op sh, Alone s (.tlwait f) op sh iss rest l e →
      (4 < eng → FaultsAt (.tlwait f) s iss rest e s (.of 0x03)) ∧
      (eng ≤ 4 → n ≤ done c → Completes (.tlwait f) s op sh iss l e s e.th) ∧
      (eng ≤ 4 → done c < n → Holds (.tlwait f) s op sh iss l s (.tlwait c eng n))) ∧
    (∀ op sh, Alone s (.tlread f) op sh iss rest l e →
      let d := done (match s.block? (s.holder e.blk) with
        | none => 0
        | some b => match b.issued.find? (fun p => p.1 == eng) with
          | some p => p.2.2
          | none => if b.core < 1024 then b.core / 4 else b.core - 1024)
      (4 < eng → FaultsAt (.tlread f) s iss rest e s (.of 0x03)) ∧
      (eng ≤ 4 → ∃ th, owes e (toD f [BitVec.ofNat 32 d, BitVec.ofNat 32 (d / 2 ^ 32)]) th ∧ Completes (.tlread f) s op sh iss l e s th)) ∧
    (∀ op sh, Alone s (.tltest f) op sh iss rest l e →
      (4 < eng → FaultsAt (.tltest f) s iss rest e s (.of 0x03)) ∧
      (eng ≤ 4 → ∃ th, owes e (toDp f (decide (n ≤ done c))) th ∧ Completes (.tltest f) s op sh iss l e s th))

/-- R196 to R198, Table 6-7: PHSET loads the phase its header and table describe, or holds its participant while the loaded phase has not ended; PHARR,
once per issue, lowers the core's ARR counter by its lowest participant's A after the earlier operations of every participant are performed; PHWAIT holds until the phase that is current has ended;
PHSTAT owes the phase's status. -/
def Obligations.PhaseResults : Prop :=
  ∀ (f : FmtA) s iss rest r e, e.prot = 0 →
    let want : Want := ⟨.read, false, fmtRaw, true⟩
    let cur := (Tab.find s.ctxs e.ctx).bind (fun c => c.phase)
    (∀ op sh s1 s2 s3 s4 s5 keys ptes hdr keys2 ptes2 tab ranks me, Alone s (.phset f) op sh iss rest (.thr r) e →
      s.access e.core e.ctx e.blk want 64 (e.pair f.a) 64 = (s1, .ok (keys, ptes)) → s1.readBytes e (e.pair f.a) keys = (s2, .ok hdr) →
      (phHdrOk hdr = false → FaultsAt (.phset f) s iss rest e s2 (.of 0x03)) ∧
      (phHdrOk hdr = true →
        s2.access e.core e.ctx e.blk want 16 (BitVec.ofNat 64 (hdrNat hdr 8 8)) (16 * hdrNat hdr 0x10 4) = (s3, .ok (keys2, ptes2)) →
        s3.readBytes e (BitVec.ofNat 64 (hdrNat hdr 8 8)) keys2 = (s4, .ok tab) → s4.phGroup e.ctx hdr (rawReader e) = (s5, .ok (ranks, me)) →
        (s5.phaseOpen e.ctx = true → Holds (.phset f) s op sh iss (.thr r) s5 (.phset hdr tab ranks me)) ∧
        (s5.phaseOpen e.ctx = false → Ends (.phset f) s op sh iss (.thr r) e (s5.loadPhase e.ctx (s5.lidOf e.blk) hdr tab ranks me)
          (fun base th => owesFrom base e [] th)))) ∧
    (∀ op sh es e0, Ready s (.pharr f) op sh iss rest → Quiet iss op sh → Seen s iss es → es.head? = some e0 → e0.prot = 0 →
      DoesOnce (.pharr f) s ((settledBy s es).phHere e0.ctx e0.core ⟨0, 0, 0, 0, -((e0.a f).toNat : Int)⟩) op sh iss []) ∧
    (∀ op sh, Alone s (.phwait f) op sh iss rest (.thr r) e →
      ((cur = none ∨ ∃ p, cur = some p ∧ p.ended = true) → Completes (.phwait f) s op sh iss (.thr r) e s e.th) ∧
      (∀ p, cur = some p → p.ended = false → Holds (.phwait f) s op sh iss (.thr r) s (.phwait p.serial))) ∧
    (∀ op sh, Alone s (.phstat f) op sh iss rest (.thr r) e → ∃ (v : Word) (th : Thread),
      owes e (toD f [v]) th ∧ Completes (.phstat f) s op sh iss (.thr r) e s th ∧ (cur = none → v = 0) ∧
      (∀ p, cur = some p → v.getLsbD 0 = true ∧ v.getLsbD 1 = p.ended ∧ v.getLsbD 3 = p.err ∧ v.getLsbD 4 = p.cancelled ∧
        v.getLsbD 2 = (List.range 1024).all (fun k => s.physCore e.ctx k != e.core ||
           (Tab.get PhCount.zero p.counts k).high) ∧ v.toNat / 65536 = p.id % 65536))

/-- R196: what loading a phase gives: its id, scope, next id and group from the header, with the group's ranks; each logical core's counters are those of the
table added to what waited for the id, where the phase before it named the id as its NEXT, and to 0 otherwise (log entry 72); a counter that waited for
another id and was not 0, or one below 0, sets ERR; a new serial, an empty pending set, and the PHASE event of the context's blocks cleared. No memory
changes. -/
def Sys2Proof.Spec.PhaseLoaded : Prop :=
  ∀ (s : State) ctx lid hdr tab ranks me c, Tab.find s.ctxs ctx = some c →
    let t := s.loadPhase ctx lid hdr tab ranks me
    let id := hdrNat hdr 0 6
    let cores := hdrNat hdr 0x10 4
    let waited (k : Nat) : PhCount := match c.phase with
      | some q => if q.next = id then Tab.get PhCount.zero q.pending k else PhCount.zero
      | none => PhCount.zero
    let lost : Prop := ∃ q, c.phase = some q ∧ q.next ≠ id ∧ ∃ x ∈ q.pending, x.2 ≠ PhCount.zero
    ∃ c' p, Tab.find t.ctxs ctx = some c' ∧ c'.phase = some p ∧ p.id = id ∧ p.scope = hdrNat hdr 6 1 ∧ p.next = hdrNat hdr 0x20 6 ∧
      p.group = BitVec.ofNat 64 (hdrNat hdr 0x18 8) ∧ p.ranks = ranks ∧ p.me = me ∧ p.serial = c.serial + 1 ∧ c'.serial = c.serial + 1 ∧
      p.ended = false ∧ p.cancelled = false ∧ p.pending = [] ∧
      (∀ k, Tab.get PhCount.zero p.counts k = if k < cores then (waited k).add (phEntry tab k) else waited k) ∧
      (p.err = true ↔ lost ∨ ∃ x ∈ p.counts, x.2.under = true) ∧
      (∀ k b, s.block? k = some b → b.ctx = ctx → ∃ b', t.block? k = some b' ∧ b' = { b with evpend := b.evpend &&& ~~~2 }) ∧
      t.mem = s.mem ∧ t.scr = s.scr

/-- R196: an arrival tagged with the loaded phase's id changes that core's counters, one tagged with the next phase's id waits for it, and any other
sets ERR; a counter that falls below 0 sets ERR. -/
def Sys2Proof.Spec.PhaseArrival : Prop :=
  ∀ (p : Phase) (id core : Nat) (d : PhCount),
    (id = p.id → Tab.get PhCount.zero (p.arrive id core d).counts core = (Tab.get PhCount.zero p.counts core).add d ∧
      (∀ k, k ≠ core → Tab.get PhCount.zero (p.arrive id core d).counts k = Tab.get PhCount.zero p.counts k) ∧
      (((Tab.get PhCount.zero p.counts core).add d).under = true → (p.arrive id core d).err = true) ∧ (p.err = true → (p.arrive id core d).err = true)) ∧
    (id ≠ p.id → id = p.next → p.next ≠ 0 → p.arrive id core d = { p with pending := addCount p.pending core d }) ∧
    (id ≠ p.id → (id ≠ p.next ∨ p.next = 0) → p.arrive id core d = { p with err := true })

/-- R13: the logical cores of a job's clusters move with a fence while the job lasts, whichever they are; an arrival of a block counts on the logical core
that the physical core of the block holds: the one of its own number where it holds that, else the lowest it holds, and its own number where it holds
none (log entry 66). -/
def Sys2Proof.Spec.LogicalCores : Prop :=
  (∀ (l : Level) c heir k, k < 256 → Tab.get k (l.refence c heir).cores k =
    if l.complete = false ∧ Tab.get k l.cores k = c then heir else Tab.get k l.cores k) ∧
  (∀ (s : State) ctx core (d : PhCount), core < 1024 →
    let holds (k : Nat) : Prop := k < 1024 ∧ s.physCore ctx k = core
    let own : Prop := holds core
    (own → s.hereCore ctx core = core) ∧
    (∀ k, ¬ own → holds k → (∀ j, j < k → ¬ holds j) → s.hereCore ctx core = k) ∧
    ((∀ k, ¬ holds k) → s.hereCore ctx core = core) ∧
    (∀ p, (Tab.find s.ctxs ctx).bind (fun c => c.phase) = some p → s.phHere ctx core d =
      s.updCtx ctx (fun c => { c with phase := c.phase.map (fun p => p.arrive p.id (s.hereCore ctx core) d) })))

namespace Sys2Proof.Spec

/-! ## Faults, traps and what the handler does (R340 to R357) -/

/-- R340, R344: a thread of a running block that faults keeps its clause address, the index, the words of the line it executes (R52) and whether it arose at
decode, takes part in no vote, and its context gets one record that awaits a resolution, with the flags of Table 16-2. No byte of memory or scratchpad and no other thread changes. -/
def FaultTaken : Prop :=
  ∀ (s : State) (e : Env) (line : List Word) (dec : Bool) (idx : Nat) (f : FInfo) t b th, e.lane = .thr t → s.block? t.blk = some b → s.thread? t = some th →
    b.kind ≠ .handler → b.kind ≠ .pair → b.twin = none → b.stopAt = [] → (f.cause = 0x10 → b.prot = 0) →
    let u := s.takeFault e line dec idx f
    let va : DWord := match f.imm with | some i => i.setWidth 64 | none => f.va.getD 0
    let flags := (if f.va.isSome then 1 else 0) + (if f.imm.isSome then 2 else 0) + 4 + (if f.wr then 64 else 0) + (if f.fetch then 128 else 0) +
      (if dec then 256 else 0)
    (∃ st, st.cause = f.cause ∧ st.idx = idx ∧ st.dec = dec ∧
      u.thread? t = some { th with stop := some st, pc := e.pc, cont := if dec then 0 else idx, line := if dec then [] else line }) ∧
    (∀ c, Tab.find s.ctxs b.ctx = some c → Tab.find u.ctxs b.ctx =
      some { c with waiting := c.waiting ++ [⟨⟨f.cause, idx, 0, flags, e.tid, b.lid, b.idx, va, 0⟩, .thread t⟩] }) ∧
    (∀ r, r ≠ t → u.thread? r = s.thread? r) ∧ u = { s with blocks := u.blocks, ctxs := u.ctxs }

/-- Table 16-1: the 32 bytes of a record. -/
def RecordLayout : Prop :=
  ∀ (r : FRec) (slot : Nat),
    let bs := r.bytes slot
    let at_ (o n : Nat) : Nat := leVal ((bs.drop o).take n)
    bs.length = 32 ∧ at_ 0 1 = r.cause % 256 ∧ at_ 1 1 = r.index % 16 + 16 * (r.src % 16) ∧ at_ 2 2 = r.flags % 2 ^ 16 ∧ at_ 4 1 = r.tid % 256 ∧
      at_ 5 1 = slot % 256 ∧ at_ 6 6 = r.launch % 2 ^ 48 ∧ at_ 12 4 = r.block % 2 ^ 32 ∧ at_ 16 8 = r.va.toNat ∧ at_ 24 8 = r.item % 2 ^ 64

/-- R341: where a stopped thread goes on: at the header after a decode fault or at index 0; at its index; after a TRAP or a break at the next word, or at
the clause that follows, where the valid latches pass on exactly when the clause had H set (log entry 39). -/
def ResumePoint : Prop :=
  ∀ (th : Thread) (st : Stop), th.stop = some st →
    (st.dec = true ∨ st.idx = 0 → th.resume = { th with stop := none, cont := 0, line := [] }) ∧
    (st.dec = false → st.idx ≠ 0 → st.cause ≠ 0x17 → st.cause ≠ 0x1D → th.resume = { th with stop := none, cont := st.idx }) ∧
    (st.dec = false → st.idx ≠ 0 → (st.cause = 0x17 ∨ st.cause = 0x1D) →
      (st.last = false → th.resume = { th with stop := none, cont := st.idx + 1 }) ∧
      (st.last = true → th.resume = { th with stop := none, pc := st.next, cont := 0, line := [], yn := if st.keep then th.yn else 0 }))

/-- R353: TRAP takes software trap (0x17) with its immediate; BRK takes debug break (0x1D) where DEBUG[0] is 1 and is a NOP where it is 0. -/
def TrapResults : Prop :=
  (∀ imm s op sh iss rest l e, Alone s (.trap imm) op sh iss rest l e → FaultsAt (.trap imm) s iss rest e s ⟨0x17, none, some imm, false, false⟩) ∧
  (∀ f s op sh iss rest l e c, Alone s (.brk f) op sh iss rest l e → Tab.find s.ctxs e.ctx = some c →
    (BitVec.getLsbD c.debug 0 = true → FaultsAt (.brk f) s iss rest e s (.of 0x1D)) ∧
    (BitVec.getLsbD c.debug 0 = false → Completes (.brk f) s op sh iss l e s e.th))

/-- R54: a word that only the handler may execute raises privileged (0x18) in any other block, and nothing else happens. -/
def PrivilegedWords : Prop :=
  ∀ i s op sh iss rest l e, i.parts = some (op, sh) → op.info.is .priv = true → s.issues = iss :: rest → iss.lanes = [l] → Sees s iss l e →
    s.passWaits iss op sh = false → s.stopDue e = none → checkWord e.dec op.info sh = none → e.sys = false → e.th.live = true →
    ∃ t, exec i s = .next t ∧ OnlyLanes (s.takeFault e iss.line false iss.idx (.of 0x18)) t [] ∧ ∀ j ∈ t.issues, j ∈ rest

/-- R51: a word that fails its checks raises the fault that they give, as one raised at decode. -/
def CheckedWords : Prop :=
  ∀ i s op sh iss rest l e x, i.parts = some (op, sh) → s.issues = iss :: rest → iss.lanes = [l] → Sees s iss l e →
    s.passWaits iss op sh = false → s.stopDue e = none → checkWord e.dec op.info sh = some x → e.th.live = true → (∀ c, l ≠ .tile c) →
    ∃ t, exec i s = .next t ∧ OnlyLanes (s.takeFault e iss.line true iss.idx (.of x)) t [] ∧ ∀ j ∈ t.issues, j ∈ rest

/-- R369: a word that reads a register or a return-stack entry that holds an uncorrectable error consumes it: 0x10, and nothing else happens. -/
def BadReads : Prop :=
  ∀ i s op sh iss rest l e, i.parts = some (op, sh) → s.issues = iss :: rest → iss.lanes = [l] → Sees s iss l e →
    s.passWaits iss op sh = false → s.stopDue e = none → checkWord e.dec op.info sh = none → (op.info.is .priv = true → e.sys = true) →
    e.badRead op sh = true → e.th.live = true →
    ∃ t, exec i s = .next t ∧ OnlyLanes (s.takeFault e iss.line false iss.idx (.of 0x10)) t [] ∧ ∀ j ∈ t.issues, j ∈ rest

/-- R348: FWAIT checks its buffer, takes the oldest record and stores its 32 bytes, as an ST's, and owes its number; with an empty queue it holds its
thread. A buffer whose keys are those of peers gets its bytes as stores do (R392, log entry 58). -/
def FaultWait : Prop :=
  ∀ (f : FmtA) s op sh iss rest r e s1 c, Alone s (.fwait f) op sh iss rest (.thr r) e → e.prot = 0 → Tab.find s1.ctxs e.ctx = some c →
    let va := e.pair f.a
    let us := (e.b f).toNat
    (∀ x, s.access e.core e.ctx e.blk ⟨.write, false, fmtRaw, true⟩ 32 va 32 = (s1, .error x) → FaultsAt (.fwait f) s iss rest e s1 x) ∧
    (∀ keys ptes, s.access e.core e.ctx e.blk ⟨.write, false, fmtRaw, true⟩ 32 va 32 = (s1, .ok (keys, ptes)) →
      (c.queue = [] → Holds (.fwait f) s op sh iss (.thr r) s1
        (.fwait va (if us = 0 then 0 else s1.clk.toNat + 1000 * us) e.pc e.idx f.d.toNat e.slot f.wbs)) ∧
      (∀ n q qs s2 pte, c.queue = (n, q) :: qs → s1.access e.core e.ctx e.blk ⟨.write, false, fmtRaw, true⟩ 32 va 32 = (s2, .ok (keys, [pte])) →
        NoRequests s2 keys → NoOtherStores s2 r keys →
        let bs := q.frec.bytes 0
        let ends (s' : State) : Prop := Ends (.fwait f) s op sh iss (.thr r) e (s'.updCtx e.ctx (fun c => { c with queue := qs }))
          (fun base th => owesFrom base e (toD f [BitVec.ofNat 32 n, BitVec.ofNat 32 (n / 2 ^ 32)]) th)
        ((∀ k ∈ keys, k < 3 * 2 ^ 52) → ends (s2.updThread r (fun th => { th with stq := th.stq ++ [⟨keys, bs, none⟩] }))) ∧
        ((∀ k ∈ keys, 3 * 2 ^ 52 ≤ k) → ends (s2.updBlock r.blk (fun b => { b with out := toPeers (0, n) r keys bs b.out })))))

/-- The status word of a sequence number (R349). -/
def seqStatus (s : State) (ctx n : Nat) : Word :=
  match (Tab.find s.ctxs ctx).bind (fun c => Tab.find c.seqs n) with
  | some q => BitVec.ofNat 32 (q.state + if q.fwd then 4 else 0)
  | none => 0

/-- R349, R391: FRPT owes the status; with B = 1 a record not sent before goes to the ring of the context's function and FWD is set (the status is read
after that: log entry 32); with no room there it holds its thread. -/
def FaultReport : Prop :=
  ∀ (f : FmtA) s op sh iss rest l e, Alone s (.frpt f) op sh iss rest l e →
    let n := (e.pair f.a).toNat
    (1 < (e.b f).toNat → FaultsAt (.frpt f) s iss rest e s (.of 0x03)) ∧
    (e.b f = 0 → ∃ th, owes e (toD f [seqStatus s e.ctx n]) th ∧ Completes (.frpt f) s op sh iss l e s th) ∧
    (∀ c, e.b f = 1 → Tab.find s.ctxs e.ctx = some c →
      ((Tab.find c.seqs n = none ∨ ∃ q, Tab.find c.seqs n = some q ∧ q.fwd = true) →
        ∃ th, owes e (toD f [seqStatus s e.ctx n]) th ∧ Completes (.frpt f) s op sh iss l e s th) ∧
      (∀ q, Tab.find c.seqs n = some q → q.fwd = false →
        let g := Tab.get FnRegs.new s.fns c.fn
        let room := g.evFull = false ∧ g.defer = []
        (room → ∃ th, owes e (toD f [BitVec.ofNat 32 (q.state + 4)]) th ∧ Completes (.frpt f) s op sh iss l e
          ((s.ringWrite c.fn e.ctx q.qrec.frec).updCtx e.ctx (fun c => { c with seqs := Tab.upd c.seqs n (fun q => { q with fwd := true }) })) th) ∧
        (¬ room → Holds (.frpt f) s op sh iss l s (.frpt (e.pair f.a) f.d.toNat e.slot f.wbs))))

/-- R387, R388: a vector of a function is raised: an interrupt with the address and the data of its table entry, or, while the entry is masked, its pending
bit (masks as PCI Express has them: log entry 76). -/
def raised (s t : State) (fn v : Nat) : Prop :=
  let g := Tab.get FnRegs.new s.fns fn
  let at_ (o n : Nat) : Nat := leVal (g.msix.bytes (16 * v + o) n)
  if (g.msix.byte (16 * v + 12)).getLsbD 0 = true then t.irqs = s.irqs ∧ v ∈ (Tab.get FnRegs.new t.fns fn).pend
  else t.irqs = s.irqs ++ [⟨fn, v, BitVec.ofNat 64 (at_ 0 8), BitVec.ofNat 32 (at_ 8 4)⟩]

/-- R391: an entry of a function's event ring: its 32 bytes in host memory at EVBASE + 32 × EVHEAD, EVHEAD advanced modulo EVSIZE, vector 0 raised. -/
def RingEntry : Prop :=
  ∀ (s : State) fn slot (r : FRec),
    let g := Tab.get FnRegs.new s.fns fn
    let t := s.ringWrite fn slot r
    let key := 2 * 2 ^ 52 + (g.evBase.toNat % 2 ^ 52 + 32 * g.evHead)
    t.mem.bytes key 32 = r.bytes slot ∧ MemKept s t ((List.range 32).map (fun k => key + k)) ∧
      (Tab.get FnRegs.new t.fns fn).evHead = (g.evHead + 1) % g.evSize ∧ raised s t fn 0 ∧
      t = { s with mem := t.mem, poison := t.poison, fns := t.fns, irqs := t.irqs }

/-- R350, R239, Table 16-4: FRESUME resumes a stopped thread of an untwinned block or a stopped tile program and writes 1; for a failed access of the Thresher
(SRC 2) the access is to be made again, and its launch, if it is suspended and no item of it failed, goes on at the stage it stopped in; where nothing is
pending, or the record is a pair item's, it writes 0 and changes nothing. -/
def FaultResume : Prop :=
  ∀ (f : FmtA) s op sh iss rest l e c, Alone s (.fresume f) op sh iss rest l e → Tab.find s.ctxs e.ctx = some c →
    let n := (e.pair f.a).toNat
    let solved (s : State) : State := s.updCtx e.ctx (fun c => { c with seqs := Tab.upd c.seqs n (fun q => { q with state := 2 }) })
    ((∀ q, Tab.find c.seqs n = some q → q.state ≠ 1 ∨ ∃ p k, q.qrec.unit = .pairItem p k) →
      ∃ th, owes e (toDp f false) th ∧ Completes (.fresume f) s op sh iss l e s th) ∧
    (∀ q t b, Tab.find c.seqs n = some q → q.state = 1 → q.qrec.unit = .thread t → s.block? t.blk = some b → b.twin = none →
      Ends (.fresume f) s op sh iss l e (solved (s.updThread t Thread.resume)) (fun base th => owesFrom base e (toDp f true) th)) ∧
    (∀ q k, Tab.find c.seqs n = some q → q.state = 1 → q.qrec.unit = .tile k →
      Ends (.fresume f) s op sh iss l e (solved (s.updTile k (fun r => { r with th := r.th.resume }))) (fun base th => owesFrom base e (toDp f true) th)) ∧
    (∀ q p k pl, Tab.find c.seqs n = some q → q.state = 1 → q.qrec.unit = .pairAccess p k → Tab.find s.pairs p = some pl →
      let s1 : State := { s with pairs := Tab.upd s.pairs p (fun x => { x with accFaults := x.accFaults.erase k }) }
      Ends (.fresume f) s op sh iss l e (solved (if pl.state = 3 ∧ pl.failed = [] then s1.pairTo p pl.stage else s1))
        (fun base th => owesFrom base e (toDp f true) th))

/-- R350, R240: FREPLAY and FKILL of a pair launch's record hold the handler until the launch has suspended, and then settle every pending record of
it; FREPLAY does not apply to another; FKILL of a stopped thread kills its block, of a tile program that program. Where nothing is pending both
write 0. -/
def FaultReplayKill : Prop :=
  ∀ (kill : Bool) (f : FmtA) s op sh iss rest r e c,
    let i : Instr := if kill then .fkill f else .freplay f
    let l : Lane := .thr r
    Alone s i op sh iss rest l e → Tab.find s.ctxs e.ctx = some c →
    let n := (e.pair f.a).toNat
    let solved (s : State) : State := s.updCtx e.ctx (fun c => { c with seqs := Tab.upd c.seqs n (fun q => { q with state := 2 }) })
    ((∀ q, Tab.find c.seqs n = some q → q.state ≠ 1) → ∃ th, owes e (toDp f false) th ∧ Completes i s op sh iss l e s th) ∧
    (∀ q p pl, Tab.find c.seqs n = some q → q.state = 1 → ((∃ k, q.qrec.unit = .pairItem p k) ∨ ∃ k, q.qrec.unit = .pairAccess p k) →
      Tab.find s.pairs p = some pl →
      (pl.state ≠ 3 → Holds i s op sh iss l s (.resolve (e.pair f.a) kill f.d.toNat e.slot f.wbs)) ∧
      (pl.state = 3 → Ends i s op sh iss l e ((if kill then s.pairKill p else s.pairReplay p).updCtx e.ctx (resolvePair p))
        (fun base th => owesFrom base e (toDp f true) th))) ∧
    (∀ q, kill = false → Tab.find c.seqs n = some q → q.state = 1 → ((∃ t, q.qrec.unit = .thread t) ∨ ∃ k, q.qrec.unit = .tile k) →
      ∃ th, owes e (toDp f false) th ∧ Completes i s op sh iss l e s th) ∧
    (∀ q t th st, kill = true → Tab.find c.seqs n = some q → q.state = 1 → q.qrec.unit = .thread t → s.thread? t = some th → th.stop = some st →
      t.blk ≠ r.blk → (∀ b, s.block? t.blk = some b → b.twin = none) → Ends i s op sh iss l e (solved (s.killBlock t.blk st.cause)) (fun base th => owesFrom base e (toDp f true) th)) ∧
    (∀ q k r st, kill = true → Tab.find c.seqs n = some q → q.state = 1 → q.qrec.unit = .tile k → (s.cluster k).tile = some r → r.th.stop = some st →
      Ends i s op sh iss l e (solved (s.tileEnd k 3 st.cause)) (fun base th => owesFrom base e (toDp f true) th))

/-- R180, R350, R337: a killed kernel block without a twin is gone, with its holdings; its held operations are not performed, nor are its stores that were
not yet (log entries 58 and 88): no byte of memory changes but in the sync objects it held or waited for, no request of it goes to an owner, and no message
goes out; its launch's counter falls by one and shows FAILED. -/
def BlockKilled : Prop :=
  ∀ (s : State) blk cause b l, s.block? blk = some b → b.twin = none → b.primary = true → b.kind = .kernel → Tab.find s.launches b.lid = some l →
    (∀ p ∈ s.clusters, (∀ r ∈ p.2.tileQ, r.t.blk ≠ blk) ∧ ∀ r, p.2.tile = some r → r.t.blk ≠ blk) →
    let t := s.killBlock blk cause
    t.block? blk = none ∧ (∀ obj x, (blk, x) ∉ (t.sync obj).1) ∧ (∀ obj x, (blk, x) ∉ (t.sync obj).2) ∧ t.scr = s.scr ∧
    MemKept s t (s.syncs.flatMap (fun p => (List.range 16).map (fun k => p.1 + k))) ∧ (∀ k, (t.cluster k).atomQ = (s.cluster k).atomQ) ∧
    t.outbox = s.outbox ∧ t.flits = s.flits ∧
    (∃ l', Tab.find t.launches b.lid = some l' ∧ l'.count = l.count - 1 ∧ l'.failed = true ∧ b.idx ∈ l'.bads) ∧
    (∀ i ∈ t.issues, ∀ wp ms, i.who ≠ .lanes blk wp ms)

/-- R351: PTEW writes one entry of the context's table, 8 bytes at level L's slot for the address, and its predicate with 1; where an entry on the way
is no pointer or the address has a bit of [63:52], it writes 0 and nothing else. L = 3 raises operand (0x03). An uncorrectable error in an entry on the way
is consumed (R369). -/
def PageTableWrite : Prop :=
  ∀ (f : FmtA) s op sh iss rest l e c, Alone s (.ptew f) op sh iss rest l e → Tab.find s.ctxs e.ctx = some c →
    let va := e.pair f.a
    let level := va.toNat % 4
    let a0 := c.root + 8 * (va.extractLsb' 42 10).toNat
    let e0 := entryAt s.mem a0
    let a1 := pteBase e0 + 8 * (va.extractLsb' 29 13).toNat
    let e1 := entryAt s.mem a1
    let a2 := pteBase e1 + 8 * (va.extractLsb' 16 13).toNat
    let pointer (x : DWord) : Prop := pteV x = true ∧ pteKind x = 3
    let way := va.extractLsb' 52 12 = 0 ∧ (1 ≤ level → pointer e0) ∧ (2 ≤ level → pointer e1)
    let key := if level = 0 then a0 else if level = 1 then a1 else a2
    (level = 3 → FaultsAt (.ptew f) s iss rest e s (.of 0x03)) ∧
    let reads : List Nat := if va.extractLsb' 52 12 ≠ 0 ∨ level = 0 then [] else if level = 2 ∧ pointer e0 then [a0, a1] else [a0]
    let clean := s.memBad reads = false
    (level ≠ 3 → ¬ clean → FaultsAt (.ptew f) s iss rest e s (.of 0x10)) ∧
    (level ≠ 3 → clean → ¬ way → ∃ th, owes e (toDp f false) th ∧ Completes (.ptew f) s op sh iss l e s th) ∧
    (level ≠ 3 → clean → way → ∃ s' th, owes e (toDp f true) th ∧ Completes (.ptew f) s op sh iss l e s' th ∧
      s' = { s with mem := s'.mem, poison := s'.poison } ∧ leVal (s'.mem.bytes key 8) = (e.pair f.b).toNat ∧
      MemKept s s' ((List.range 8).map (fun k => key + k)))

/-- R352: TLBINV removes the entries of the context whose page holds the address, or all of the context's, from every TLB, and leaves every other entry;
no store of the context is left in flight; where a block of the context holds operations for its commit that a removed entry of its core translates, the
handler's thread is held until those are performed, at a commit or ahead of it, or gone with their interval. What a block holds later is not waited for.
Another B raises operand (0x03). -/
def TlbInvalidation : Prop :=
  ∀ (f : FmtA) s op sh iss rest l e, Alone s (.tlbinv f) op sh iss rest l e →
    let va := (e.pair f.a).toNat
    (1 < (e.b f).toNat → FaultsAt (.tlbinv f) s iss rest e s (.of 0x03)) ∧
    ((e.b f).toNat ≤ 1 →
      let hit (x : TlbE) : Prop := x.ctx = e.ctx ∧ (e.b f = 1 ∨ (x.base ≤ va ∧ va < x.base + x.size))
      let waits (b : Block) (i : Nat) : Prop := ∃ h, b.held[i]? = some h ∧ h.acts = true ∧ ∃ x ∈ Tab.get [] s.tlbs b.core, hit x ∧
        overlaps x.base x.size h.va.toNat (max 1 h.size) = true
      ∃ t due, (due = [] → Ends (.tlbinv f) s op sh iss l e t (fun base th => th = base)) ∧ (due ≠ [] → Holds (.tlbinv f) s op sh iss l t (.tlbinv due)) ∧
        (∀ d ∈ due, ∃ b, (d.blk, b) ∈ s.blocks ∧ b.ctx = e.ctx ∧ d.epoch = b.epoch ∧ d.reexec = b.reexec ∧ d.ops ≠ [] ∧ ∀ i, i ∈ d.ops ↔ waits b i) ∧
        (∀ k b i, (k, b) ∈ s.blocks → b.ctx = e.ctx → waits b i → ∃ d ∈ due, d.blk = k ∧ i ∈ d.ops) ∧
        (∀ u : State, u.tlbClear due = true ↔ ∀ d ∈ due, ∀ b, u.block? d.blk = some b →
          b.epoch ≠ d.epoch ∨ b.reexec ≠ d.reexec ∨ ∀ i ∈ d.ops, ∀ h, b.held[i]? = some h → h.acts = false) ∧
        (∀ p ∈ t.tlbs, ∀ x ∈ p.2, ¬ hit x) ∧
        (∀ p ∈ s.tlbs, ∀ x ∈ p.2, ¬ hit x → ∃ q ∈ t.tlbs, q.1 = p.1 ∧ x ∈ q.2) ∧
        (∀ r b th, t.block? r.blk = some b → b.ctx = e.ctx → t.thread? r = some th → th.stq = [] ∧ ∀ p ∈ b.out, p.1 ≠ r) ∧ t.scr = s.scr)

/-! ### System registers (R354, R355, R370 to R372, Table 18-6) -/

/-- A defined register but for the banks: whether only the handler reads it, and its value. -/
def sysReads (s : State) (b : Block) (c : Ctx) (core idx : Nat) : Option (Bool × Word) :=
  let d := s.die (coreDie core)
  match idx with
  | 0 => some (false, 0x00004840)
  | 1 => some (false, BitVec.ofNat 32 b.prot)
  | 3 => some (false, b.timer.extractLsb' 0 32)
  | 4 => some (false, b.timer.extractLsb' 32 32)
  | 8 => some (true, (b.evpend &&& 0x2F) ||| (if c.queue = [] then 0 else 0x10))
  | 16 => some (false, c.debug)
  | 17 => some (true, BitVec.ofNat 32 c.queue.length)
  | 24 => some (true, c.recctl)
  | 25 => some (true, c.recbase.extractLsb' 0 32)
  | 26 => some (true, c.recbase.extractLsb' 32 32)
  | 27 => some (true, c.recsize)
  | 28 => some (true, c.recin.extractLsb' 0 32)
  | 29 => some (true, c.recin.extractLsb' 32 32)
  | 0x100 => some (false, BitVec.ofNat 32 d.step)
  | 0x101 => some (false, BitVec.ofNat 32 d.stepMin)
  | 0x102 => some (false, BitVec.ofNat 32 d.grants.sum)
  | 0x103 => some (false, BitVec.ofNat 32 s.dev.draw)
  | 0x104 => some (false, BitVec.ofNat 32 (d.temp % 256 + 256 * (d.hot % 64)))
  | 0x105 => some (false, BitVec.ofNat 32 d.trip)
  | 0x106 => some (false, d.stepDn)
  | 0x107 => some (false, BitVec.ofNat 32 s.dev.cap)
  | _ => none

/-- Words 0 and 1 of an error bank. -/
def bankWord0 (b : Bank) : Word :=
  BitVec.ofNat 32 ((if b.valid then 1 else 0) + (if b.ue then 2 else 0) + (if b.multi then 4 else 0) + 65536 * b.ce.toNat)
def bankWord1 (b : Bank) : Word := BitVec.ofNat 32 (b.uec.toNat + 65536 * b.lost.toNat)

/-- R354, R355, R370, R372: SYSR owes the register; a read of a bank's word 0 latches words 1 to 3 for the thread, whose reads of them then give what was
latched, and of another bank what stands there (log entry 52). A register the tables do not define, 0x108 to 0x1FF among them, raises operand (0x03), which comes before
privileged (0x18) for one that only the handler may read (log entry 53). -/
def SystemReads : Prop :=
  ∀ (f : FmtA) s op sh iss rest l e b c, Alone s (.sysr f) op sh iss rest l e → s.block? e.blk = some b → Tab.find s.ctxs e.ctx = some c →
    let idx := (e.a f).toNat
    (∀ own v, sysReads s b c e.core idx = some (own, v) →
      (own = true → e.sys = false → FaultsAt (.sysr f) s iss rest e s (.of 0x18)) ∧
      ((own = false ∨ e.sys = true) → ∃ th, owes e (toD f [v]) th ∧ Completes (.sysr f) s op sh iss l e s th)) ∧
    (sysReads s b c e.core idx = none → (idx < 0x1000 ∨ 0x1000 + 4 * 0x62D ≤ idx) → FaultsAt (.sysr f) s iss rest e s (.of 0x03)) ∧
    (∀ u k, idx = 0x1000 + 4 * u + k → k < 4 → u < 0x62D →
      let x := Tab.get Bank.new s.banks u
      let loc (v : DWord) : Word := if k = 2 then v.extractLsb' 0 32 else v.extractLsb' 32 32
      (e.sys = false → FaultsAt (.sysr f) s iss rest e s (.of 0x18)) ∧
      (e.sys = true → k = 0 → ∃ th, owesFrom { e.th with latch := some ⟨u, bankWord1 x, x.loc, true⟩ } e (toD f [bankWord0 x]) th ∧
        Completes (.sysr f) s op sh iss l e s th) ∧
      (e.sys = true → k ≠ 0 → (∀ y, e.th.latch = some y → y.u ≠ u) →
        ∃ th, owes e (toD f [if k = 1 then bankWord1 x else loc x.loc]) th ∧ Completes (.sysr f) s op sh iss l e s th) ∧
      (∀ y, e.sys = true → k ≠ 0 → e.th.latch = some y → y.u = u →
        ∃ th, owes e (toD f [if k = 1 then y.w1 else loc y.loc]) th ∧ Completes (.sysr f) s op sh iss l e s th))

/-- The writing instructions: how each changes a register. -/
def sysWriter : Instr → Option (FmtA × (Word → Word → Word))
  | .sysw f => some (f, fun _ v => v)
  | .sysset f => some (f, fun old v => old ||| v)
  | .sysclr f => some (f, fun old v => old &&& ~~~v)
  | _ => none

/-- The registers of a context that a write changes. A write that places the log empties it (log entry 27). -/
def ctxWrites (idx : Nat) (g : Word → Word) (c : Ctx) : Option Ctx :=
  let low (r : DWord) : DWord := r.extractLsb' 32 32 ++ g (r.extractLsb' 0 32)
  let high (r : DWord) : DWord := g (r.extractLsb' 32 32) ++ r.extractLsb' 0 32
  match idx with
  | 16 => some { c with debug := g c.debug &&& 1 }
  | 24 => some { c with recctl := g c.recctl &&& 1, recpos := 0, recmap := [] }
  | 25 => some { c with recbase := low c.recbase, recpos := 0, recmap := [] }
  | 26 => some { c with recbase := high c.recbase, recpos := 0, recmap := [] }
  | 27 => some { c with recsize := g c.recsize, recpos := 0, recmap := [] }
  | 28 => some { c with recin := low c.recin }
  | 29 => some { c with recin := high c.recin }
  | _ => none

/-- R354, R355, R357, R372: SYSW, SYSSET and SYSCLR in a thread of an unprotected block. A write of a deadline's half clears TIMER; EVPEND takes SYSSET
and SYSCLR of bits 0, 1, 3 and 5 only; a write of a bank's word 0 clears its record if the thread's latch still stands. A register without a
writer, EVPEND for SYSW among them, raises operand (0x03), which comes before privileged (0x18) for one that only the handler may write (log entry 53). A
write of the registers that place the log empties it (log entry 27). -/
def SystemWrites : Prop :=
  ∀ i f g, sysWriter i = some (f, g) → ∀ s op sh iss rest r e b c, Alone s i op sh iss rest (.thr r) e → e.prot = 0 →
    s.block? e.blk = some b → b.twin = none → Tab.find s.ctxs e.ctx = some c →
    let idx := (e.a f).toNat
    let v := e.b f
    let plain := (∃ f, i = .sysw f)
    (idx = 3 → Completes i s op sh iss (.thr r) e (s.updBlock e.blk (fun b => { b with
      timer := b.timer.extractLsb' 32 32 ++ g (b.timer.extractLsb' 0 32) v, evpend := b.evpend &&& ~~~8 })) e.th) ∧
    (idx = 4 → Completes i s op sh iss (.thr r) e (s.updBlock e.blk (fun b => { b with
      timer := g (b.timer.extractLsb' 32 32) v ++ b.timer.extractLsb' 0 32, evpend := b.evpend &&& ~~~8 })) e.th) ∧
    (idx = 8 → plain → FaultsAt i s iss rest e s (.of 0x03)) ∧
    (idx = 8 → ¬ plain → e.sys = true → Completes i s op sh iss (.thr r) e
      (s.updBlock e.blk (fun b => { b with evpend := g b.evpend (v &&& 0x2B) })) e.th) ∧
    (∀ c', ctxWrites idx (fun old => g old v) c = some c' → e.sys = true →
      Completes i s op sh iss (.thr r) e (s.updCtx e.ctx (fun _ => c')) e.th) ∧
    (∀ u, idx = 0x1000 + 4 * u → u < 0x62D → e.sys = true →
      let x := Tab.get Bank.new s.banks u
      ((∀ y, e.th.latch = some y → y.u ≠ u ∨ y.fresh = false) → Completes i s op sh iss (.thr r) e s e.th) ∧
      (∀ y, e.th.latch = some y → y.u = u → y.fresh = true →
        Ends i s op sh iss (.thr r) e (s.setBank u { x with valid := false, ue := false, multi := false }) (fun base th => th = base))) ∧
    ((idx = 8 ∧ ¬ plain ∨ (ctxWrites idx id c).isSome ∨ (∃ u, idx = 0x1000 + 4 * u ∧ u < 0x62D)) → e.sys = false →
      FaultsAt i s iss rest e s (.of 0x18)) ∧
    (idx ≠ 3 → idx ≠ 4 → idx ≠ 8 → ctxWrites idx id c = none → (∀ u, idx = 0x1000 + 4 * u → 0x62D ≤ u) → FaultsAt i s iss rest e s (.of 0x03))

/-- R356, R357, R359, R362, R201: CLK owes the count of the pass; WAITEV returns the pending events that it names, clearing HOST and ERR, or holds its thread, and
raises 0x03 or 0x18 for a mask that the rules forbid; COMMIT holds its thread, its earlier operations performed (Table 6-9); PROT owes the protection status. -/
def ClockAndEvents : Prop :=
  ∀ (f : FmtA) s iss rest r e b c, s.block? e.blk = some b → Tab.find s.ctxs e.ctx = some c →
    (∀ op sh, Alone s (.clk f) op sh iss rest (.thr r) e → s.recorder r.blk = none →
      ∃ th, owesFrom { e.th with clks := e.th.clks + 1 } e (toD f [s.clk.extractLsb' 0 32, s.clk.extractLsb' 32 32]) th ∧
        Completes (.clk f) s op sh iss (.thr r) e s th) ∧
    (∀ op sh, Alone s (.waitev f) op sh iss rest (.thr r) e →
      let m := e.b f
      let ev : Word := ((b.evpend &&& 0x2F) ||| (if c.queue = [] then 0 else 0x10)) &&& m
      let bad := m = 0 ∨ 64 ≤ m.toNat ∨ (e.sys = false ∧ ∃ i j, i < j ∧ m.getLsbD i = true ∧ m.getLsbD j = true)
      let priv := e.sys = false ∧ m &&& 0x30 ≠ 0
      (bad → FaultsAt (.waitev f) s iss rest e s (.of 0x03)) ∧
      (¬ bad → priv → FaultsAt (.waitev f) s iss rest e s (.of 0x18)) ∧
      (¬ bad → ¬ priv → ev ≠ 0 → Ends (.waitev f) s op sh iss (.thr r) e (s.updBlock r.blk (fun b => { b with evpend := b.evpend &&& ~~~(ev &&& 0x21) }))
        (fun base th => owesFrom { base with hold := none, line := if base.cont = 0 then [] else base.line } e (toD f [ev]) th)) ∧
      (¬ bad → ¬ priv → ev = 0 → Holds (.waitev f) s op sh iss (.thr r) s (.waitev m f.d.toNat e.slot f.wbs))) ∧
    (∀ op sh, Alone s (.commit f) op sh iss rest (.thr r) e → Holds (.commit f) s op sh iss (.thr r) (s.settle r) .commit) ∧
    (∀ op sh, Alone s (.prot f) op sh iss rest (.thr r) e →
      ∃ th, owes e (toD f [if b.prot = 0 then 0 else BitVec.ofNat 32 (b.prot + (if b.fixed then 4 else 0) + 8 * b.jcount)]) th ∧
        Completes (.prot f) s op sh iss (.thr r) e s th)

/-! ## What units do on their own: threads, faults, protection, errors -/

/-- A hold ends (R403): the line stays with a thread that is part way through its clause. -/
def freed (th : Thread) : Thread := { th with hold := none, line := if th.cont = 0 then [] else th.line }

/-- R37, R94, R140, R170, R171, R181, R184: a result that is there is written and no longer owed; a store of a thread becomes visible in its block, and reaches
memory, the oldest one or with the agenda a later one (log entry 11), but a store of the block to a byte that it writes, and was visible before it,
reaches memory first; an owner performs its oldest request; a thread that yielded is in the votes again; a walk fills a TLB. Where there is
nothing to do, nothing changes. -/
def Completions : Prop :=
  (∀ (s : State) t k th o, s.thread? t = some th → th.owed[k]? = some o →
    (o.ready = false → exec (.loadComplete t k) s = .next s) ∧
    (o.ready = true → ∃ u, exec (.loadComplete t k) s = .next u ∧ OnlyLanes s u [.thr t] ∧
      u.thread? t = some { (o.wr.foldl (fun th r => match r with
        | .w n v => withW th n v
        | .p n v => withP th (n % 8) v
        | .q n v => { th with q := th.q.setIfInBounds n v }) th) with owed := th.owed.eraseIdx k })) ∧
  (∀ (s : State) t th b o os, s.thread? t = some th → s.block? t.blk = some b → th.stq = o :: os → o.peer = none →
    (∀ n, n ≤ os.length → ∃ u b', exec (.memoryOperationPerformed ⟨t, n, true⟩) s = .next u ∧ u.thread? t = some { th with stq := th.stq.drop (n + 1) } ∧
      u.block? t.blk = some b' ∧ b'.out = b.out ++ (th.stq.take (n + 1)).map (fun x => (t, x)) ∧ u.mem = s.mem ∧ u.scr = s.scr ∧
      (∀ r, r ≠ t → u.thread? r = s.thread? r)) ∧
    ((∀ p ∈ b.out, p.1 ≠ t ∧ (∀ q, p.2.peer = some q → t ∉ q.2) ∧ ∀ k ∈ p.2.keys, k ∉ o.keys) → NothingHeld s t.blk → ∃ u b', exec (.memoryOperationPerformed ⟨t, 0, false⟩) s = .next u ∧
      u.thread? t = some { th with stq := os } ∧ u.block? t.blk = some b' ∧ b'.out = b.out ∧
      (∀ k, u.mem.byte k = lastAt (o.keys.zip o.data) k (s.mem.byte k)) ∧ u.scr = s.scr ∧ (∀ r, r ≠ t → u.thread? r = s.thread? r))) ∧
  (∀ (s : State) t r b o q, (s.thread? t).isSome → s.block? t.blk = some b → r ≠ t → o.peer = none → q.peer = none → (∃ k ∈ q.keys, k ∈ o.keys) →
    b.out = [(r, q), (t, o)] → NothingHeld s t.blk → ∃ u b', exec (.memoryOperationPerformed ⟨t, 0, false⟩) s = .next u ∧ u.block? t.blk = some b' ∧ b'.out = [] ∧
      (∀ k, u.mem.byte k = lastAt (q.keys.zip q.data ++ o.keys.zip o.data) k (s.mem.byte k)) ∧ u.scr = s.scr) ∧
  (∀ (s : State) c q qs, (s.cluster c).atomQ = q :: qs →
    (∀ p ∈ q.parts, s.recorder p.t.blk = none ∧ ∀ b, s.block? (s.origin p.t.blk) = some b → b.held = []) →
    ∃ u, exec (.atomicService c) s = .next u ∧ (u.cluster c).atomQ = qs ∧
      (∀ k, q.kind ≠ .binrd → u.mem.byte k = (serve s.mem q).1.byte k) ∧ (q.kind = .binrd → ∀ k, u.mem.byte k = s.mem.byte k) ∧ u.scr = s.scr ∧
      (∀ p ws th n o, (serve s.mem q).2 = [(p, n, ws)] → s.thread? p = some th → o ∈ th.owed → o.tag = n → o.wr.length = ws.length →
        (∀ x ∈ o.wr, ∃ j v, x = .w j v) → ∃ th' o', u.thread? p = some th' ∧ o' ∈ th'.owed ∧ o'.tag = n ∧ o'.slot = o.slot ∧ o'.ready = true ∧
          o'.wr = (o.wr.zip ws).map (fun x => match x.1 with | .w j _ => .w j x.2 | y => y))) ∧
  (∀ (s : State) t, exec (.yieldTimeout t) s = .next (s.updThread t (fun th => { th with yieldAt := none }))) ∧
  (∀ (s : State) core ctx va, ∃ u, exec (.pageWalkComplete core ctx va) s = .next u ∧ OnlyTlbs s u ∧
    (∀ x, (s.translate core ctx va).2 = some x → (s.tlbHit core ctx va).isSome ∨ ∃ y ∈ Tab.get [] u.tlbs core, y.ctx = ctx ∧ y.pte = x.2 ∧
      y.base ≤ va.toNat ∧ va.toNat < y.base + y.size))

/-- R65 to R67: of the voters, those at the lowest address go first, the aged ones before others; the second choice is the lowest other address. -/
def VoteOrder : Prop :=
  ∀ (vs : List Voter),
    let old := vs.filter (fun v => decide (32 ≤ v.age))
    let pool := if old = [] then vs else old
    (pool = [] → (choices vs).1 = none) ∧
    (pool ≠ [] → ∃ v ∈ pool, (choices vs).1 = some v.pc ∧ ∀ u ∈ pool, v.pc.toNat ≤ u.pc.toNat) ∧
    ((∃ v ∈ vs, some v.pc ≠ (choices vs).1) → ∃ p, (choices vs).2 = some p) ∧
    (∀ p, (choices vs).2 = some p → (∃ v ∈ vs, v.pc = p) ∧ (choices vs).1 ≠ some p ∧
      ∀ u ∈ vs, some u.pc ≠ (choices vs).1 → p.toNat ≤ u.pc.toNat)

/-- R65, R66, R94, R52: in a warp whose one live thread votes, a vote issues its clause to it, at its continuation word, and its age is 0 again. The line is
fetched at the clause's start; a thread part way through keeps the words it had. -/
def VoteIssues : Prop :=
  ∀ (s : State) blk wp m b w th s1 line, s.block? blk = some b → b.saved = none → b.warps[wp]? = some w → w.threads[m]? = some th →
    th.votes = true → (∀ k th', w.threads[k]? = some th' → k ≠ m → th'.live = false) → m / 8 ∉ s.busyLanes blk wp →
    (if th.cont = 0 then s.fetchLine b.core b.ctx blk th.pc else (s, .ok th.line)) = (s1, .ok line) →
    (hdrWM (line.getD (linePos th.pc) 0) = 0) →
    (th.cont = 0 → ∀ e, s1.env? (.thr ⟨blk, wp, m⟩) (hdrSS (line.getD (linePos th.pc) 0)) th.pc 0 = some e → clauseFault e.dec th.pc line = none) →
    ∃ t, exec (.issueVote blk wp) s = .next t ∧
      t.issues = s1.issues ++ [⟨.lanes blk wp [m], th.pc, line, if th.cont = 0 then 1 else th.cont, s.tags + 1⟩] ∧
      t.thread? ⟨blk, wp, m⟩ = some { th with age := 0, yieldAt := none } ∧ t.mem = s.mem ∧ t.scr = s.scr

/-- R27, R68: a vote issues to each lane by itself, and the participants of what it issues stand in ascending tid order. The parts of one issue carry one
number that is given out with it (log entry 62). -/
def VoteParts : Prop :=
  ∀ (s t : State) blk wp, exec (.issueVote blk wp) s = .next t → ∀ i ∈ t.issues, i ∈ s.issues ∨
    ((∃ lane ms, i.who = .lanes blk wp ms ∧ ms ≠ [] ∧ (∀ m ∈ ms, m / 8 = lane) ∧ ms.Pairwise (· < ·)) ∧ s.tags < i.id ∧ i.id ≤ t.tags)

/-- Two records come from one source unit (R346). -/
def oneSource (a b : QRec) : Prop :=
  a.unit = b.unit ∧ (a.unit = .report → a.frec.src = b.frec.src ∧ a.frec.launch = b.frec.launch ∧ a.frec.block = b.frec.block ∧ a.frec.tid = b.frec.tid)

/-- R346, R348, R391: a waiting record, none of its own unit being older, enters the queue with the next number, where there is room; an FWAIT whose time has passed returns 0 with
nothing stored; a deferred record goes to the ring where there is room; EVTAIL moves the ring's tail, and equal to EVHEAD it
leaves the ring empty (log entry 54). -/
def RecordEvents : Prop :=
  (∀ (s : State) ctx n c q, Tab.find s.ctxs ctx = some c → c.waiting[n]? = some q →
    let later : Prop := ∃ x ∈ c.waiting.take n, oneSource x q
    (4096 ≤ c.queue.length ∨ later → exec (.faultRecordPost ⟨ctx, n⟩) s = .next s) ∧
    (c.queue.length < 4096 → ¬ later → ∃ t c' st, exec (.faultRecordPost ⟨ctx, n⟩) s = .next t ∧ t = { s with ctxs := t.ctxs } ∧ Tab.find t.ctxs ctx = some c' ∧
      c'.queue = c.queue ++ [(c.seq + 1, q)] ∧ c'.waiting = c.waiting.eraseIdx n ∧ c'.seq = c.seq + 1 ∧ Tab.find c'.seqs (c.seq + 1) = some st ∧ st.fwd = false ∧
      (st.state = 3 ↔ q.frec.flags / 4 % 4 = 0) ∧ (st.state = 1 ∨ st.state = 2 ∨ st.state = 3))) ∧
  (∀ (s : State) t b th va dl pc idx d slot wbs c, s.block? t.blk = some b → s.thread? t = some th → th.hold = some (.fwait va dl pc idx d slot wbs) →
    Tab.find s.ctxs b.ctx = some c →
    (dl = 0 ∨ s.clk.toNat < dl ∨ c.queue ≠ [] → exec (.fwaitTimeout t) s = .next s) ∧
    (dl ≠ 0 → dl ≤ s.clk.toNat → c.queue = [] → d < 128 → ∃ u tag, exec (.fwaitTimeout t) s = .next u ∧ OnlyLanes s u [.thr t] ∧
      u.thread? t = some { freed th with owed := if slot = 7 ∧ wbs = true then th.owed else
        th.owed ++ [⟨slot, tag, true, if wbs then [] else [.w d 0, .w (d + 1) 0]⟩] })) ∧
  (∀ (s : State) fn,
    let g := Tab.get FnRegs.new s.fns fn
    (g.defer = [] → exec (.eventRingDeferredWrite fn) s = .next s) ∧
    (∀ x xs, g.defer = x :: xs → g.evFull = false →
      exec (.eventRingDeferredWrite fn) s = .next ((s.updFn fn (fun g => { g with defer := xs })).ringWrite fn x.1 x.2)) ∧
    (∀ x xs, g.defer = x :: xs → g.evFull = true → exec (.eventRingDeferredWrite fn) s = .next s)) ∧
  (∀ (s : State) fn v, s.hasFn fn = false → exec (.evtailWrite fn v) s = .next s) ∧
  (∀ (s : State) fn v, s.dev.ready = true → fn ≤ s.dev.vfs → ∃ t, exec (.evtailWrite fn v) s = .next t ∧ t = { s with fns := t.fns } ∧
    let g := Tab.get FnRegs.new s.fns fn
    Tab.get FnRegs.new t.fns fn = { g with evTail := v.toNat % g.evSize, evFull := false })

/-- A block stands at a commit point (R358). -/
def AtCommit (b : Block) : Prop :=
  ∀ w ∈ b.warps, ∀ th ∈ w.threads, th.owed = [] ∧ (th.live = false ∨ (th.stop = none ∧
    (th.hold = some .commit ∨ (∃ off ph, th.hold = some (.bar off ph true)) ∨ (b.prot ≠ 0 ∧ ∃ k, th.hold = some (.gbar k)))))

/-- A block's marks after a commit (R361): the interval is empty, and its threads as they go on are its checkpoint under P1 and P2. -/
def committed (b : Block) (warps : List Warp) : Block :=
  { b with warps := warps, held := [], journal := [], jcount := 0, fixed := false, reexec := false, fixlog := [], epoch := b.epoch + 1, spare := 0,
           badShadow := false, ckpt := if b.prot = 0 then none else some warps }

/-- The threads at COMMIT go on. -/
def passCommit (ws : List Warp) : List Warp :=
  ws.map (fun w => { w with threads := w.threads.map (fun th => if th.hold = some .commit then freed th else th) })

/-- The loft that a block gives back at its commit (log entry 68). -/
def spareGiven (s t : State) (b : Block) : Prop :=
  ∀ c, Tab.find s.ctxs b.ctx = some c → Tab.find t.ctxs b.ctx = some { c with loftUsed := c.loftUsed.modify (coreDie b.core) (fun u => u - b.spare) }

/-- R358, R359, R361, R199: the commit point of a block without a twin. With a thread at COMMIT those threads go on; under P1 the interval's
held operations are performed first, in program order, and the threads as they go on are the checkpoint. A protected block commits at a BAR too, once
all its threads wait there, flipped or not (log entry 22). Where a thread is not there yet, nothing happens. -/
def CommitPoints : Prop :=
  ∀ (s : State) blk b, s.block? blk = some b → b.twin = none → b.primary = true →
    let done (t : State) : Prop := (∀ h ∈ b.held, ∃ o, h.act = .store o ∧ o.peer = none) →
      ∀ k, t.mem.byte k = lastAt (b.held.flatMap (fun h => match h.act with | .store o => o.keys.zip o.data | _ => [])) k (s.mem.byte k)
    (¬ AtCommit b → exec (.commitPoint blk) s = .next s) ∧
    (AtCommit b → (∃ w ∈ b.warps, ∃ th ∈ w.threads, th.live = true ∧ th.hold = some .commit) → ∃ t, exec (.commitPoint blk) s = .next t ∧
      (b.prot = 0 → t.block? blk = some (committed b (passCommit b.warps)) ∧ t = { s with blocks := t.blocks, ctxs := t.ctxs } ∧ spareGiven s t b) ∧
      (b.prot ≠ 0 → b.kind = .kernel → done t ∧ t.scr = s.scr ∧ ∃ b', t.block? blk = some b' ∧ b'.held = [] ∧ b'.journal = [] ∧ b'.jcount = 0 ∧
        b'.fixed = false ∧ b'.reexec = false ∧ b'.ckpt = some b'.warps ∧ ∀ w ∈ b'.warps, ∀ th ∈ w.threads, th.hold ≠ some .commit)) ∧
    (∀ (wp m : Nat) (w : Warp) (th : Thread) off ph (ws : List Warp) (c : Thread), AtCommit b → b.prot ≠ 0 → b.kind = .kernel → b.warps[wp]? = some w → w.threads[m]? = some th → th.live = true →
      th.hold = some (.bar off ph true) → b.ckpt = some ws → (ws[wp]?.bind (fun w => w.threads[m]?)) = some c → c.hold ≠ th.hold →
      ∃ t b' th', exec (.commitPoint blk) s = .next t ∧ done t ∧ t.block? blk = some b' ∧ b'.held = [] ∧ b'.ckpt = some b'.warps ∧
        (b'.warps[wp]?.bind (fun w => w.threads[m]?)) = some th' ∧
        ((s.barAt b.core off).ph = ph → th' = { th with fixed := 0 }) ∧ ((s.barAt b.core off).ph ≠ ph → th' = { freed th with fixed := 0 }))

/-- R367: a remainder modulo the polynomial x^64 + 0x42F0E1EBA9EA3693 takes one more bit. -/
def crcTakes (r : Nat) (bit : Bool) : Nat :=
  let x := 2 * r + if bit then 1 else 0
  if 2 ^ 64 ≤ x then x ^^^ (2 ^ 64 + 0x42F0E1EBA9EA3693) else x

/-- CRC-64/ECMA-182 of bytes: the remainder of the message, highest bit of each byte first, times x^64. -/
def crcOf (bs : List Byte) : Nat :=
  (bs.flatMap (fun b => (List.range 8).map (fun i => b.getLsbD (7 - i))) ++ List.replicate 64 false).foldl crcTakes 0

/-- What an operation contributes: kind, size, tid, five zero bytes, its address, and its data padded to a multiple of 8 bytes. -/
def signed (h : HeldOp) : List Byte :=
  [BitVec.ofNat 8 h.kind, BitVec.ofNat 8 h.size, BitVec.ofNat 8 h.tid, 0, 0, 0, 0, 0] ++ leBytes 8 h.va.toNat ++ h.data ++
    List.replicate ((h.data.length + 7) / 8 * 8 - h.data.length) 0

/-- R367: the signature of an interval is the CRC of its operations in ascending tid order, each thread's in program order. -/
def Signatures : Prop :=
  ∀ b : Block, b.signature.toNat = crcOf ((List.range 256).flatMap (fun t => (b.held.filter (fun h => h.tid == t)).flatMap signed))

/-- R361, R366 to R368: the two copies of a P2 block at their commit point: with equal signatures both commit, and the primary's held operations alone are
performed; with different ones both are taken back to their last commit with a report of 0x11 that names no thread, or killed. Signatures says what a signature is. -/
def TwinCommits : Prop :=
  ∀ (s : State) blk k b o c, s.block? blk = some b → s.block? k = some o → k ≠ blk → b.twin = some k → o.twin = some blk → b.primary = true → o.primary = false →
    b.prot = 2 → o.prot = 2 → b.kind = .kernel → AtCommit b → AtCommit o → Tab.find s.ctxs b.ctx = some c → o.ctx = b.ctx →
    (∃ w ∈ b.warps, ∃ th ∈ w.threads, th.live = true ∧ th.hold = some .commit) →
    (b.signature = o.signature → ∃ t b' o', exec (.commitPoint blk) s = .next t ∧ t.block? blk = some b' ∧ t.block? k = some o' ∧ b'.held = [] ∧ o'.held = [] ∧
      b'.ckpt = some b'.warps ∧ o'.ckpt = some o'.warps ∧ b'.fixed = false ∧ o'.fixed = false ∧
      ((∀ h ∈ b.held, ∃ x, h.act = .store x ∧ x.peer = none) → ∀ a, t.mem.byte a =
        lastAt (b.held.flatMap (fun h => match h.act with | .store x => x.keys.zip x.data | _ => [])) a (s.mem.byte a))) ∧
    (b.signature ≠ o.signature → ∃ t c', exec (.commitPoint blk) s = .next t ∧ Tab.find t.ctxs b.ctx = some c' ∧
      (let bad : Prop := b.fixed = true ∨ b.reexec = true ∨ b.badShadow = true ∨ o.fixed = true ∨ o.reexec = true ∨ o.badShadow = true
       (bad → t.block? blk = none ∧ t.block? k = none ∧ ⟨⟨0x11, 0, 0, 32, 0, b.lid, b.idx, 0, 0⟩, .report⟩ ∈ c'.waiting) ∧
       (¬ bad → (∃ b' o', t.block? blk = some b' ∧ t.block? k = some o' ∧ b'.warps = b.ckpt.getD b.warps ∧ o'.warps = o.ckpt.getD o.warps ∧
           b'.held = [] ∧ o'.held = [] ∧ b'.reexec = true ∧ o'.reexec = true) ∧
         c'.waiting = c.waiting ++ [⟨⟨0x11, 0, 0, 16, 0, b.lid, b.idx, 0, 0⟩, .report⟩])))

/-- R363, R364, R369: a consumed error in a protected block without a twin. It rolls back: its threads as the checkpoint kept them, its held operations
discarded, its scratchpad words as they were before the interval first wrote them, and the record of the access that consumed the error goes out with RB
set: its thread, index, address and flags; or, where the interval is fixed or already re-executed, or its shadow bank holds an error, it is killed with that
record with KILLED set. -/
def Rollbacks : Prop :=
  (∀ (s : State) (e : Env) line dec idx (f : FInfo) t b, e.lane = .thr t → s.block? t.blk = some b → (s.thread? t).isSome → b.kind = .kernel → b.prot ≠ 0 → f.cause = 0x10 →
    ∃ b' r, (s.takeFault e line dec idx f).block? t.blk = some b' ∧ b'.rb = some r ∧ r = ⟨0x10, idx, 0, r.flags, e.tid, b.lid, b.idx, r.va, 0⟩ ∧
      (f.imm = none → r.va = f.va.getD 0 ∧ r.flags = (if f.va.isSome then 1 else 0) + (if f.wr then 64 else 0) + (if f.fetch then 128 else 0) +
        (if dec then 256 else 0)) ∧ (s.takeFault e line dec idx f).ctxs = s.ctxs) ∧
  ∀ (s : State) blk r b c, s.block? blk = some b → b.twin = none → b.primary = true → b.rb = some r → Tab.find s.ctxs b.ctx = some c →
    let cause := r.cause
    (b.fixed = false → b.reexec = false → b.badShadow = false →
      (∀ p ∈ s.clusters, ∀ q ∈ p.2.atomQ, ∀ x ∈ q.parts, x.t.blk ≠ blk) → (∀ obj x, (blk, x) ∉ (s.sync obj).2) → (∀ j ∈ b.journal, j.loft = false ∧ j.addr % 4 = 0) →
      ∃ t b' c', exec (.rollback blk cause) s = .next t ∧ t.block? blk = some b' ∧ b'.warps = b.ckpt.getD b.warps ∧ b'.held = [] ∧ b'.journal = [] ∧
        b'.reexec = true ∧ b'.rb = none ∧ t.mem = s.mem ∧
        (∀ a j, b.journal.find? (fun j => j.addr == a) = some j → leVal (t.scr.bytes a 4) = j.old.toNat) ∧
        ScrKept s t (b.journal.flatMap (fun j => (List.range 4).map (fun k => j.addr + k))) ∧
        Tab.find t.ctxs b.ctx = some c' ∧ c'.waiting = c.waiting ++ [⟨{ r with flags := r.flags + 16 }, .report⟩]) ∧
    (b.fixed = true ∨ b.reexec = true ∨ b.badShadow = true → ∃ t c', exec (.rollback blk cause) s = .next t ∧ t.block? blk = none ∧
      Tab.find t.ctxs b.ctx = some c' ∧ ⟨{ r with flags := r.flags + 32 }, .report⟩ ∈ c'.waiting)

/-- R374 to R376, Table 16-12: a block at a commit point is saved to its context's save area with its threads, or moved to another core: its commit first,
then its threads, their registers, its uniform registers, its loft and its events as they are, at the same offsets and with its scratchpad bytes, out of its
group, and a forwarding entry stays behind. To another die it takes its loft with it, and stays, committed, where that has no room for it. Of a P2 block both
copies are saved. A saved block is restored so. A forwarding entry lapses when its time has passed and its operations have ended. A block that may not be
moved is left alone. That thread state takes 20 KiB of loft a warp is log entry 23, the layout of the save area log entry 42. -/
def Moves : Prop :=
  (∀ (s : State) blk core b, s.Canonical → s.block? blk = some b → b.twin = none → b.primary = true → b.prot = 0 → b.saved = none → b.kind = .kernel → AtCommit b →
    (∃ w ∈ b.warps, ∃ th ∈ w.threads, th.live = true) → s.forked blk = false → s.roomAt core b = true → ∀ c, Tab.find s.ctxs b.ctx = some c →
    let old := coreDie b.core
    let new := coreDie core
    let n := b.loftSize + commitArea 0 b.warps.length + warpsLoft b.warps
    let given := c.loftUsed.modify old (fun u => u - b.spare)
    (old ≠ new → c.loftFree new < n → ∃ t, exec (.blockMove blk core) s = .next t ∧ t.block? blk = some (committed b (passCommit b.warps)) ∧
      t.mem = s.mem ∧ t.scr = s.scr ∧ t.fwds = s.fwds) ∧
    (old = new ∨ n ≤ c.loftFree new → ∃ t, exec (.blockMove blk core) s = .next t ∧
      Tab.find t.ctxs b.ctx = some { c with loftUsed := if old = new then given else (given.modify new (fun u => u + n)).modify old (fun u => u - n) } ∧
      t.block? blk = some { committed b (passCommit b.warps) with core := core, group := none, saved := none } ∧
      (∀ i, i < b.scrSize → t.scr.byte (core * 262144 + b.scrBase + i) = s.scr.byte (b.core * 262144 + b.scrBase + i)) ∧ t.mem = s.mem ∧
      t.fwds = s.fwds ++ [⟨blk, b.core, s.clk.toNat + 1000000, b.issued⟩])) ∧
  (∀ (s : State) blk b c, s.Canonical → s.block? blk = some b → b.twin = none → b.primary = true → b.prot ≠ 0 → b.saved = none → b.kind = .kernel → AtCommit b →
    (∃ w ∈ b.warps, ∃ th ∈ w.threads, th.live = true) → s.forked blk = false → (∀ h ∈ b.held, ∃ o, h.act = .store o ∧ o.peer = none) →
    Tab.find s.ctxs b.ctx = some c →
    let lastOf (t : State) : Prop := ∀ k, t.mem.byte k = lastAt (b.held.flatMap (fun h => match h.act with | .store o => o.keys.zip o.data | _ => [])) k (s.mem.byte k)
    let sameRegs (b' : Block) : Prop := b'.held = [] ∧ b'.journal = [] ∧ b'.group = none ∧ b'.ckpt = some b'.warps ∧ b'.loft = b.loft ∧ b'.evpend = b.evpend ∧
      ∀ (wp m : Nat) (th : Thread), (b.warps[wp]?).bind (fun w => w.threads[m]?) = some th → ∃ th', (b'.warps[wp]?).bind (fun w => w.threads[m]?) = some th' ∧
        th'.w = th.w ∧ th'.p = th.p ∧ th'.q = th.q ∧ th'.x = th.x ∧ th'.y = th.y ∧ th'.stack = th.stack ∧ th'.stage = th.stage ∧ th'.search = th.search
    (∀ core, s.roomAt core b = true → coreDie core = coreDie b.core → ∃ t b', exec (.blockMove blk core) s = .next t ∧ t.block? blk = some b' ∧ sameRegs b' ∧
      b'.core = core ∧ b'.saved = none ∧ lastOf t ∧
      ∀ i, i < b.scrSize → t.scr.byte (core * 262144 + b.scrBase + i) = s.scr.byte (b.core * 262144 + b.scrBase + i)) ∧
    (b.grid = false → 20480 * b.warps.length ≤ c.loftFree (coreDie b.core) → ∃ t b' off, exec (.preemptionSave blk) s = .next t ∧ t.block? blk = some b' ∧
      sameRegs b' ∧ b'.core = b.core ∧ b'.saved = some off ∧ t.scr = s.scr ∧
      ∀ i, i < b.scrSize → t.mem.byte (c.save.toNat + off + i) = s.scr.byte (b.core * 262144 + b.scrBase + i))) ∧
  (∀ (s : State) blk k b o c, s.block? blk = some b → s.block? k = some o → k ≠ blk → b.twin = some k → o.twin = some blk → b.primary = true → o.primary = false →
    b.prot = 2 → o.prot = 2 → b.kind = .kernel → o.kind = .kernel → b.saved = none → o.saved = none → b.grid = false → AtCommit b → AtCommit o → s.forked blk = false →
    (∃ w ∈ b.warps, ∃ th ∈ w.threads, th.live = true) → (∃ w ∈ o.warps, ∃ th ∈ w.threads, th.live = true) → b.held = [] → o.held = [] → o.ctx = b.ctx →
    Tab.find s.ctxs b.ctx = some c →
    (∀ die, (if coreDie b.core = die then 20480 * b.warps.length else 0) + (if coreDie o.core = die then 20480 * o.warps.length else 0) ≤ c.loftFree die) →
    ∃ t b' o' off1 off2, exec (.preemptionSave blk) s = .next t ∧ t.block? blk = some b' ∧ t.block? k = some o' ∧ b'.saved = some off1 ∧ o'.saved = some off2 ∧
      off1 + b.scrSize ≤ off2 ∧ t.scr = s.scr ∧
      (∀ i, i < b.scrSize → t.mem.byte (c.save.toNat + off1 + i) = s.scr.byte (b.core * 262144 + b.scrBase + i)) ∧
      (∀ i, i < o.scrSize → t.mem.byte (c.save.toNat + off2 + i) = s.scr.byte (o.core * 262144 + o.scrBase + i))) ∧
  (∀ (s : State) blk core b, s.block? blk = some b → s.roomAt core b = false → exec (.blockMove blk core) s = .next s) ∧
  (∀ (s : State) blk b c l, s.block? blk = some b → b.twin = none → b.primary = true → b.prot = 0 → b.saved = none → b.kind = .kernel → b.grid = false →
    AtCommit b → (∃ w ∈ b.warps, ∃ th ∈ w.threads, th.live = true) → s.forked blk = false → Tab.find s.ctxs b.ctx = some c → Tab.find s.launches b.lid = some l →
    20480 * b.warps.length ≤ c.loftFree (coreDie b.core) →
    ∃ t off, exec (.preemptionSave blk) s = .next t ∧
      t.block? blk = some { committed b (passCommit b.warps) with saved := some off, group := none } ∧
      (∀ i, i < b.scrSize → t.mem.byte (c.save.toNat + off + i) = s.scr.byte (b.core * 262144 + b.scrBase + i)) ∧ t.scr = s.scr ∧
      MemKept s t ((List.range b.scrSize).map (fun i => c.save.toNat + off + i)) ∧ Tab.find t.launches b.lid = some { l with victim := true }) ∧
  (∀ (s : State) blk core b c l off, s.Canonical → s.block? blk = some b → b.saved = some off → Tab.find s.ctxs b.ctx = some c →
    Tab.find s.launches b.lid = some l → s.roomAt core b = true → coreDie core = coreDie b.core →
    ∃ t l', exec (.blockMove blk core) s = .next t ∧ t.block? blk = some { b with core := core, group := none, saved := none } ∧
      (∀ i, i < b.scrSize → t.scr.byte (core * 262144 + b.scrBase + i) = s.mem.byte (c.save.toNat + off + i)) ∧ t.mem = s.mem ∧
      Tab.find t.launches b.lid = some l' ∧ l'.victim = false ∧ t.fwds = s.fwds ++ [⟨blk, b.core, s.clk.toNat + 1000000, b.issued⟩]) ∧
  (∀ (s : State) blk, exec (.forwardingExpiry blk) s = .next { s with fwds := s.fwds.filter (fun f =>
    !(f.blk == blk && decide (f.till ≤ s.clk.toNat) && f.ops.all (fun o => decide (o.2.1 ≤ ((s.cluster o.2.2).tl o.1).done)))) })

/-- R357: a write of a deadline's half clears TIMER, and the event is set when CLK has reached a nonzero deadline. -/
def Timers : Prop :=
  (∀ (s : State) blk high v b, s.block? blk = some b → b.twin = none → exec (.timerDeadlineWrite blk high v) s = .next (s.updBlock blk (fun b => { b with
    timer := if high then v ++ b.timer.extractLsb' 0 32 else b.timer.extractLsb' 32 32 ++ v, evpend := b.evpend &&& ~~~8 }))) ∧
  (∀ (s : State) blk b, s.block? blk = some b →
    (b.timer = 0 ∨ s.clk.toNat < b.timer.toNat → exec (.timerEvent blk) s = .next s) ∧
    (b.timer ≠ 0 → b.timer.toNat ≤ s.clk.toNat → exec (.timerEvent blk) s = .next (s.updBlock blk (fun b => { b with evpend := b.evpend ||| 8 }))))

/-- R371: what a corrected and an uncorrectable error do to a bank. -/
def corrected (b : Bank) (loc : DWord) : Bank :=
  if b.valid then { b with ce := b.ce + 1 } else { b with ce := b.ce + 1, valid := true, ue := false, multi := false, loc := loc }
def uncorrectable (b : Bank) (loc : DWord) : Bank :=
  if b.valid && b.ue then { b with uec := b.uec + 1, lost := b.lost + 1, multi := true }
  else { b with uec := b.uec + 1, valid := true, ue := true, multi := false, loc := loc }

/-- The record of a bank differs. -/
def recordDiffers (a b : Bank) : Prop := a.valid ≠ b.valid ∨ a.ue ≠ b.ue ∨ a.multi ≠ b.multi ∨ a.loc ≠ b.loc

/-- R369 to R372: errors change the bank of their unit as R371 gives; a change of the record sets ERR in every block of every context and raises vector 3 of
function 0 (log entry 52); an uncorrectable one poisons its granules, or a thread's registers, return-stack entries or a shadow bank (log entry 17). What
latches and clears a bank in a thread: a write clears it exactly when the thread's latch of it still stands (log entry 52). -/
def ErrorBanks : Prop :=
  ∀ (s : State) u,
    let bank (t : State) : Bank := Tab.get Bank.new t.banks u
    let told (t : State) : Prop := (recordDiffers (bank s) (bank t) → raised s t 0 3 ∧
        ∀ k b, s.block? k = some b → ∃ b', t.block? k = some b' ∧ b'.evpend = b.evpend ||| 0x20) ∧
      (¬ recordDiffers (bank s) (bank t) → t.irqs = s.irqs ∧ t.blocks = s.blocks) ∧ t.mem = s.mem ∧ t.scr = s.scr
    (∀ loc, ∃ t, exec (.correctedError u loc) s = .next t ∧ bank t = corrected (bank s) (BitVec.ofNat 64 (loc % 2 ^ 52)) ∧ told t ∧ t.poison = s.poison) ∧
    (∀ loc cells, (∀ g ∈ cells, g < 2 ^ 200) → ∃ t, exec (.uncorrectableError u loc cells) s = .next t ∧ bank t = uncorrectable (bank s) (BitVec.ofNat 64 (loc % 2 ^ 52)) ∧
      told t ∧ ∀ g, g ∈ t.poison ↔ g ∈ s.poison ∨ g ∈ cells) ∧
    (∀ loc (r : TRef) n th, s.thread? r = some th → r.wp < 8 → r.m < 32 → n < 256 → ((r.blk * 8 + r.wp) * 32 + r.m) * 256 + n < 2 ^ 240 - 2 ^ 200 →
      ∃ t th', exec (.uncorrectableError u loc [2 ^ 200 + ((r.blk * 8 + r.wp) * 32 + r.m) * 256 + n]) s = .next t ∧ t.thread? r = some th' ∧
        th'.badW = (if n < 128 then n :: th.badW else th.badW) ∧ th'.badRet = (if n < 128 then th.badRet else (n - 128) :: th.badRet) ∧
        t.mem = s.mem ∧ t.scr = s.scr ∧ t.poison = s.poison) ∧
    (∀ loc k b, s.block? k = some b → ∃ t b', exec (.uncorrectableError u loc [2 ^ 240 + k]) s = .next t ∧ t.block? k = some b' ∧ b'.badShadow = true ∧
      t.mem = s.mem ∧ t.poison = s.poison) ∧
    (∀ t, exec (.errorBankLatch t u) s =
      .next (s.updThread t (fun th => { th with latch := some ⟨u, bankWord1 (bank s), (bank s).loc, true⟩ }))) ∧
    (∀ t th, s.thread? t = some th →
      (∀ x, th.latch = some x → x.u = u → x.fresh = true → ∃ v, exec (.errorBankClear t u) s = .next v ∧
        bank v = { bank s with valid := false, ue := false, multi := false }) ∧
      ((∀ x, th.latch = some x → x.u ≠ u ∨ x.fresh = false) → exec (.errorBankClear t u) s = .next s))

end Sys2Proof.Spec

namespace Sys2Proof.Spec

/-! ## Tasks, launches and levels (R314 to R326, R335 to R337) -/

/-- The number in n bytes of a record. -/
def field (bs : List Byte) (off n : Nat) : Nat := leVal ((bs.drop off).take n)

/-- R314: the fields of Tables 15-1 and 15-2, and the limits a record must keep. -/
def TaskRecords : Prop :=
  (∀ bs : List Byte, let r := TaskRec.of bs
    r.entry.toNat = field bs 0 8 ∧ r.arg.toNat = field bs 8 8 ∧ r.tx.toNat = field bs 0x10 4 ∧ r.ty.toNat = field bs 0x14 4 ∧
      r.tz.toNat = field bs 0x18 4 ∧ r.flags.toNat = field bs 0x1C 4 ∧ r.succ.toNat = field bs 0x20 8 ∧ r.lid = field bs 0x28 6 ∧
      r.graph = field bs 0x2E 6 ∧ r.phase = field bs 0x34 6 ∧ r.job = field bs 0x3A 6) ∧
  (∀ (s : State) (k : Creator) (r : TaskRec) c, Tab.find s.ctxs k.ctx = some c → k.host = false →
    let kind := r.flags.toNat % 4
    let prot := r.flags.toNat / 4 % 4
    let scr := r.flags.toNat / 256 % 1024
    (s.recOk k r = true ↔ kind ≤ 1 ∧ r.flags.toNat < 2 ^ 18 ∧ r.succ.toNat % 16 = 0 ∧ r.lid = 0 ∧
      (kind = 0 → prot ≠ 3) ∧ (kind = 1 → r.entry = 0 ∧ r.tx = 0 ∧ r.ty = 0 ∧ r.tz = 0 ∧ prot = 0 ∧ scr = 0) ∧
      (r.phase = 0 ∨ r.phase = k.phase) ∧ (r.job = 0 ∨ r.job = k.job) ∧
      (r.graph = 0 ∨ ∀ g, Tab.find c.graphs r.graph = some g → g.complete = true ∨ g.parent = k.phase)))

/-- R316, R321: a KIND 0 record joins the ready queue of a die as a launch-level unit of its own, with a new id and a counter of 1; what its maker holds for a
commit stands before it. -/
def RecordQueued : Prop :=
  ∀ (s : State) d (k : Creator) (r : TaskRec) addr, r.flags.toNat % 4 = 0 → k.host = false →
    let t := s.queueRec d k r addr
    let graph := if r.graph = 0 then k.graph else r.graph
    let phase := if r.phase = 0 then k.phase else r.phase
    let job := if r.job = 0 then k.job else r.job
    ∃ l, Tab.find t.launches s.lidNext = some l ∧ l.ctx = k.ctx ∧ l.count = 1 ∧ l.complete = false ∧ l.cancelled = false ∧ l.failed = false ∧
      l.succ = r.succ ∧ l.after = k.after ∧ l.graph = graph ∧ l.phase = phase ∧ l.job = job ∧ t.lidNext = s.lidNext + 1 ∧
      (Tab.get Die.new t.dies d).ready = (Tab.get Die.new s.dies d).ready ++ [⟨k.ctx, s.lidNext, addr, r, graph, phase, job⟩] ∧
      (∀ n, n ≠ s.lidNext → Tab.find t.launches n = Tab.find s.launches n) ∧ t.mem = s.mem ∧ t.scr = s.scr ∧ t.blocks = s.blocks

/-- R321, R322, R336: SPAWN reads its 64-byte record after the thread's earlier operations are performed, and queues it on the thread's die. A record
of another KIND, or one that breaks a limit, raises operand (0x03); with the queue full the thread is held; in a cancelled level nothing is
queued. -/
def SpawnResults : Prop :=
  ∀ (f : FmtA) s op sh iss rest r e s1, Alone s (.spawn f) op sh iss rest (.thr r) e → e.prot = 0 →
    let va := e.pair f.a
    let k := s1.maker e
    (∀ x, rawReader e (s.settle r) 64 va 64 = (s1, .error x) → FaultsAt (.spawn f) s iss rest e s1 x) ∧
    (∀ bs, rawReader e (s.settle r) 64 va 64 = (s1, .ok bs) →
      let rec0 := TaskRec.of bs
      let bad := rec0.flags.toNat % 4 ≠ 0 ∨ s1.recOk k rec0 = false
      let cut := s1.blkCut e.blk = true ∨ s1.cutOff (rec0.under k) = true
      let room := (Tab.get Die.new s1.dies (coreDie e.core)).ready.length < 65536
      (bad → FaultsAt (.spawn f) s iss rest e s1 (.of 0x03)) ∧
      (¬ bad → cut → Ends (.spawn f) s op sh iss (.thr r) e s1 (fun base th => th = base)) ∧
      (¬ bad → ¬ cut → room → Ends (.spawn f) s op sh iss (.thr r) e (s1.queueRec (coreDie e.core) k rec0 va) (fun base th => th = base)) ∧
      (¬ bad → ¬ cut → ¬ room → Holds (.spawn f) s op sh iss (.thr r) s1 (.engine ⟨waitSpawn, va, 0, bytesToWords bs, 0, 7, true⟩)))

/-- A held operation has something left to perform, and is one of the thread's, alone or with others of its issue. -/
def HeldFor (h : HeldOp) (t : TRef) : Prop :=
  (∀ o, h.act = .store o → o.keys ≠ []) ∧
  (h.tid = 32 * t.wp + t.m ∨
    (∃ o, h.act = .store o ∧ ((⟨t.blk, h.tid / 32, h.tid % 32⟩ : TRef) = t ∨ ∃ p, o.peer = some p ∧ t ∈ p.2)) ∨
    (∃ r, h.act = .req r ∧ ∃ p ∈ r.parts, p.t = t))

/-- R199, R200, R321, R323: a thread of a protected block that holds operations for its commit makes work that waits for that commit, and so do the items it
shares a partial warp with; the work of another thread waits for none. -/
def WorkWaits : Prop :=
  ∀ (s : State) (e : Env) b, s.block? e.blk = some b → b.primary = true →
    let t : TRef := ⟨e.blk, e.tid / 32, e.tid % 32⟩
    ((∃ h ∈ b.held, HeldFor h t) → (s.maker e).after = [(e.blk, b.epoch)]) ∧ ((∀ h ∈ b.held, ¬ HeldFor h t) → (s.maker e).after = []) ∧
    (∀ core r l, Tab.find s.launches r.lid = some l → (e.blk, b.epoch) ∈ l.after → s.startOn core (.ready r) = none) ∧
    (∀ core g, (e.blk, b.epoch) ∈ g.after → s.startOn core (.items g) = none) ∧
    (∀ core, (s.die (coreDie core)).ready = [] → (s.cluster (coreCluster core)).formed = [] →
      (∀ g ∈ (s.cluster (coreCluster core)).gather, (e.blk, b.epoch) ∈ g.after) → exec (.dispatch core) s = .next s) ∧
    (∀ lid l, Tab.find s.launches lid = some l → (e.blk, b.epoch) ∈ l.after → exec (.blockPlacement lid) s = .next s)

/-- R323: an item joins those of its launch bound for its entry address, in arrival order; the 32nd makes an item warp with the cluster's next sequence
number, and so does the time-out of 256 cycles after the first (log entry 44). -/
def PackingUnit : Prop :=
  (∀ (c : Cluster) ctx lid entry pay now after g,
    (c.gather.find? (fun g => g.ctx == ctx && g.lid == lid && g.entry == entry)) = some g →
    let t := c.addItem ctx lid entry pay now after
    let others := c.gather.filter (fun x => !(x.ctx == ctx && x.lid == lid && x.entry == entry))
    let g' : Gather := { g with items := g.items ++ [pay], after := g.after ++ after.filter (fun a => !g.after.contains a) }
    (g.items.length < 31 → t = { c with gather := others ++ [g'] }) ∧
    (31 ≤ g.items.length → t = { c with gather := others, formed := c.formed ++ [{ g' with seq := c.itemSeq }], itemSeq := c.itemSeq + 1 })) ∧
  (∀ (c : Cluster) ctx lid entry pay now after, (∀ g ∈ c.gather, ¬ (g.ctx = ctx ∧ g.lid = lid ∧ g.entry = entry)) →
    c.addItem ctx lid entry pay now after = { c with gather := c.gather ++ [⟨ctx, lid, entry, [pay], now, 0, after⟩] }) ∧
  (∀ (s : State) c entry g, (s.cluster c).gather = [g] → g.entry = entry →
    let late := 256 * 1000 ≤ (s.clk.toNat - g.start) * (800 - 80 * (Tab.get Die.new s.dies (c / 64)).step)
    (late → exec (.itemGatherTimeout c entry) s = .next (s.updCluster c (fun k => { k with
      gather := [], formed := k.formed ++ [{ g with seq := k.itemSeq }], itemSeq := k.itemSeq + 1 }))) ∧
    (¬ late → exec (.itemGatherTimeout c entry) s = .next s))

/-- R323, R336: SPAWNI queues one item at its cluster's packing unit and counts it in its launch's counter; an entry address with a low bit set raises
0x0C; in a cancelled level nothing is queued. -/
def SpawniResults : Prop :=
  ∀ (f : FmtA) s op sh iss rest r e, Alone s (.spawni f) op sh iss rest (.thr r) e → e.prot = 0 →
    let entry := e.pair f.a
    let s1 := s.settle r
    (entry.toNat % 4 ≠ 0 → FaultsAt (.spawni f) s iss rest e s (.of 0x0C)) ∧
    (entry.toNat % 4 = 0 → s1.blkCut e.blk = true → Ends (.spawni f) s op sh iss (.thr r) e s1 (fun base th => th = base)) ∧
    (∀ b, entry.toNat % 4 = 0 → s1.blkCut e.blk = false → s1.block? e.blk = some b →
      Ends (.spawni f) s op sh iss (.thr r) e
        (({ s1 with launches := Tab.upd s1.launches b.lid (fun l => { l with count := l.count + 1 }) } : State).updCluster (coreCluster e.core)
          (fun c => c.addItem e.ctx b.lid entry ((List.range 4).map (fun i => e.reg (f.b.toNat + i))) s1.clk.toNat (s1.heldBy e)))
        (fun base th => th = base))

/-- R319: the fields of Table 15-4 and the limits a launch descriptor must keep. -/
def LaunchDescriptors : Prop :=
  (∀ bs : List Byte, let d := LDesc.of bs
    d.entry.toNat = field bs 0 8 ∧ d.arg.toNat = field bs 8 8 ∧ d.gx = field bs 0x10 4 ∧ d.gy = field bs 0x14 4 ∧ d.gz = field bs 0x18 4 ∧
      d.threads = field bs 0x1C 2 ∧ d.regs = field bs 0x1E 1 ∧ d.unif = field bs 0x1F 1 ∧ d.scratch = field bs 0x20 4 ∧ d.loft = field bs 0x24 4 ∧
      d.heap.toNat = field bs 0x28 8 ∧ d.quota = field bs 0x30 4 ∧ d.lflags.toNat = field bs 0x34 4 ∧ d.group.toNat = field bs 0x38 8) ∧
  (∀ d : LDesc, d.ok = true ↔ 1 ≤ d.gx ∧ 1 ≤ d.gy ∧ 1 ≤ d.gz ∧ d.gx * d.gy * d.gz < 2 ^ 32 ∧ 1 ≤ d.threads ∧ d.threads ≤ 256 ∧
    8 ≤ d.regs ∧ d.regs ≤ 128 ∧ d.regs % 8 = 0 ∧ 16 ≤ d.unif ∧ d.unif ≤ 64 ∧ d.unif % 8 = 0 ∧ d.scratch ≤ 262144 ∧ d.scratch % 16 = 0 ∧
    d.loft % 64 = 0 ∧ d.heap.toNat % 16 = 0 ∧ d.quota % 16 = 0 ∧ (d.heap = 0 → d.quota = 0) ∧ d.lflags.toNat % 4 ≠ 3 ∧ d.lflags.toNat < 16 ∧
    d.group.toNat % 64 = 0)

/-- R330: what the table of a process group gives, read as its header and then an entry for each rank: the group, its ranks, and which of them this device
and function are. One that breaks the table's rules raises 0x1B. -/
def GroupTables : Prop :=
  ∀ (s : State) ctx (rd : Reader) base,
    (∀ s1 x, rd s 64 base 64 = (s1, .error x) → s.readGroup ctx rd base = (s1, .error x)) ∧
    (∀ s1 h, rd s 64 base 64 = (s1, .ok h) →
      let n := field h 4 4
      (n = 0 ∨ 16384 < n → s.readGroup ctx rd base = (s1, .error (.of 0x1B))) ∧
      (∀ s2 x, 1 ≤ n → n ≤ 16384 → rd s1 8 (base + 64) (8 * n) = (s2, .error x) → s.readGroup ctx rd base = (s2, .error x)) ∧
      (∀ s2 es c, 1 ≤ n → n ≤ 16384 → rd s1 8 (base + 64) (8 * n) = (s2, .ok es) → Tab.find s2.ctxs ctx = some c →
        let entry (r : Nat) : Nat := field es (8 * r) 8
        let own (r : Nat) : Prop := r < n ∧ entry r % 2 ^ 24 = s2.dev.fid ∧ entry r / 2 ^ 24 % 16 = c.fn
        let shape := field h 0 4 ≠ 0 ∧ field h 8 2 * field h 0xA 2 * field h 0xC 2 = n ∧ field h 0xE 50 = 0 ∧ ∀ r, r < n → entry r < 2 ^ 28
        (shape ∧ (∃ r, own r ∧ ∀ q, own q → q = r) → ∃ g, s.readGroup ctx rd base = (s2, .ok g) ∧ g.gid = field h 0 4 ∧ own g.me ∧
          g.ranks.length = n ∧ ∀ r, r < n → g.ranks[r]? = some (entry r % 2 ^ 24, entry r / 2 ^ 24 % 16)) ∧
        (¬ (shape ∧ ∃ r, own r ∧ ∀ q, own q → q = r) → s.readGroup ctx rd base = (s2, .error (.of 0x1B)))))

/-- The loft that a block needs where it is placed: its own, and a protected block's commit area and journal (R158, R361). -/
def loftNeed (d : LDesc) : Nat :=
  d.loft + (if d.lflags.toNat % 4 = 0 then 0 else 4096 * ((d.threads + 31) / 32) + 65536)

/-- R158, R191, R320: the checks of a launch's descriptor in their order, and the blocks of this device's share: all of the grid, or with a group those from
r·n/N to (r + 1)·n/N of n for rank r of N. A breach of Table 15-4, or recording without a log, is operand (0x03); a block whose loft fits on no die 0x1A; one that
no healthy core could hold with nothing else running, or with GRID a share that does not fit so, 0x14. -/
def PlanResults : Prop :=
  ∀ (s : State) (rd : Reader) (k : Creator) (r : TaskRec),
    (∀ s1 x, rd s 64 r.arg 64 = (s1, .error x) → s.plan rd k r = (s1, .error x)) ∧
    (∀ s1 bs, rd s 64 r.arg 64 = (s1, .ok bs) →
      let d := LDesc.of bs
      let n := d.gx * d.gy * d.gz
      (d.ok = false → s.plan rd k r = (s1, .error (.of 0x03))) ∧
      (∀ s2 x, d.ok = true → d.group ≠ 0 → s1.readGroup k.ctx rd d.group = (s2, .error x) → s.plan rd k r = (s2, .error x)) ∧
      (∀ s2 lo hi c, d.ok = true →
        (d.group = 0 ∧ s2 = s1 ∧ lo = 0 ∧ hi = n ∨ d.group ≠ 0 ∧ ∃ g, s1.readGroup k.ctx rd d.group = (s2, .ok g) ∧
          lo = g.me * n / g.ranks.length ∧ hi = (g.me + 1) * n / g.ranks.length) →
        Tab.find s2.ctxs k.ctx = some c →
        let noLog := d.lflags.getLsbD 3 = true ∧ (c.recbase = 0 ∨ c.recsize = 0)
        let noLoft := ∀ u ∈ c.loft, u * 65536 < loftNeed d
        let bare : State := { s2 with
          blocks := [], issues := [], dev := { s2.dev with siloLoad := none }, ctxs := Tab.upd s2.ctxs k.ctx (fun c => { c with loftUsed := [0, 0, 0, 0] }) }
        let start := bare.newLaunch (Launch.make (r.under k) r 0 d lo hi)
        let holds (cl m : Nat) : Prop := cl < 256 ∧ (s2.cluster cl).healthy = true ∧ m * loftNeed d ≤ c.loft.getD (cl / 64) 0 * 65536
        let fits : Prop :=
          if hi ≤ lo then True
          else if d.lflags.getLsbD 2 = true then ∃ chain : Nat → State, chain 0 = start.1 ∧ ∀ i, i < hi - lo → (chain i).placeNext start.2 = some (chain (i + 1))
          else if d.lflags.toNat % 4 = 2 then ∃ a b, a ≠ b ∧ holds a 1 ∧ holds b 1 ∧ (a / 64 = b / 64 → holds a 2)
          else ∃ a, holds a 1
        (noLog → s.plan rd k r = (s2, .error (.of 0x03))) ∧
        (¬ noLog → noLoft → s.plan rd k r = (s2, .error (.of 0x1A))) ∧
        (¬ noLog → ¬ noLoft → ¬ fits → s.plan rd k r = (s2, .error (.of 0x14))) ∧
        (¬ noLog → ¬ noLoft → fits → s.plan rd k r = (s2, .ok ⟨d, bs, lo, hi⟩))))

/-- R320, R322: LAUNCH of a record of KIND 1 whose descriptor passes its checks: a new launch with the next id, which it owes; its counter is the number of
its blocks. Another KIND or a breach of a limit raises operand (0x03), a descriptor that fails its checks their fault; in a cancelled level nothing is
launched and 0 is owed. -/
def LaunchResults : Prop :=
  ∀ (f : FmtA) s op sh iss rest r e s1, Alone s (.launch f) op sh iss rest (.thr r) e → e.prot = 0 →
    (∀ x, rawReader e (s.settle r) 64 (e.pair f.a) 64 = (s1, .error x) → FaultsAt (.launch f) s iss rest e s1 x) ∧
    (∀ bs, rawReader e (s.settle r) 64 (e.pair f.a) 64 = (s1, .ok bs) →
      let rec0 := TaskRec.of bs
      let k := s1.maker e
      let bad := rec0.flags.toNat % 4 ≠ 1 ∨ s1.recOk k rec0 = false
      (bad → FaultsAt (.launch f) s iss rest e s1 (.of 0x03)) ∧
      (∀ s2 x, ¬ bad → s1.plan (rawReader e) k rec0 = (s2, .error x) → FaultsAt (.launch f) s iss rest e s2 x) ∧
      (∀ s2 p, ¬ bad → s1.plan (rawReader e) k rec0 = (s2, .ok p) →
        let cut := s2.blkCut e.blk = true ∨ s2.cutOff (rec0.under k) = true
        (cut → Ends (.launch f) s op sh iss (.thr r) e s2 (fun base th => owesFrom base e (toD f [0, 0]) th)) ∧
        (¬ cut → p.desc.lflags.getLsbD 3 = false → ∃ s3 l,
          Ends (.launch f) s op sh iss (.thr r) e s3 (fun base th =>
            owesFrom base e (toD f [BitVec.ofNat 32 s2.lidNext, BitVec.ofNat 32 (s2.lidNext / 2 ^ 32)]) th) ∧
          s3 = { s2 with launches := s3.launches, lidNext := s2.lidNext + 1, ctxs := s3.ctxs } ∧ Tab.find s3.launches s2.lidNext = some l ∧
          l.count = p.hi - p.lo ∧ l.desc = p.desc ∧ l.lo = p.lo ∧ l.hi = p.hi ∧ l.ctx = k.ctx ∧ l.succ = rec0.succ ∧ l.placed = 0 ∧ l.after = k.after ∧
          (∀ n, n ≠ s2.lidNext → Tab.find s3.launches n = Tab.find s2.launches n))))

/-- What a block's threads and warps start with (R28, R320, Table 15-3). -/
def StartsAs (b : Block) (u : List Word) (n : Nat) (entry : DWord) : Prop :=
  b.warps.length = (n + 31) / 32 ∧
  (∀ k w, b.warps[k]? = some w → w.threads.length = min 32 (n - 32 * k) ∧ (∀ i, i < u.length → w.s[i]?.getD 0 = u.getD i 0) ∧
    (∀ i, u.length ≤ i → i < 64 → w.s[i]?.getD 0 = 0) ∧ ∀ th ∈ w.threads, th = Thread.new entry)

/-- A new thread: live at its entry, every register 0, nothing owed, in flight or held (R28). -/
def NewThread : Prop :=
  ∀ pc : DWord, let th := Thread.new pc
    th.live = true ∧ th.pc = pc ∧ th.cont = 0 ∧ (∀ n, n < 128 → th.rw n = 0) ∧ th.p = 0 ∧ (∀ n, n < 4 → th.rq n = ⟨0, 0⟩) ∧ (∀ n, n < 8 → th.rx n = ⟨0, 0⟩) ∧
      th.yn = 0 ∧ th.stack = [] ∧ th.stage = Vector.replicate 4 0 ∧ th.search.mode = false ∧ th.owed = [] ∧ th.stq = [] ∧ th.stop = none ∧ th.hold = none ∧ th.line = [] ∧
      th.badW = [] ∧ th.badRet = [] ∧ th.staged = [] ∧ th.item = none

/-- R325: the curve of order k + 1 over its four quarters, each a curve of order k, and so a walk that visits every point of the square once, one step at a
time; the package order from it; the order of a launch's curve, and its next block: the first point from where it stands, z by z, that is a block of this
device's share and is not abandoned. -/
def PlacementOrder : Prop :=
  hilbert 0 0 = (0, 0) ∧
  (∀ k q d, q < 4 → d < 4 ^ k →
    let p := hilbert k d
    hilbert (k + 1) (q * 4 ^ k + d) = (if q = 0 then (p.2, p.1) else if q = 1 then (p.1, p.2 + 2 ^ k) else if q = 2 then (p.1 + 2 ^ k, p.2 + 2 ^ k)
      else (2 ^ (k + 1) - 1 - p.2, 2 ^ k - 1 - p.1))) ∧
  (∀ k d, d < 4 ^ k → (hilbert k d).1 < 2 ^ k ∧ (hilbert k d).2 < 2 ^ k) ∧
  (∀ k d e, d < 4 ^ k → e < 4 ^ k → hilbert k d = hilbert k e → d = e) ∧
  (∀ k d, d + 1 < 4 ^ k →
    let p := hilbert k d
    let q := hilbert k (d + 1)
    (p.1 = q.1 ∧ (p.2 + 1 = q.2 ∨ q.2 + 1 = p.2)) ∨ (p.2 = q.2 ∧ (p.1 + 1 = q.1 ∨ q.1 + 1 = p.1))) ∧
  (∀ i, i < 256 → packageOrder[i]? = some (64 * (i / 64) + 8 * (hilbert 3 (i % 64)).2 + (hilbert 3 (i % 64)).1)) ∧
  (∀ l : Launch,
    let d := l.desc
    let k := d.order
    let block (z t : Nat) : Prop := z < d.gz ∧ t < 4 ^ k ∧ (hilbert k t).1 < d.gx ∧ (hilbert k t).2 < d.gy ∧
      l.lo ≤ (hilbert k t).1 + d.gx * ((hilbert k t).2 + d.gy * z) ∧ (hilbert k t).1 + d.gx * ((hilbert k t).2 + d.gy * z) < l.hi ∧
      (hilbert k t).1 + d.gx * ((hilbert k t).2 + d.gy * z) ∉ l.skips
    let from_ (z t : Nat) : Prop := l.curZ < z ∨ (l.curZ = z ∧ l.curD ≤ t)
    max d.gx d.gy ≤ 2 ^ k ∧ (k ≠ 0 → 2 ^ (k - 1) < max d.gx d.gy) ∧
    (∀ p, l.next = some p → block p.z p.d ∧ from_ p.z p.d ∧ (p.x, p.y) = hilbert k p.d ∧
      ∀ z t, block z t → from_ z t → p.z < z ∨ (p.z = z ∧ p.d ≤ t)) ∧
    (l.next = none → ∀ z t, block z t → ¬ from_ z t))

/-- A region of a size can stand at a place of a scratchpad: a multiple of 16, in the scratchpad, apart from the regions there. -/
def RegionAt (used : List (Nat × Nat)) (size base : Nat) : Prop :=
  base % 16 = 0 ∧ base + size ≤ 262144 ∧ ∀ g ∈ used, size = 0 ∨ g.2 = 0 ∨ g.1 + g.2 ≤ base ∨ base + size ≤ g.1

/-- R25, R320, R325, R393: a block fits on a core that holds fewer than 8 blocks and has slices left of its 8, where its region finds a place; the first core with
room, in package order and from core 0 of a cluster up, takes it: its cluster healthy, its die under no Silo load, with the loft that the block needs. The core within a
cluster and the lowest place of the region are log entry 92. -/
def CoreChoice : Prop :=
  (∀ used size base, fitRegion used size = some base ↔ RegionAt used size base ∧ ∀ b, b < base → ¬ RegionAt used size b) ∧
  (∀ b : Block, b.ckpt = none → b.slices = (b.warps.filter (fun w => w.threads.any (fun th => th.live || !th.owed.isEmpty))).length) ∧
  (∀ (s : State) core warps size base,
    let here := (s.blocks.filter (fun p => p.2.core = core ∧ p.2.saved = none)).map (fun p => p.2)
    s.coreFits core warps size = some base ↔ here.length < 8 ∧ (here.map Block.slices).sum + warps ≤ 8 ∧
      fitRegion (here.map (fun b => (b.scrBase, b.scrSize))) size = some base) ∧
  (∀ (s : State) ctx warps size loft avoid c, Tab.find s.ctxs ctx = some c →
    let takes (cl : Nat) : Prop := (s.cluster cl).healthy = true ∧ avoid ≠ some cl ∧ (∀ l, s.dev.siloLoad = some l → l.die ≠ cl / 64) ∧
      loft ≤ c.loft.getD (cl / 64) 0 * 65536 - c.loftUsed.getD (cl / 64) 0
    let fits (cl n : Nat) : Prop := ∃ b, s.coreFits (4 * cl + n) warps size = some b
    (∀ core base, s.findCore ctx warps size loft avoid = some (core, base) ↔
      ∃ i : Nat, packageOrder[i]? = some (core / 4) ∧ takes (core / 4) ∧ s.coreFits core warps size = some base ∧
        (∀ n, n < core % 4 → ¬ fits (core / 4) n) ∧
        ∀ (j : Nat) cl, j < i → packageOrder[j]? = some cl → takes cl → ∀ n, n < 4 → ¬ fits cl n) ∧
    (s.findCore ctx warps size loft avoid = none ↔ ∀ cl ∈ packageOrder, takes cl → ∀ n, n < 4 → ¬ fits cl n))

/-- A block as a launch's next one starts: what the launch gives it, and its registers. -/
def BlockOf (l : Launch) (lid idx core base : Nat) (u : List Word) (b : Block) : Prop :=
  b.lid = lid ∧ b.ctx = l.ctx ∧ b.idx = idx ∧ b.core = core ∧ b.scrBase = base ∧ b.scrSize = l.desc.scratch ∧ b.loftSize = l.desc.loft ∧ b.kind = .kernel ∧
    b.prot = l.desc.lflags.toNat % 4 ∧ b.grid = l.desc.lflags.getLsbD 2 ∧ b.evpend = 0 ∧ b.held = [] ∧ b.out = [] ∧
    b.ckpt = (if l.desc.lflags.toNat % 4 = 0 then none else some b.warps) ∧ StartsAs b u l.desc.threads l.desc.entry

/-- R25, R28, R150, R158, R320, R325, R361, R366: the next block of a launch along its curve goes to the first core with room, with the registers that the
rules give; its region reads zero, nothing else of the scratchpads changes, and its loft is taken. Under P2 its twin starts with it on another cluster, at the same
offsets and from the same state; without room for both none starts. -/
def BlockPlaced : Prop :=
  ∀ (s : State) lid l, Tab.find s.launches lid = some l →
    (l.next = none → s.placeNext lid = none) ∧
    ∀ p, l.next = some p →
      let d := l.desc
      let idx := p.x + d.gx * (p.y + d.gy * p.z)
      let w (n : Nat) : Word := BitVec.ofNat 32 n
      let prot := d.lflags.toNat % 4
      let uni (base : Nat) : List Word := [w idx, w p.x, w p.y, w p.z, d.arg.extractLsb' 0 32, d.arg.extractLsb' 32 32, w lid, w (lid / 2 ^ 32),
        w (d.gx * d.gy * d.gz), w d.threads, w base, w prot]
      let find (avoid : Option Nat) : Option (Nat × Nat) := s.findCore l.ctx ((d.threads + 31) / 32) d.scratch (loftNeed d) avoid
      (find none = none → s.placeNext lid = none) ∧
      (∀ core base, prot ≠ 2 → find none = some (core, base) →
        ∃ t b l', s.placeNext lid = some t ∧ t.block? (s.tags + 1) = some b ∧ BlockOf l lid idx core base (uni base) b ∧ b.twin = none ∧ b.primary = true ∧
          (∀ k, k < d.scratch → t.scr.byte (core * 262144 + base + k) = 0) ∧
          (∀ k, (k < core * 262144 + base ∨ core * 262144 + base + d.scratch ≤ k) → t.scr.byte k = s.scr.byte k) ∧ t.mem = s.mem ∧
          (∀ k, k ≠ s.tags + 1 → t.block? k = s.block? k) ∧
          (∀ c n, Tab.find s.ctxs l.ctx = some c → c.loftUsed[core / 256]? = some n →
            ∃ c', Tab.find t.ctxs l.ctx = some c' ∧ c'.loftUsed[core / 256]? = some (n + loftNeed d)) ∧
          Tab.find t.launches lid = some l' ∧ l'.placed = l.placed + 1 ∧ l'.curZ = p.z ∧ l'.curD = p.d + 1 ∧ l'.desc = l.desc ∧ l'.lo = l.lo ∧ l'.hi = l.hi) ∧
      (∀ core base c, prot = 2 → find none = some (core, base) → s.block? (s.tags + 1) = none → Tab.find s.ctxs l.ctx = some c →
        (∀ k, k < 4 → let free := c.loft.getD k 0 * 65536 - c.loftUsed.getD k 0; free < loftNeed d ∨ 2 * loftNeed d ≤ free) →
        (find (some (core / 4)) = none → s.placeNext lid = none) ∧
        (∀ core2 base2, find (some (core / 4)) = some (core2, base2) →
          let apart := ∀ q ∈ s.blocks, q.2.core = core2 → q.2.saved = none → d.scratch = 0 ∨ q.2.scrSize = 0 ∨ q.2.scrBase + q.2.scrSize ≤ base ∨
            base + d.scratch ≤ q.2.scrBase
          (¬ apart → s.placeNext lid = none) ∧
          (apart → ∃ t b b2 l', s.placeNext lid = some t ∧ t.block? (s.tags + 1) = some b ∧ t.block? (s.tags + 2) = some b2 ∧ core2 / 4 ≠ core / 4 ∧
            BlockOf l lid idx core base (uni base) b ∧ BlockOf l lid idx core2 base (uni base) b2 ∧ b.twin = some (s.tags + 2) ∧ b2.twin = some (s.tags + 1) ∧
            b.primary = true ∧ b2.primary = false ∧ t.mem = s.mem ∧ Tab.find t.launches lid = some l' ∧ l'.placed = l.placed + 1)))

/-- R191, R320, R325, R336, R374: what BLOCK_PLACEMENT does for a launch: its next block where there is room; with GRID all that are left together, or none. A
launch that is complete, cancelled, a pre-emption victim or has no block left gets none. -/
def BlocksPlaced : Prop :=
  (∀ (s : State) lid l, Tab.find s.launches lid = some l → l.complete = false → l.victim = false → s.lidCancelled lid = false →
    (∀ a ∈ l.after, ∀ b, s.block? a.1 = some b → b.epoch ≠ a.2) →
    let rest := l.hi - l.lo - l.placed - l.skips.length
    rest ≠ 0 →
    (∀ t, l.desc.lflags.getLsbD 2 = false → s.placeNext lid = some t → exec (.blockPlacement lid) s = .next t) ∧
    (l.desc.lflags.getLsbD 2 = false → s.placeNext lid = none → exec (.blockPlacement lid) s = .next s) ∧
    (∀ chain : Nat → State, l.desc.lflags.getLsbD 2 = true → chain 0 = s →
      ((∀ i, i < rest → (chain i).placeNext lid = some (chain (i + 1))) → exec (.blockPlacement lid) s = .next (chain rest)) ∧
      (∀ n, n < rest → (∀ i, i < n → (chain i).placeNext lid = some (chain (i + 1))) → (chain n).placeNext lid = none →
        exec (.blockPlacement lid) s = .next s))) ∧
  (∀ (s : State) lid, (∀ l, Tab.find s.launches lid = some l → l.complete = true ∨ l.victim = true ∨ l.hi - l.lo - l.placed - l.skips.length = 0 ∨
    s.lidCancelled lid = true) → exec (.blockPlacement lid) s = .next s)

/-- R316, R321, R323, R324, Table 15-3: the dispatcher takes, of what fits the core, what stands first in the order of keys, where residency in the instruction
cache is a free value (log entry 75), and a partial item warp when nothing else waits. -/
def Dispatched : Prop :=
  (∀ hot ws w, Waiting.best hot ws = some w → (∃ i : Nat, ws[i]? = some w) ∧ ∀ (i : Nat) (v : Waiting), ws[i]? = some v → Waiting.before hot v w = false) ∧
  (∀ hot ws, Waiting.best hot ws = none ↔ ws = []) ∧
  (∀ (hot : Waiting → Bool) (a b : Waiting), Waiting.before hot a b = true ↔ b.prio < a.prio ∨ (a.prio = b.prio ∧ ((hot a = true ∧ hot b = false) ∨
    (hot a = hot b ∧ ((a.full = true ∧ b.full = false) ∨ (a.full = b.full ∧ a.id < b.id)))))) ∧
  (∀ (r : ReadyRec) (g : Gather), (Waiting.ready r).prio = r.task.flags.toNat / 16 % 16 ∧ (Waiting.items g).prio = 0 ∧ (Waiting.ready r).full = false ∧
    ((Waiting.items g).full = true ↔ 32 ≤ g.items.length) ∧ (Waiting.ready r).id = r.lid ∧ (Waiting.items g).id = g.seq) ∧
  (∀ (s : State) core,
    let ws := (s.die (coreDie core)).ready.map Waiting.ready ++ (s.cluster (coreCluster core)).formed.map Waiting.items
    let fits := ws.filter (fun w => (s.startOn core w).isSome)
    let c := s.cluster (coreCluster core)
    let open_ (g : Gather) : Bool := g.after.all (fun a => match s.block? a.1 with | some b => b.epoch != a.2 | none => true)
    (∀ w t, Waiting.best (s.hot core) fits = some w → s.startOn core w = some t → exec (.dispatch core) s = .next t) ∧
    (fits = [] → ws ≠ [] → exec (.dispatch core) s = .next s) ∧
    (ws = [] → (∀ g ∈ c.gather, open_ g = false) → exec (.dispatch core) s = .next s) ∧
    (∀ g, ws = [] → c.gather.find? open_ = some g →
      let s1 := s.updCluster (coreCluster core) (fun k => { k with
          gather := k.gather.erase g, formed := k.formed ++ [{ g with seq := k.itemSeq }], itemSeq := k.itemSeq + 1 })
      exec (.dispatch core) s = .next ((s1.startItems core { g with seq := c.itemSeq }).getD s)))

/-- R316, R318, R320, R324, R393, Table 15-3: a task starts as a block of 32 threads with its record's registers and leaves the queue; an item warp starts with its
payloads; on a core without room, or a die under a Silo load, none starts. A record of KIND 1 is performed as LAUNCH performs it, its faults reported. -/
def UnitsStart : Prop :=
  (∀ (s : State) core r, (∀ l, s.dev.siloLoad = some l → l.die ≠ coreDie core) →
    (∀ l, Tab.find s.launches r.lid = some l → ∀ a ∈ l.after, ∀ b, s.block? a.1 = some b → b.epoch ≠ a.2) →
    s.startOn core (.ready r) = if r.task.flags.toNat % 4 = 0 then s.startTask core r else s.startLaunch (coreDie core) r) ∧
  (∀ (s : State) core w l, s.dev.siloLoad = some l → l.die = coreDie core → s.startOn core w = none) ∧
  (∀ (s : State) core g, (∀ a ∈ g.after, ∀ b, s.block? a.1 = some b → b.epoch ≠ a.2) → s.startOn core (.items g) = s.startItems core g) ∧
  (∀ (s : State) core r c,
    let prot := r.task.flags.toNat / 4 % 4
    let size := 256 * (r.task.flags.toNat / 256 % 1024)
    let need := if prot = 0 then 0 else 4096 + 65536
    Tab.find s.ctxs r.ctx = some c →
    let room := core < 1024 ∧ (s.cluster (coreCluster core)).healthy = true ∧ (∀ l, s.dev.siloLoad = some l → l.die ≠ coreDie core) ∧
      need ≤ c.loft.getD (coreDie core) 0 * 65536 - c.loftUsed.getD (coreDie core) 0
    (¬ room ∨ s.coreFits core 1 size = none → s.startTask core r = none) ∧
    (∀ base, room → prot ≠ 2 → s.coreFits core 1 size = some base →
      ∃ t b, s.startTask core r = some t ∧ t.block? (s.tags + 1) = some b ∧ b.core = core ∧ b.lid = r.lid ∧ b.ctx = r.ctx ∧ b.kind = .task ∧ b.regs = 128 ∧
        b.unif = 64 ∧ b.loftSize = 0 ∧ b.prot = prot ∧ b.scrSize = size ∧ b.scrBase = base ∧
        StartsAs b [0, r.task.tx, r.task.ty, r.task.tz, r.task.arg.extractLsb' 0 32, r.task.arg.extractLsb' 32 32, BitVec.ofNat 32 r.lid,
          BitVec.ofNat 32 (r.lid / 2 ^ 32), 1, 32, BitVec.ofNat 32 base, BitVec.ofNat 32 prot] 32 r.task.entry ∧
        (t.die (coreDie core)).ready = (s.die (coreDie core)).ready.erase r ∧ t.mem = s.mem)) ∧
  (∀ (s : State) core g c, g.items.length ≤ 32 → g.items ≠ [] → Tab.find s.ctxs g.ctx = some c →
    let room := core < 1024 ∧ (s.cluster (coreCluster core)).healthy = true ∧ ∀ l, s.dev.siloLoad = some l → l.die ≠ coreDie core
    (¬ room ∨ s.coreFits core 1 0 = none → s.startItems core g = none) ∧
    (∀ base, room → s.coreFits core 1 0 = some base →
      ∃ t b w, s.startItems core g = some t ∧ t.block? (s.tags + 1) = some b ∧ b.core = core ∧ b.lid = g.lid ∧ b.kind = .item ∧ b.scrSize = 0 ∧ b.prot = 0 ∧
        b.warps = [w] ∧ w.threads.length = g.items.length ∧ w.s[0]?.getD 0 = BitVec.ofNat 32 g.seq ∧ w.s[9]?.getD 0 = BitVec.ofNat 32 g.items.length ∧
        (∀ (k : Nat) (pay : List Word) (th : Thread), g.items[k]? = some pay → w.threads[k]? = some th →
          th.pc = g.entry ∧ (∀ n, n < 4 → th.rw n = pay.getD n 0) ∧ ∀ n, 4 ≤ n → n < 128 → th.rw n = 0) ∧ t.mem = s.mem)) ∧
  (∀ (s : State) d r,
    let k : Creator := ⟨r.ctx, r.graph, r.phase, r.job, false, []⟩
    let task : TaskRec := { r.task with graph := 0, phase := 0, job := 0 }
    (∀ s1 x c, s.plan (unitReader r.ctx) k task = (s1, .error x) → Tab.find s1.ctxs r.ctx = some c →
      ∃ t c', s.startLaunch d r = some t ∧ (t.die d).ready = (s1.die d).ready.erase r ∧ t.mem = s1.mem ∧ t.blocks = s1.blocks ∧ t.launches = s1.launches ∧
        Tab.find t.ctxs r.ctx = some c' ∧ c'.waiting = c.waiting ++ [⟨⟨x.cause, 0, 7, 1, 0, 0, 0, r.addr, 0⟩, .report⟩]) ∧
    (∀ s1 p, s.plan (unitReader r.ctx) k task = (s1, .ok p) → p.desc.lflags.getLsbD 3 = false →
      ∃ t l, s.startLaunch d r = some t ∧ (t.die d).ready = (s1.die d).ready.erase r ∧ t.lidNext = s1.lidNext + 1 ∧ Tab.find t.launches s1.lidNext = some l ∧
        l.count = p.hi - p.lo ∧ l.desc = p.desc ∧ l.lo = p.lo ∧ l.hi = p.hi ∧ l.ctx = r.ctx ∧ l.succ = r.task.succ ∧ l.placed = 0 ∧ l.after = [] ∧
        l.graph = r.graph ∧ l.phase = r.phase ∧ l.job = r.job ∧ t.mem = s1.mem ∧ t.blocks = s1.blocks))

/-- R326: a write of 64 bytes at a 64-aligned offset of a window queues its record on die (offset >> 10), with the host as creator; any other write is
dropped and counted, and reported with operand (0x03). Shown where no launch of the context records (log entry 46). -/
def WindowWrites : Prop :=
  ∀ (s : State) slot off data c, Tab.find s.ctxs slot = some c → s.recLive slot = [] → off < 2 ^ 64 →
    let s1 := { s with dev := { s.dev with arrivals := s.dev.arrivals + 1 } }
    (data.length ≠ 64 ∨ off % 64 ≠ 0 ∨ 4096 ≤ off → ∃ t c', exec (.entryWindowWrite slot off data) s = .next t ∧ t = { s1 with ctxs := t.ctxs } ∧
      Tab.find t.ctxs slot = some c' ∧ c'.drops = c.drops + 1 ∧ c'.waiting = c.waiting ++ [⟨⟨3, 0, 7, 1, 0, 0, 0, BitVec.ofNat 64 off, 0⟩, .report⟩]) ∧
    (data.length = 64 → off % 64 = 0 → off < 4096 → (∃ k, k < 64 ∧ (s.cluster (64 * (off / 1024) + k)).healthy = true) →
      let d := off / 1024
      let r := TaskRec.of data
      let k : Creator := ⟨slot, 0, 0, 0, true, []⟩
      (65536 ≤ (s.die d).ready.length → exec (.entryWindowWrite slot off data) s = .next s) ∧
      ((s.die d).ready.length < 65536 → s1.recOk k r = true → s1.cutOff (r.under k) = false →
        exec (.entryWindowWrite slot off data) s = .next (s1.queueRec d k r (BitVec.ofNat 64 off))) ∧
      ((s.die d).ready.length < 65536 → s1.recOk k r = false → ∃ t c', exec (.entryWindowWrite slot off data) s = .next t ∧ t = { s1 with ctxs := t.ctxs } ∧
        Tab.find t.ctxs slot = some c' ∧ c'.waiting = c.waiting ++ [⟨⟨3, 0, 7, 1, 0, 0, 0, BitVec.ofNat 64 off, 0⟩, .report⟩]))

/-- R29, R30, R316, R318: a launch whose counter is 0 completes, and lowers the successor counter it names by one; a counter that comes to 0 so queues the record
at its successor address, if there is one, with the finished launch as its creator, on the die of the counter (log entry 28), and one that was 0 or less is
reported with operand (0x03) and its address (log entry 46). A kernel
block all of whose threads have exited leaves, with its launch's counter lowered and every store of its threads performed; a graph, phase or job completes
with all inside it. -/
def UnitsComplete : Prop :=
  (∀ (s : State) ctx lid l, Tab.find s.launches lid = some l → l.ctx = ctx →
    (l.complete = true ∨ l.count ≠ 0 → exec (.unitCompletion ctx 1 lid) s = .next s) ∧
    (l.complete = false → l.count = 0 → l.succ = 0 →
      exec (.unitCompletion ctx 1 lid) s = .next { s with launches := Tab.upd s.launches lid (fun l => { l with complete := true }) }) ∧
    (∀ c key pte, l.complete = false → l.count = 0 → l.succ ≠ 0 → Tab.find s.ctxs ctx = some c →
      s.engAccess ctx 0 ⟨.write, true, fmtRaw, true⟩ 16 l.succ 16 = .ok [(key, pte)] → s.memBad ((List.range 16).map (fun k => key + k)) = false →
      (s.die (key / 128 % 256 / 64)).ready.length < 65536 →
      let n : Int := (BitVec.ofNat 32 (leVal (s.mem.bytes key 4))).toInt
      let lowered (t : State) : Prop := leVal (t.mem.bytes key 4) = (BitVec.ofInt 32 (n - 1)).toNat ∧ MemKept s t ((List.range 4).map (fun k => key + k)) ∧
        t.launches = Tab.upd s.launches lid (fun l => { l with complete := true }) ∧ t.dies = s.dies
      let next := entryAt s.mem (key + 8)
      (1 < n ∨ (n = 1 ∧ next = 0) → ∃ t, exec (.unitCompletion ctx 1 lid) s = .next t ∧ lowered t ∧ t.ctxs = s.ctxs) ∧
      (n ≤ 0 → ∃ t c', exec (.unitCompletion ctx 1 lid) s = .next t ∧ lowered t ∧ Tab.find t.ctxs ctx = some c' ∧
        c'.waiting = c.waiting ++ [⟨⟨3, 0, 7, 1, 0, lid, 0, l.succ, 0⟩, .report⟩]) ∧
      (n = 1 → next ≠ 0 → ∃ s1, lowered s1 ∧ s1.ctxs = s.ctxs ∧ s1.lidNext = s.lidNext ∧ ∀ bs,
        s1.engRead ctx 0 ⟨.read, false, fmtRaw, true⟩ 64 next 64 = .ok bs → s1.lidCancelled lid = false →
        let k : Creator := ⟨ctx, l.graph, l.phase, l.job, false, []⟩
        s1.recOk k (TaskRec.of bs) = true → s1.cutOff ((TaskRec.of bs).under k) = false →
          exec (.unitCompletion ctx 1 lid) s = .next (s1.queueRec (key / 128 % 256 / 64) k (TaskRec.of bs) next)))) ∧
  (∀ (s : State) ctx blk b l, s.block? blk = some b → b.ctx = ctx → b.twin = none → b.primary = true → b.prot = 0 → b.saved = none → b.kind = .kernel →
    (∀ w ∈ b.warps, ∀ th ∈ w.threads, th.live = false ∧ th.owed = []) → s.forked blk = false → Tab.find s.launches b.lid = some l →
    ∃ t l', exec (.unitCompletion ctx 0 blk) s = .next t ∧ t.block? blk = none ∧ Tab.find t.launches b.lid = some l' ∧ l'.count = l.count - 1 ∧
      t.scr = s.scr ∧ (∀ obj x, (blk, x) ∉ (t.sync obj).1) ∧
      (b.out = [] → (∀ p ∈ s.clusters, ∀ q ∈ p.2.atomQ, ∀ x ∈ q.parts, x.t.blk ≠ blk) → (∀ w ∈ b.warps, ∀ th ∈ w.threads, ∀ o ∈ th.stq, o.peer = none) →
        ∀ k, (∀ obj, s.sync obj ≠ ([], []) → k < obj ∨ obj + 16 ≤ k) →
          t.mem.byte k = lastAt (b.warps.flatMap (fun w => w.threads.flatMap (fun th => th.stq.flatMap (fun o => o.keys.zip o.data)))) k (s.mem.byte k))) ∧
  (∀ (s : State) ctx blk b, s.block? blk = some b → (∃ w ∈ b.warps, ∃ th ∈ w.threads, th.live = true ∨ th.owed ≠ []) →
    exec (.unitCompletion ctx 0 blk) s = .next s) ∧
  (∀ (s : State) ctx code id c, Tab.find s.ctxs ctx = some c → 2 ≤ code → code ≤ 4 →
    let done := if code = 2 then (∀ p ∈ s.launches, p.2.ctx = ctx → p.2.graph = id → p.2.complete = true) ∧
          ∀ d ∈ s.dies, ∀ r ∈ d.2.ready, ¬ (r.task.flags.toNat % 4 = 1 ∧ r.ctx = ctx ∧ r.graph = id)
      else if code = 3 then (∀ p, c.phase = some p → p.id = id → p.ended = true) ∧ ∀ g ∈ c.graphs, g.2.parent = id → g.2.complete = true
      else ∀ p ∈ c.phases, p.2.parent = id → p.2.complete = true
    (¬ done → exec (.unitCompletion ctx code id) s = .next s) ∧
    (done → ∃ t c', exec (.unitCompletion ctx code id) s = .next t ∧ t = { s with ctxs := t.ctxs } ∧ Tab.find t.ctxs ctx = some c' ∧
      let tab (c : Ctx) : Tab Level := if code = 2 then c.graphs else if code = 3 then c.phases else c.jobs
      tab c' = Tab.upd (tab c) id (fun l => { l with complete := true })))

/-- R196: a phase whose counters have all come down ends: PHASE is set in the blocks of its context. A phase over several devices first sends this
device's result to every other rank of its group, and ends once every rank's has come; results that come are kept (log entry 47). -/
def PhaseEnds : Prop :=
  (∀ (s : State) ctx c p, Tab.find s.ctxs ctx = some c → c.phase = some p →
    let low := ∃ x ∈ p.counts, 0 < x.2.msg ∨ 0 < x.2.task ∨ 0 < x.2.eng ∨ 0 < x.2.store ∨ 0 < x.2.arr
    (p.ended = true ∨ low → exec (.phaseEnd ctx) s = .next s) ∧
    let ends : Prop := ∃ t c', exec (.phaseEnd ctx) s = .next t ∧ Tab.find t.ctxs ctx = some c' ∧
      c'.phase = some { p with ended := true, cancelled := false } ∧ t.mem = s.mem ∧ t.outbox = s.outbox ∧ (∀ x, x ∈ c'.m2s ↔ x ∈ c.m2s ∧ x.1 ≠ p.id) ∧
      ∀ k b, s.block? k = some b → b.ctx = ctx → ∃ b', t.block? k = some b' ∧ b' = { b with evpend := b.evpend ||| 2 }
    (p.ended = false → ¬ low → p.scope ≠ 2 → ends) ∧
    (p.ended = false → ¬ low → p.scope = 2 → p.sent = false → ∃ t c', exec (.phaseEnd ctx) s = .next t ∧
      t.outbox = s.outbox ++ (p.ranks.eraseIdx p.me).map (fun r => .m2phase r.1 r.2 p.id) ∧
      Tab.find t.ctxs ctx = some c' ∧ c'.phase = some { p with sent := true } ∧ c'.m2s = (p.id, p.me) :: c.m2s ∧ t.blocks = s.blocks ∧ t.mem = s.mem) ∧
    (p.ended = false → ¬ low → p.scope = 2 → p.sent = true → (∃ r, r < p.ranks.length ∧ (p.id, r) ∉ c.m2s) → exec (.phaseEnd ctx) s = .next s) ∧
    (p.ended = false → ¬ low → p.scope = 2 → p.sent = true → (∀ r, r < p.ranks.length → (p.id, r) ∈ c.m2s) → ends)) ∧
  (∀ (s : State) ctx id rank c, Tab.find s.ctxs ctx = some c → ∃ t c', exec (.phaseCompletionMessage ctx id rank) s = .next t ∧
    t = { s with ctxs := t.ctxs } ∧ Tab.find t.ctxs ctx = some c' ∧ (∀ x, x ∈ c'.m2s ↔ x ∈ c.m2s ∨ x = (id, rank)))

/-- The level that an id of CANCEL or COUNTR names (R335): 0 names the one that holds the issuing block. -/
def levelNamed (s : State) (e : Env) (code id : Nat) : Nat :=
  let lid := ((s.block? e.blk).map Block.lid).getD 0
  if id ≠ 0 then id
  else if code = 1 then lid
  else match Tab.find s.launches lid with
    | some l => if code = 2 then l.graph else if code = 3 then l.phase else l.job
    | none => 0

/-- The status word of Table 15-10. -/
def levelBits (l : Bool × Bool × Bool) : Word := BitVec.ofNat 32 (1 + (if l.1 then 2 else 0) + (if l.2.1 then 4 else 0) + (if l.2.2 then 8 else 0))

/-- Something of a launch that a cancel can stop (R30, R229): a queued record, blocks not placed, items, a running block with a live thread, a pair launch whose
drain has not begun. -/
def SomeLeft (s : State) (id : Nat) (x : Launch) : Prop :=
  (∃ d ∈ s.dies, ∃ r ∈ d.2.ready, r.lid = id) ∨ x.lo + x.placed + x.skips.length < x.hi ∨
  (∃ c ∈ s.clusters, ∃ g ∈ c.2.gather ++ c.2.formed, g.lid = id ∧ g.items ≠ []) ∨
  (∃ k b, s.block? k = some b ∧ b.lid = id ∧ b.primary = true ∧ b.kind ≠ .handler ∧ ∃ w ∈ b.warps, ∃ th ∈ w.threads, th.live = true) ∨
  (∃ p, Tab.find s.pairs id = some p ∧ p.begunDrain = false)

/-- R180: the waits of ACQ, BAR and BARWAIT, GBAR, SWWAIT, TLWAIT, PHSET and PHWAIT, which a cancel ends. -/
def CancelEnds : Hold → Prop
  | .acq _ _ | .bar _ _ _ | .gbar _ | .swwait _ _ | .tlwait _ _ _ | .phset _ _ _ _ | .phwait _ => True
  | _ => False

/-- R29, R180, R335 to R337: a code above 4 raises operand (0x03). CANCEL of a level that has completed or does not exist, or of a launch with nothing left to stop,
writes 0 and does nothing; of a live launch with work left it writes 1, marks it cancelled, abandons what has not started, and in what runs sets CANCEL and
ends the waits (log entry 45).
COUNTR owes the level's counter of Table 1-9, saturated, and its status. -/
def LevelInstructions : Prop :=
  ∀ (f : FmtA) s iss rest l e,
    let code := (e.b f).toNat
    let id := (e.pair f.a).toNat % 2 ^ 48
    (∀ op sh, Alone s (.cancel f) op sh iss rest l e →
      (4 < code → FaultsAt (.cancel f) s iss rest e s (.of 0x03)) ∧
      (code = 1 → id ≠ 0 → (∀ x, Tab.find s.launches id = some x → x.ctx ≠ e.ctx ∨ x.complete = true) →
        ∃ th, owes e (toDp f false) th ∧ Completes (.cancel f) s op sh iss l e s th) ∧
      (∀ c, 2 ≤ code → code ≤ 4 → id ≠ 0 → Tab.find s.ctxs e.ctx = some c →
        (∀ x, Tab.find (if code = 2 then c.graphs else if code = 3 then c.phases else c.jobs) id = some x → x.complete = true) →
        ∃ th, owes e (toDp f false) th ∧ Completes (.cancel f) s op sh iss l e s th) ∧
      (∀ x, code = 1 → id ≠ 0 → Tab.find s.launches id = some x → x.ctx = e.ctx → x.complete = false → x.cancelled = false → SomeLeft s id x →
        (∀ b, s.block? e.blk = some b → b.lid ≠ id) → (∀ p ∈ s.blocks, p.2.lid = id → p.2.stopCause = none ∧ ∀ k o, p.2.twin = some k → s.block? k = some o → o.lid = id) →
        ∃ s1 x', Ends (.cancel f) s op sh iss l e s1 (fun base th => owesFrom base e (toDp f true) th) ∧ Tab.find s1.launches id = some x' ∧
          x'.cancelled = true ∧ x'.count ≤ x.count ∧
          ((∀ d ∈ s.dies, ∀ r ∈ d.2.ready, r.lid ≠ id) → (∀ c ∈ s.clusters, ∀ g ∈ c.2.gather ++ c.2.formed, g.lid ≠ id) →
            x'.count = x.count - (x.hi - x.lo - x.placed - x.skips.length) ∧ x'.succ = if x.lo < x.hi ∧ x.placed = 0 then 0 else x.succ) ∧
          (∀ d, ∀ r ∈ (Tab.get Die.new s1.dies d).ready, r.lid = id → r.task.flags.toNat % 4 ≠ 0) ∧
          (∀ c, ∀ g ∈ (s1.cluster c).gather ++ (s1.cluster c).formed, g.lid ≠ id) ∧
          (∀ k b, s.block? k = some b → b.lid = id → b.primary = true → b.kind ≠ .handler → (∃ w ∈ b.warps, ∃ th ∈ w.threads, th.live = true) →
            (∃ b', s1.block? k = some b' ∧ b'.evpend.getLsbD 2 = true) ∧
            ∀ wp m th h, s.thread? ⟨k, wp, m⟩ = some th → th.hold = some h → CancelEnds h → ∃ th', s1.thread? ⟨k, wp, m⟩ = some th' ∧ th'.hold = none)) ∧
      (∀ x, code = 1 → id ≠ 0 → Tab.find s.launches id = some x → x.ctx = e.ctx → x.complete = false → ¬ SomeLeft s id x →
        (∀ p ∈ s.blocks, p.2.lid ≠ id) → (∀ c ∈ s.clusters, ∀ m ∈ c.2.msgs, m.lid ≠ id) →
        ∃ th, owes e (toDp f false) th ∧ Completes (.cancel f) s op sh iss l e s th)) ∧
    (∀ op sh, Alone s (.countr f) op sh iss rest l e →
      (4 < code → FaultsAt (.countr f) s iss rest e s (.of 0x03)) ∧
      let gives (n : Nat) (st : Word) : Prop := ∃ th, owes e (toD f [BitVec.ofNat 32 (min n (2 ^ 32 - 1)), st]) th ∧ Completes (.countr f) s op sh iss l e s th
      (∀ b, code = 0 → id = 0 → s.block? e.blk = some b → gives
        ((b.warps.filter (fun w => w.threads.any (fun th => th.live))).length + ((b.warps.flatMap (fun w => w.threads)).map (fun th => th.owed.length)).sum)
        (levelBits (false, b.evpend.getLsbD 2, match Tab.find s.launches b.lid with | some x => x.bads.contains b.idx | none => false))) ∧
      (∀ x, code = 1 → Tab.find s.launches (levelNamed s e 1 id) = some x → x.ctx = e.ctx → gives
        (match Tab.find s.pairs (levelNamed s e 1 id) with
         | some p => if x.complete then 0 else max 1 (if p.desc.emit then 0 else p.items.length - p.finished - p.abandoned)
         | none => x.count)
        (levelBits (x.complete, x.cancelled, x.failed))) ∧
      (∀ c, 2 ≤ code → code ≤ 4 → Tab.find s.ctxs e.ctx = some c →
        let n := levelNamed s e code id
        gives
          (if code = 2 then (s.launches.filter (fun x => x.2.ctx == e.ctx && x.2.graph == n && !x.2.complete)).length +
              (s.dies.flatMap (fun d => d.2.ready.filter (fun r => r.task.flags.toNat % 4 == 1 && r.ctx == e.ctx && r.graph == n))).length
           else if code = 3 then (match c.phase with
             | some p => if p.id = n ∧ p.ended = false then
                 (p.counts.map (fun x => x.2.msg.toNat + x.2.task.toNat + x.2.eng.toNat + x.2.store.toNat + x.2.arr.toNat)).sum else 0
             | none => 0)
           else (c.phases.filter (fun x => x.2.parent == n && !x.2.complete)).length)
          (match Tab.find (if code = 2 then c.graphs else if code = 3 then c.phases else c.jobs) n with
           | some x => levelBits (x.complete, x.cancelled, x.failed)
           | none => 0)))

/-- A launch is a level, or inside it. -/
def InLevel (code n lid : Nat) (x : Launch) : Prop :=
  if code = 1 then lid = n else if code = 2 then x.graph = n else if code = 3 then x.phase = n else x.job = n

/-- Something of a graph, phase or job of a context that a cancel can stop (R30): of a launch in it, a queued record, a MSGREM, or its phase. -/
def LevelLeft (s : State) (ctx code n : Nat) : Prop :=
  (∃ lid x, Tab.find s.launches lid = some x ∧ x.ctx = ctx ∧ InLevel code n lid x ∧ x.complete = false ∧ SomeLeft s lid x) ∨
  (∃ d ∈ s.dies, ∃ r ∈ d.2.ready, r.task.flags.toNat % 4 = 1 ∧ r.ctx = ctx ∧ (if code = 2 then r.graph else if code = 3 then r.phase else r.job) = n) ∨
  (∃ c ∈ s.clusters, ∃ m ∈ c.2.msgs, m.kind = 2 ∧ ∃ x, Tab.find s.launches m.lid = some x ∧ x.ctx = ctx ∧ InLevel code n m.lid x) ∨
  (∃ c p, Tab.find s.ctxs ctx = some c ∧ c.phase = some p ∧ p.ended = false ∧
    (code = 3 ∧ p.id = n ∨ code = 4 ∧ ∃ y, Tab.find c.phases p.id = some y ∧ y.parent = n))

/-- R30, R180, R334 to R336: CANCEL of a live graph, phase or job with something left writes 1, marks it and what inside it has something left, abandons its queued
records, withdraws its MSGREM operations and ends its phase; one with nothing left, that has completed or does not exist writes 0 (log entry 45). Shown where no
thread is stopped by a fault. -/
def Cancels : Prop :=
  ∀ (f : FmtA) s op sh iss rest r e c, Alone s (.cancel f) op sh iss rest (.thr r) e → Tab.find s.ctxs e.ctx = some c →
    let code := (e.b f).toNat
    let n := levelNamed s e code ((e.pair f.a).toNat % 2 ^ 48)
    let level (c : Ctx) : Option Level := Tab.find (if code = 2 then c.graphs else if code = 3 then c.phases else c.jobs) n
    2 ≤ code → code ≤ 4 →
    ((∀ x, level c = some x → x.complete = true) → ∃ th, owes e (toDp f false) th ∧ Completes (.cancel f) s op sh iss (.thr r) e s th) ∧
    ((∀ p ∈ s.launches, p.2.ctx = e.ctx → InLevel code n p.1 p.2 → p.2.complete = true) →
      (∀ d ∈ s.dies, ∀ q ∈ d.2.ready, q.task.flags.toNat % 4 = 1 → q.ctx = e.ctx → (if code = 2 then q.graph else if code = 3 then q.phase else q.job) ≠ n) →
      (∀ k ∈ s.clusters, ∀ m ∈ k.2.msgs, m.kind = 2 → ∀ x, Tab.find s.launches m.lid = some x → ¬ InLevel code n m.lid x) →
      (∀ p, c.phase = some p → p.ended = true) →
      ∃ th, owes e (toDp f false) th ∧ Completes (.cancel f) s op sh iss (.thr r) e s th) ∧
    (∀ x, level c = some x → x.complete = false → LevelLeft s e.ctx code n → (∀ p ∈ s.blocks, p.2.stopCause = none) →
      ∃ s1 c' x', Ends (.cancel f) s op sh iss (.thr r) e s1 (fun base th => owesFrom base e (toDp f true) th) ∧
        Tab.find s1.ctxs e.ctx = some c' ∧ level c' = some x' ∧ x'.cancelled = true ∧ x'.complete = false ∧
        (∀ g y, Tab.find c.graphs g = some y → y.complete = false → LevelLeft s e.ctx 2 g →
          (code = 3 ∧ y.parent = n ∨ code = 4 ∧ ∃ ph, Tab.find c.phases y.parent = some ph ∧ ph.parent = n) →
          ∃ y', Tab.find c'.graphs g = some y' ∧ y'.cancelled = true) ∧
        (∀ ph y, Tab.find c.phases ph = some y → y.complete = false → LevelLeft s e.ctx 3 ph → code = 4 → y.parent = n →
          ∃ y', Tab.find c'.phases ph = some y' ∧ y'.cancelled = true) ∧
        (∀ lid y, Tab.find s.launches lid = some y → y.ctx = e.ctx → InLevel code n lid y → y.complete = false → SomeLeft s lid y →
          (∀ d ∈ s.dies, ∀ q ∈ d.2.ready, q.lid = lid → q.task.flags.toNat % 4 = 0) → ∃ y', Tab.find s1.launches lid = some y' ∧ y'.cancelled = true) ∧
        (∀ d, ∀ q ∈ (s1.die d).ready, q.task.flags.toNat % 4 = 1 → q.ctx = e.ctx →
          (if code = 2 then q.graph else if code = 3 then q.phase else q.job) ≠ n) ∧
        (∀ k, ∀ m ∈ (s1.cluster k).msgs, m.kind = 2 → ∀ p ∈ s.launches, p.1 = m.lid → p.2.ctx = e.ctx → ¬ InLevel code n p.1 p.2) ∧
        (∀ p, c.phase = some p → p.ended = false → (code = 3 ∧ p.id = n ∨ code = 4 ∧ ∃ y, Tab.find c.phases p.id = some y ∧ y.parent = n) →
          ∃ p', c'.phase = some p' ∧ p'.id = p.id ∧ p'.ended = true ∧ p'.cancelled = true))

/-- Block i of a launch has not been placed: it is of the share, not abandoned, and stands at or after the cursor on the curve. -/
def NotPlaced (x : Launch) (i : Nat) : Prop :=
  let d := x.desc
  x.lo ≤ i ∧ i < x.hi ∧ i ∉ x.skips ∧ ∃ t, t < 4 ^ d.order ∧ hilbert d.order t = (i % (d.gx * d.gy) % d.gx, i % (d.gx * d.gy) / d.gx) ∧
    (x.curZ < i / (d.gx * d.gy) ∨ (x.curZ = i / (d.gx * d.gy) ∧ x.curD ≤ t))

/-- The running block that an id of code 0 names: the issuer's own, or the one of that index of its launch. -/
def BlockNamed (s : State) (e : Env) (id k : Nat) (b : Block) : Prop :=
  s.block? k = some b ∧ b.primary = true ∧ (if id = 0 then k = e.blk else
    ∃ o, s.block? e.blk = some o ∧ ∀ p ∈ s.blocks, (p.2.lid = o.lid ∧ p.2.idx = id ∧ p.2.primary = true ∧ p.2.kind ≠ .item ∧ p.2.kind ≠ .pair) ↔ p.1 = k)

/-- No block of the issuer's launch with this index runs. -/
def NoneNamed (s : State) (e : Env) (id : Nat) (x : Launch) : Prop :=
  ∃ o, s.block? e.blk = some o ∧ Tab.find s.launches o.lid = some x ∧
    ∀ p ∈ s.blocks, ¬ (p.2.lid = o.lid ∧ p.2.idx = id ∧ p.2.primary = true ∧ p.2.kind ≠ .item ∧ p.2.kind ≠ .pair)

/-- R30, R180, R335 to R337: CANCEL of a running block with a live thread writes 1, sets CANCEL there and ends its waits, or kills it where one of its threads is
stopped; of one not placed yet it writes 1 and abandons it; of any other it writes 0 (log entry 45). COUNTR of a block by its index gives the same as of
the issuer's own, or of one that does not run a count of 0 and whether it has completed, was cancelled or failed. -/
def BlockCancels : Prop :=
  ∀ (f : FmtA) s iss rest r e,
    let code := (e.b f).toNat
    let id := (e.pair f.a).toNat % 2 ^ 48
    code = 0 →
    (∀ op sh, Alone s (.cancel f) op sh iss rest (.thr r) e →
      let zero : Prop := ∃ th, owes e (toDp f false) th ∧ Completes (.cancel f) s op sh iss (.thr r) e s th
      (∀ k b, BlockNamed s e id k b → b.twin = none → s.forked k = false →
        let lives := ∃ w ∈ b.warps, ∃ th ∈ w.threads, th.live = true
        let stopped := ∃ w ∈ b.warps, ∃ th ∈ w.threads, th.live = true ∧ th.stop ≠ none
        (¬ lives → zero) ∧
        (lives → ¬ stopped → ∃ s1 b', Ends (.cancel f) s op sh iss (.thr r) e s1 (fun base th => owesFrom base e (toDp f true) th) ∧
          s1.block? k = some b' ∧ b'.evpend.getLsbD 2 = true ∧ s1.scr = s.scr ∧
          (∀ a, (∀ obj, s.sync obj ≠ ([], []) → a < obj ∨ obj + 16 ≤ a) → s1.mem.byte a = s.mem.byte a) ∧
          (∀ x, Tab.find s.launches b.lid = some x → ∃ x', Tab.find s1.launches b.lid = some x' ∧ b.idx ∈ x'.cuts ∧ x'.count = x.count ∧ x'.cancelled = x.cancelled) ∧
          ∀ wp m th h, s.thread? ⟨k, wp, m⟩ = some th → th.hold = some h → CancelEnds h → ∃ th', s1.thread? ⟨k, wp, m⟩ = some th' ∧ th'.hold = none) ∧
        (stopped → k ≠ e.blk → ∃ s1, Ends (.cancel f) s op sh iss (.thr r) e s1 (fun base th => owesFrom base e (toDp f true) th) ∧ s1.block? k = none)) ∧
      (∀ x, id ≠ 0 → NoneNamed s e id x →
        (x.cancelled = true ∨ ¬ NotPlaced x id → zero) ∧
        (x.cancelled = false → NotPlaced x id → ∀ o, s.block? e.blk = some o →
          Ends (.cancel f) s op sh iss (.thr r) e { s with launches := Tab.upd s.launches o.lid (fun x => { x with skips := id :: x.skips, count := x.count - 1 }) }
            (fun base th => owesFrom base e (toDp f true) th)))) ∧
    (∀ op sh, Alone s (.countr f) op sh iss rest (.thr r) e →
      let gives (n : Nat) (st : Word) : Prop := ∃ th, owes e (toD f [BitVec.ofNat 32 (min n (2 ^ 32 - 1)), st]) th ∧ Completes (.countr f) s op sh iss (.thr r) e s th
      (∀ k b, BlockNamed s e id k b → gives
        ((b.warps.filter (fun w => w.threads.any (fun th => th.live))).length + ((b.warps.flatMap (fun w => w.threads)).map (fun th => th.owed.length)).sum)
        (levelBits (false, b.evpend.getLsbD 2, match Tab.find s.launches b.lid with | some x => x.bads.contains b.idx | none => false))) ∧
      (∀ x, id ≠ 0 → NoneNamed s e id x →
        (id < x.lo ∨ max 1 x.hi ≤ id → gives 0 0) ∧
        (∀ done cut bad : Bool, x.lo ≤ id → id < max 1 x.hi → (done = false ↔ NotPlaced x id ∧ x.cancelled = false) →
          (cut = true ↔ id ∈ x.skips ∨ id ∈ x.cuts ∨ (x.cancelled = true ∧ NotPlaced x id)) → (bad = true ↔ id ∈ x.bads) →
          gives 0 (levelBits (done, cut, bad)))))

/-! ## Messages (R327 to R334) -/

/-- The thread's block has no store on its way to another device, held or not: a message has none to follow (R199, R328). -/
def HoldsNone (s : State) (e : Env) : Prop := ∃ b, s.block? e.blk = some b ∧ b.held = [] ∧ ∀ p ∈ b.out, p.2.peer = none

/-- R193, R331: an operation that the message engine takes: it gets the next number of timeline 4 at its cluster, which is owed; the numbered operation
is in flight, and its message goes out, behind others where it has to. -/
def Sent (i : Instr) (f : FmtA) (s : State) (op : Op) (sh : Shape) (iss : Issue) (r : TRef) (e : Env) (s1 : State) (kind : Nat) (g : Group) (outs : List OutMsg) : Prop :=
  let c := coreCluster e.core
  let n := ((s1.cluster c).tl 4).issued + 1
  ∃ s2 m, Ends i s op sh iss (.thr r) e s2 (fun base th => owesFrom base e (toD f [BitVec.ofNat 32 n, BitVec.ofNat 32 (n / 2 ^ 32)]) th) ∧
    m.num = n ∧ m.kind = kind ∧ m.ctx = e.ctx ∧ m.gid = g.gid ∧ m.rank = g.me ∧ (s2.cluster c).msgs = (s1.cluster c).msgs ++ [m] ∧ ((s2.cluster c).tl 4).issued = n ∧
    s2.outbox = s1.outbox ++ outs ∧ s2.mem = s1.mem ∧ s2.scr = s1.scr

/-- R193, R331, R334: an operation that fails as it is issued has its number, which is owed, and leaves a record of the message engine with that number. -/
def SentFails (i : Instr) (f : FmtA) (s : State) (op : Op) (sh : Shape) (iss : Issue) (r : TRef) (e : Env) (s1 : State) (cause : Nat) : Prop :=
  let c := coreCluster e.core
  let n := ((s1.cluster c).tl 4).issued + 1
  ∃ s2 q q' rc, Ends i s op sh iss (.thr r) e s2 (fun base th => owesFrom base e (toD f [BitVec.ofNat 32 n, BitVec.ofNat 32 (n / 2 ^ 32)]) th) ∧
    (s2.cluster c).msgs = (s1.cluster c).msgs ∧ s2.outbox = s1.outbox ∧ s2.mem = s1.mem ∧ Tab.find s1.ctxs e.ctx = some q ∧ Tab.find s2.ctxs e.ctx = some q' ∧
    q'.waiting = q.waiting ++ [⟨rc, .engine c 4⟩] ∧ rc.cause = cause ∧ rc.src = 6 ∧ rc.item = n

/-- R328, R331, R332, R369, R395, Table 15-8: MSGSEND reads its descriptor and its source after the thread's earlier operations are performed, and sends an M0 or an M1
to the rank it names, behind what its block's threads have stored there (R328); one to which no link leads, or whose source holds an uncorrectable error,
fails with cause 0x10. A breach of the table or a rank outside the group raises operand (0x03); a descriptor, a group or a source that fails its checks faults the
thread (log entries 47 and 58). -/
def MsgsendResults : Prop :=
  ∀ (f : FmtA) s op sh iss rest r e s1 bs, Alone s (.msgsend f) op sh iss rest (.thr r) e → e.prot = 0 →
    s.enginePosting (coreCluster e.core) 4 = false → rawReader e (s.settle r) 32 (e.pair f.a) 32 = (s1, bs) →
    (∀ x, bs = .error x → FaultsAt (.msgsend f) s iss rest e s1 x) ∧ ∀ bs', bs = .ok bs' →
    let bs := bs'
    let w : Word := BitVec.ofNat 32 (field bs 0x1C 4)
    let m1 := w.getLsbD 0
    let cnt := w.getLsbD 1
    let dcore := (w.extractLsb' 2 10).toNat
    let len := (w.extractLsb' 12 20).toNat
    let src : DWord := BitVec.ofNat 64 (field bs 8 8)
    let remote : DWord := BitVec.ofNat 64 (field bs 0x10 8)
    let rank := field bs 0x18 4
    let legal := (m1 = true → remote.toNat % 4 = 0 ∧ 1 ≤ len ∧ len ≤ 16384) ∧ (m1 = false → remote = 0 ∧ len = 16) ∧ (cnt = false → dcore = 0)
    let table : DWord := BitVec.ofNat 64 (field bs 0 8)
    let quiet (t : State) : Prop := (∀ x, Tab.find t.ctxs e.ctx = some x → x.phase = none) ∧
      ∀ m ∈ (t.cluster (coreCluster e.core)).msgs, m.num ≤ ((t.cluster (coreCluster e.core)).tl 4).issued
    (¬ legal → FaultsAt (.msgsend f) s iss rest e s1 (.of 0x03)) ∧
    (∀ s2 x, legal → s1.readGroup e.ctx (rawReader e) table = (s2, .error x) → FaultsAt (.msgsend f) s iss rest e s2 x) ∧
    (∀ s2 g, legal → s1.readGroup e.ctx (rawReader e) table = (s2, .ok g) →
      (g.ranks.length ≤ rank → FaultsAt (.msgsend f) s iss rest e s2 (.of 0x03)) ∧
      (∀ fid fn, g.ranks[rank]? = some (fid, fn) →
        (∀ s3 x, s2.access e.core e.ctx e.blk ⟨.read, false, fmtRaw, true⟩ (if m1 then 4 else 64) src (4 * len) = (s3, .error x) →
          FaultsAt (.msgsend f) s iss rest e s3 x) ∧
        (∀ s3 keys ptes s4 data, s2.access e.core e.ctx e.blk ⟨.read, false, fmtRaw, true⟩ (if m1 then 4 else 64) src (4 * len) = (s3, .ok (keys, ptes)) →
          s3.readBytes e src keys = (s4, data) →
          (∀ x, data = .error x → HoldsNone s4 e → quiet s4 → SentFails (.msgsend f) f s op sh iss r e s4 x.cause) ∧ ∀ data', data = .ok data' →
          let data := data'
          let reached := fid = s.dev.fid ∨ s.dev.links &&& ~~~s.dev.linkDown &&& Config.linksTo fid ≠ 0
          let tag : PhaseTag := if cnt then ⟨true, s4.phaseId e.ctx, dcore⟩ else ⟨false, 0, 0⟩
          let out : OutMsg := if m1 then .m1 fid fn remote tag data else .m0 fid fn tag data
          (reached → HoldsNone s4 e → Sent (.msgsend f) f s op sh iss r e s4 (if m1 then 1 else 0) g [out]) ∧
          (¬ reached → HoldsNone s4 e → quiet s4 → SentFails (.msgsend f) f s op sh iss r e s4 0x10) ∧
          (∀ c b u o k n fn' base, reached → Tab.find s4.ctxs e.ctx = some c → s4.block? e.blk = some b → b.ctx = e.ctx → b.held = [] → b.out = [(u, o)] → u.blk = e.blk →
            o.peer.isSome → n ≠ 0 → 3 * 2 ^ 52 ≤ k → o.keys = (List.range n).map (fun i => k + i) → o.data.length = n →
            peerOf s4.mem c (k - 3 * 2 ^ 52) = some (fid, fn', base) → s4.peerBad e.ctx (k - 3 * 2 ^ 52) = false →
            Sent (.msgsend f) f s op sh iss r e s4 (if m1 then 1 else 0) g
              [.m1 fid fn' (base + BitVec.ofNat 64 ((k - 3 * 2 ^ 52) % 2 ^ 40)) ⟨false, 0, 0⟩ o.data, out]))))

/-- R138, R331 to R334, R369, R395, Table 15-9: MSGREM sends its bins with their window as this rank's contribution to a sequence of its group. A count of 0 or above
4,096, a sequence number of 0, one in use by this rank, or pages whose windows differ raise operand (0x03); a descriptor, a group (0x1B), SRC or DST that fails its
checks faults the thread, so that a page of another format or with a window outside -100 to 40 raises 0x09; one that no link leads to any rank from, or
whose source holds an uncorrectable error, fails with cause 0x10. It waits for no commit (R331). -/
def MsgremResults : Prop :=
  ∀ (f : FmtA) s op sh iss rest r e s1 bs, Alone s (.msgrem f) op sh iss rest (.thr r) e → e.prot = 0 →
    s.enginePosting (coreCluster e.core) 4 = false → rawReader e (s.settle r) 32 (e.pair f.a) 32 = (s1, bs) →
    (∀ x, bs = .error x → FaultsAt (.msgrem f) s iss rest e s1 x) ∧ ∀ bs', bs = .ok bs' →
    let bs := bs'
    let n := field bs 0x18 4
    let seq := field bs 0x1C 4
    let src : DWord := BitVec.ofNat 64 (field bs 8 8)
    let dst : DWord := BitVec.ofNat 64 (field bs 0x10 8)
    let group := s1.readGroup e.ctx (rawReader e) (BitVec.ofNat 64 (field bs 0 8))
    let source (t : State) := t.access e.core e.ctx e.blk ⟨.read, false, fmtBin true, true⟩ 16 src (16 * n)
    let target (t : State) := t.access e.core e.ctx e.blk ⟨.write, false, fmtBin true, true⟩ 16 dst (16 * n)
    let legal := 1 ≤ n ∧ n ≤ 4096 ∧ seq ≠ 0
    (¬ legal → FaultsAt (.msgrem f) s iss rest e s1 (.of 0x03)) ∧
    (∀ s2 x, legal → group = (s2, .error x) → FaultsAt (.msgrem f) s iss rest e s2 x) ∧
    (∀ s2 g s3 x, legal → group = (s2, .ok g) → source s2 = (s3, .error x) → FaultsAt (.msgrem f) s iss rest e s3 x) ∧
    (∀ s2 g s3 keys ps s4 data s5 x, legal → group = (s2, .ok g) → source s2 = (s3, .ok (keys, ps)) → s3.readBytes e src keys = (s4, data) →
      target s4 = (s5, .error x) → FaultsAt (.msgrem f) s iss rest e s5 x) ∧
    (∀ s2 g s3 keys ps s4 data s5 keys2 qs, legal → group = (s2, .ok g) → source s2 = (s3, .ok (keys, ps)) → s3.readBytes e src keys = (s4, data) →
      target s4 = (s5, .ok (keys2, qs)) →
      let quiet := (∀ x, Tab.find s5.ctxs e.ctx = some x → x.phase = none) ∧
        ∀ m ∈ (s5.cluster (coreCluster e.core)).msgs, m.num ≤ ((s5.cluster (coreCluster e.core)).tl 4).issued
      let reached := (g.ranks.length = 1 ∧ g.me = 0) ∨ ∃ (i : Nat) (x : Nat × Nat), g.ranks[i]? = some x ∧ i ≠ g.me ∧
        (x.1 = s.dev.fid ∨ s.dev.links &&& ~~~s.dev.linkDown &&& Config.linksTo x.1 ≠ 0)
      let used := ∃ c ∈ s5.clusters, ∃ m ∈ c.2.msgs, m.kind = 2 ∧ m.gid = g.gid ∧ m.rank = g.me ∧ m.seq = seq
      let oneWindow := ∀ p ∈ ps ++ qs, pteWin p = pteWin (ps.headD 0)
      (used ∨ ¬ oneWindow → ps ≠ [] → FaultsAt (.msgrem f) s iss rest e s5 (.of 0x03)) ∧
      (∀ x, data = .error x → ¬ used → oneWindow → ps ≠ [] → quiet → SentFails (.msgrem f) f s op sh iss r e s5 x.cause) ∧
      (∀ bytes, data = .ok bytes → ¬ used → oneWindow → ps ≠ [] →
        (¬ reached → quiet → SentFails (.msgrem f) f s op sh iss r e s5 0x10) ∧
        (reached → Sent (.msgrem f) f s op sh iss r e s5 2 g [.m3 g.gid g.me seq (pteWin (ps.headD 0))
          ((List.range n).map (fun i => BitVec.ofNat 128 (leVal ((bytes.drop (16 * i)).take 16))))])))

/-- R326, R327, R332: an M0 queues its record as a window write of offset 0 (log entry 30), counts in the MSG counter its tag names, and its source hears of it
(log entry 31); an M1 writes its bytes in the destination context and is acknowledged to its source, or is acknowledged with its fault and writes
nothing (one whose walk meets an uncorrectable error with 0x10, R369). Shown where no launch of the context records. -/
def MessageArrivals : Prop :=
  ∀ (s : State) slot (src : Nat × Nat) data (tag : PhaseTag) c, Tab.find s.ctxs slot = some c → s.recLive slot = [] →
    let s1 := { s with dev := { s.dev with arrivals := s.dev.arrivals + 1 } }
    let counted (t : State) : State := if tag.cnt then t.updCtx slot (fun c => { c with phase := c.phase.map (fun p => p.arrive tag.phase tag.dcore ⟨-1, 0, 0, 0, 0⟩) }) else t
    (∀ t, s1.windowWrite slot 0 data = some t →
      exec (.m0Arrival slot data ⟨src, tag⟩) s = .next ((counted t).send c.fn (.m0done src.1 src.2))) ∧
    (s1.windowWrite slot 0 data = none → exec (.m0Arrival slot data ⟨src, tag⟩) s = .next s) ∧
    (∀ va, s.walkBad slot va = true → data ≠ [] → va.toNat % 65536 + data.length ≤ 65536 →
      exec (.m1Arrival slot va data ⟨src, tag⟩) s = .next (s1.send c.fn (.m1ack src.1 src.2 0x10 va))) ∧
    (∀ (va : DWord) w, va.toNat % 65536 + data.length ≤ 65536 → data ≠ [] → s.walkBad slot va = false → walk s.mem c.root va = some w →
      let pa := pteBase w.pte + (va.toNat - w.base)
      (inRange s.mem c (pteLoc w.pte) pa = true → (pteLoc w.pte = 1 ∨ pteLoc w.pte = 3 ∨ pteW w.pte = false) →
        exec (.m1Arrival slot va data ⟨src, tag⟩) s = .next (s1.send c.fn (.m1ack src.1 src.2 8 va))) ∧
      (inRange s.mem c (pteLoc w.pte) pa = true → pteLoc w.pte ≠ 1 → pteLoc w.pte ≠ 3 → pteW w.pte = true → fmtCopy w.pte = true →
        ∃ t, exec (.m1Arrival slot va data ⟨src, tag⟩) s = .next t ∧ t.mem.bytes (pteLoc w.pte * 2 ^ 52 + pa) data.length = data ∧
          MemKept s t ((List.range data.length).map (fun k => pteLoc w.pte * 2 ^ 52 + pa + k)) ∧ t.outbox = s.outbox ++ [.m1ack src.1 src.2 0 va] ∧ t.scr = s.scr)) ∧
    (∀ va, walk s.mem c.root va = none → s.walkBad slot va = false → data ≠ [] → va.toNat % 65536 + data.length ≤ 65536 →
      exec (.m1Arrival slot va data ⟨src, tag⟩) s = .next (s1.send c.fn (.m1ack src.1 src.2 7 va)))

/-- R327, R394, Table 18-5: a message of a function goes out in flits of at most 224 payload bytes, one at least, all of one class, destination and ADDR, the first
and the last marked, numbered on from the SEQ last given to that source, destination and class; a flit is 256 bytes. The payload of M2 and M3 and the
switch that a group's M3 goes to are free values (log entry 78). -/
def MessageFlits : Prop :=
  (∀ (s : State) fn m, (s.send fn m).outbox = s.outbox ++ [m] ∧ (s.send fn m).mem = s.mem ∧ (s.send fn m).blocks = s.blocks) ∧
  (∀ (s : State) fn m p, m.packet = some p → ∃ fs : List Flit, (s.send fn m).flits = s.flits ++ fs ∧ fs.flatMap (fun x => x.payload) = p.data ∧
    fs.length = max 1 ((p.data.length + 223) / 224) ∧
    (∀ (i : Nat) (x : Flit), fs[i]? = some x → x.cls = p.cls ∧ x.src = (s.dev.fid, fn) ∧ x.dst = p.dst ∧ x.addr = p.addr ∧ x.payload.length ≤ 224 ∧
      (x.first = true ↔ i = 0) ∧ (x.last = true ↔ i + 1 = fs.length) ∧ x.cnt = p.tag.cnt ∧
      x.phase = (if p.tag.cnt then p.tag.phase else 0) ∧ x.dcore = (if p.tag.cnt then p.tag.dcore else 0) ∧
      x.seq = (Tab.get 0 s.flitSeq (seqKey fn p.dst p.cls) + 1 + i) % 2 ^ 32)) ∧
  (∀ fid fn va tag data, OutMsg.packet (.m0 fid fn tag data) = some ⟨0, (fid, fn), 0, tag, data⟩ ∧
    OutMsg.packet (.m1 fid fn va tag data) = some ⟨1, (fid, fn), va, tag, data⟩) ∧
  (∀ f : Flit, f.payload.length ≤ 224 →
    let bs := f.bytes
    bs.length = 256 ∧ (bs.drop 32).take f.payload.length = f.payload ∧ (∀ i, 32 + f.payload.length ≤ i → i < 256 → bs.getD i 0 = 0) ∧
    field bs 0 1 = f.cls % 256 ∧ field bs 1 1 = (if f.first then 1 else 0) + (if f.last then 2 else 0) + (if f.cnt then 4 else 0) ∧
    field bs 2 2 = f.payload.length ∧ (f.src.1 < 2 ^ 24 → field bs 4 3 = f.src.1 ∧ field bs 7 1 = f.src.2 % 256) ∧
    (f.dst.1 < 2 ^ 24 → field bs 8 3 = f.dst.1 ∧ field bs 11 1 = f.dst.2 % 256) ∧ field bs 12 4 = f.seq % 2 ^ 32 ∧ field bs 16 8 = f.addr.toNat ∧
    field bs 24 6 = f.phase % 2 ^ 48 ∧ field bs 30 2 = f.dcore % 65536)

/-- R193, R331, R334: an acknowledgement ends its operation, or fails it with a record; contributions gather until every rank's is there; a window that
closes on an incomplete sequence aborts it; an aborted one is sent again; a full one writes the combination of all ranks' bins to each DST here (log
entry 31). Shown where the block has nothing stored there and nothing held (log entry 58). -/
def MessageCompletions : Prop :=
  (∀ (s : State) c num va m, num ≠ 0 → (s.cluster c).msgs = [m] → m.num = num → m.kind ≠ 2 → (∀ x, Tab.find s.ctxs m.ctx = some x → x.phase = none) →
    (∃ t, exec (.m1Acknowledgement c num 0 va) s = .next t ∧ (t.cluster c).msgs = [] ∧ t.mem = s.mem ∧
      (((s.cluster c).tl 4).done + 1 = num → ((s.cluster c).tl 4).late = [] → ((t.cluster c).tl 4).done = num) ∧ t.ctxs = s.ctxs) ∧
    (∀ cause x, cause ≠ 0 → Tab.find s.ctxs m.ctx = some x → ∃ t x' r, exec (.m1Acknowledgement c num cause va) s = .next t ∧ (t.cluster c).msgs = [] ∧
      Tab.find t.ctxs m.ctx = some x' ∧ x'.waiting = x.waiting ++ [⟨r, .engine c 4⟩] ∧ r.cause = cause ∧ r.src = 6 ∧ r.item = num ∧ r.va = va)) ∧
  (∀ (s : State) gid seq rank bins win nrank, s.seq? gid seq = none → ∃ t, exec (.m3Contribution gid seq rank bins win nrank) s = .next t ∧
    t = { s with switches := t.switches } ∧ t.seq? gid seq = some ⟨gid, seq, nrank, s.clk.toNat, [(rank, win, bins)], false, false⟩) ∧
  (∀ (s : State) gid seq rank bins win nrank q, s.seq? gid seq = some q →
    (q.aborted = true ∨ (∃ g ∈ q.got, g.1 = rank) → exec (.m3Contribution gid seq rank bins win nrank) s = .next s) ∧
    (q.aborted = false → (∀ g ∈ q.got, g.1 ≠ rank) → ∃ t q', exec (.m3Contribution gid seq rank bins win nrank) s = .next t ∧ t.seq? gid seq = some q' ∧
      q'.got = q.got ++ [(rank, win, bins)] ∧ (q'.bad = true ↔ q.bad = true ∨ ∃ g ∈ q.got, g.2.1 ≠ win) ∧ q'.start = q.start)) ∧
  (∀ (s : State) gid seq q, s.seq? gid seq = some q →
    let full := ∀ r, r < q.nrank → ∃ g ∈ q.got, g.1 = r
    (full ∨ s.clk.toNat < q.start + 500000 → exec (.reductionWindowExpiry gid seq) s = .next s) ∧
    (¬ full → q.start + 500000 ≤ s.clk.toNat → ∃ t q', exec (.reductionWindowExpiry gid seq) s = .next t ∧ t.seq? gid seq = some q' ∧
      q'.aborted = true ∧ q'.got = []) ∧
    (q.aborted = false → exec (.reductionIncomplete gid seq) s = .next s) ∧
    (q.aborted = true → ∃ t, exec (.reductionIncomplete gid seq) s = .next t ∧ t.seq? gid seq = none ∧
      t.outbox = s.outbox ++ (s.remOps gid seq).map (fun m => .m3 gid m.2.rank seq m.2.win m.2.bins) ∧ t.mem = s.mem) ∧
    (¬ full → exec (.reductionRoundComplete gid seq) s = .next s) ∧
    (full → s.remOps gid seq = [] → ∃ t, exec (.reductionRoundComplete gid seq) s = .next t ∧ t.seq? gid seq = none ∧ t.mem = s.mem) ∧
    (∀ c m key n pte, full → q.bad = false → s.remOps gid seq = [(c, m)] → s.recLive m.ctx = [] → m.bins.length = 1 →
      s.engAccess m.ctx m.t.blk ⟨.write, false, fmtBin true, true⟩ 16 m.va 16 = .ok [(key, n, pte)] → pteLoc pte ≠ 3 →
      NothingHeld s m.t.blk → NoBlockStores s (s.origin m.t.blk) ((List.range 16).map (fun k => key + k)) →
      ∃ t, exec (.reductionRoundComplete gid seq) s = .next t ∧ t.seq? gid seq = none ∧
        leVal (t.mem.bytes key 16) = (q.got.foldl (fun b g => binCombine b (g.2.2.getD 0 0)) 0).toNat ∧
        MemKept s t ((List.range 16).map (fun k => key + k))))

end Sys2Proof.Spec

namespace Sys2Proof.Spec

/-! ## Pair launches (R210 to R240) -/

/-- Tables 8-2 to 8-4 and R214: the limits of a pair descriptor. -/
structure PairLimits (d : PDesc) : Prop where
  bases    : d.recA.toNat % 16 = 0 ∧ d.posA.toNat % 16 = 0 ∧ d.excl.toNat % 16 = 0 ∧ d.src.toNat % 4 = 0 ∧ d.outA.toNat % 4 = 0
  setA     : d.countA < 2 ^ 31 ∧ d.strideA % 16 = 0 ∧ 16 ≤ d.strideA
  setB     : if d.kind.getLsbD 4 = true ∨ d.kind.extractLsb' 0 4 = 3#4 then d.recB = 0 ∧ d.countB = 0 ∧ d.strideB = 0 ∧ d.posB = 0
             else d.recB.toNat % 16 = 0 ∧ d.countB < 2 ^ 31 ∧ d.strideB % 16 = 0 ∧ 16 ≤ d.strideB ∧ d.posB.toNat % 16 = 0
  tested   : d.kind.getLsbD 7 = false → d.posA ≠ 0 ∧ nonNegFinite d.cut = true ∧
             ((d.kind.getLsbD 4 = true ∨ d.kind.extractLsb' 0 4 = 3#4) ∨ d.posB ≠ 0)
  box      : nonNegFinite d.lx = true ∧ nonNegFinite d.ly = true ∧ nonNegFinite d.lz = true
  source   : (d.kind.extractLsb' 0 4).toNat ≤ 4 ∧ (d.kind.extractLsb' 0 4 = 4#4 → d.src = 0 ∧ d.geo = 0) ∧
             (d.kind.extractLsb' 0 4 = 0#4 → d.geo.extractLsb' 30 2 = 0 ∧ d.geo.extractLsb' 0 10 ≠ 0 ∧ d.geo.extractLsb' 10 10 ≠ 0 ∧
               d.geo.extractLsb' 20 10 ≠ 0)
  flags    : (d.kind.extractLsb' 8 4).toNat ≤ 7 ∧ d.kind.extractLsb' 24 8 = 0 ∧
             (d.kind.getLsbD 12 = true → d.kind.getLsbD 4 = false ∧ d.kind.extractLsb' 0 4 ≠ 3#4) ∧
             (d.kind.getLsbD 13 = true → d.kind.extractLsb' 0 4 = 3#4) ∧ (d.kind.getLsbD 6 = true → d.excl ≠ 0)
  out      : if d.kind.getLsbD 5 then d.outB.extractLsb' 0 32 ≠ 0 ∧ d.outB.extractLsb' 32 32 = 0 ∧ d.win = 0 ∧ d.entry = 0 ∧ d.kind.extractLsb' 14 10 = 0
             else d.outB.toNat % 4 = 0 ∧ (d.kind.getLsbD 12 = true ∨ d.outB = 0) ∧ -100 ≤ d.win ∧ d.win ≤ 40
  clusters : d.nclus ≤ 256 ∧ ∀ c, c < d.clusters → d.binsOf c ≤ 65536

/-- R211 to R214, R222, R223: the fields of a descriptor, its limits with the least offset they are reported at, the records a cluster is home to, and
the items it runs. -/
def PairDescriptors : Prop :=
  (∀ bs : List Byte, let d := PDesc.of bs
    d.recA.toNat = field bs 0x00 8 ∧ d.countA = field bs 0x08 4 ∧ d.strideA = field bs 0x0C 4 ∧ d.recB.toNat = field bs 0x10 8 ∧
      d.countB = field bs 0x18 4 ∧ d.strideB = field bs 0x1C 4 ∧ d.posA.toNat = field bs 0x20 8 ∧ d.posB.toNat = field bs 0x28 8 ∧
      d.cut.toNat = field bs 0x30 4 ∧ d.lx.toNat = field bs 0x34 4 ∧ d.ly.toNat = field bs 0x38 4 ∧ d.lz.toNat = field bs 0x3C 4 ∧
      d.src.toNat = field bs 0x40 8 ∧ d.kind.toNat = field bs 0x48 4 ∧ d.geo.toNat = field bs 0x4C 4 ∧ d.excl.toNat = field bs 0x50 8 ∧
      d.outA.toNat = field bs 0x58 8 ∧ d.outB.toNat = field bs 0x60 8 ∧ d.win = (BitVec.ofNat 32 (field bs 0x68 4)).toInt ∧
      d.nclus = field bs 0x6C 4 ∧ d.entry.toNat = field bs 0x70 8 ∧ d.arg.toNat = field bs 0x78 8) ∧
  (∀ d : PDesc, (d.bad = none ↔ PairLimits d) ∧ (d.recA.toNat % 16 ≠ 0 → d.bad = some 0) ∧
    (d.recA.toNat % 16 = 0 → 2 ^ 31 ≤ d.countA → d.bad = some 0x08) ∧
    (d.recA.toNat % 16 = 0 → d.countA < 2 ^ 31 → (∃ c, c < d.clusters ∧ 65536 < d.binsOf c) → d.bad = some 0x08)) ∧
  (∀ n C c i : Nat, 0 < C → i < n → (i * C / n = c ↔ (c * n + C - 1) / C ≤ i ∧ i < (c * n + C - 1) / C + homed n C c)) ∧
  (∀ (p : PairLaunch) c, c < p.desc.clusters → (p.share c).length = (c + 1) * p.items.length / p.desc.clusters - c * p.items.length / p.desc.clusters ∧
    ∀ k, k < (p.share c).length → (p.share c)[k]? = p.items[c * p.items.length / p.desc.clusters + k]?)

/-- R215 to R219, Tables 8-4 and 8-5: the candidates that the words of a source yield, in their order, with their tags and cells. ALL pairs every i with every j;
a list's or a rule book's entries are candidates or skipped; a range map pairs the kept pixels, at most 262,144, with the kept ones in their window. Under SELF
only i < j are candidates. -/
def PairSources : Prop :=
  (∀ d : PDesc, (allSource d).cands.length = d.countA * d.countJ ∧
    ∀ i j, i < d.countA → j < d.countJ → (allSource d).cands[i * d.countJ + j]? = some ⟨i, j, 0, 0⟩) ∧
  (∀ (d : PDesc) ws rule, let q := d.listSource ws rule
    let word (n k : Nat) : Nat := ws.getD ((if rule then 3 else 2) * n + k) 0
    ∃ ns : List Nat, ns.Pairwise (fun a b => a < b) ∧ q.skipped + ns.length = d.geo.toNat ∧ q.dropped = 0 ∧
      (∀ n, n ∈ ns ↔ n < d.geo.toNat ∧ word n 0 < d.countA ∧ word n 1 < d.countJ ∧ (d.kind.getLsbD 4 = true → word n 0 < word n 1)) ∧
      q.cands = ns.map (fun n => ⟨word n 0, word n 1, if rule then word n 2 else n, 0⟩)) ∧
  (∀ (d : PDesc) (ws : List Nat), let rows := (d.geo.extractLsb' 0 12).toNat + 1
    let cols := (d.geo.extractLsb' 12 12).toNat + 1
    let h := (d.geo.extractLsb' 24 4).toNat
    let w := (d.geo.extractLsb' 28 4).toNat
    let at_ (p dr dc t : Nat) : Prop := dr ≤ 2 * h ∧ dc ≤ 2 * w ∧ t < rows * cols ∧ t / cols + h = p / cols + dr ∧
      if d.kind.getLsbD 13 = true then ((t % cols : Nat) : Int) = (((p % cols + dc : Nat) : Int) - w) % cols else t % cols + w = p % cols + dc
    let occ := (List.range ws.length).filter (fun p => decide (1 ≤ ws.getD p 0) && decide (ws.getD p 0 ≤ d.countA))
    let kept := occ.take 262144
    ws.length = rows * cols → (d.rangeSource ws).skipped = ws.countP (fun v => decide (d.countA < v)) ∧ (d.rangeSource ws).dropped + kept.length = occ.length ∧
      ∃ of_ : Nat → List Cand, (d.rangeSource ws).cands = kept.flatMap of_ ∧ ∀ p ∈ kept, (of_ p).Pairwise (fun a b => a.tag < b.tag) ∧
        ∀ c, c ∈ of_ p ↔ c.i + 1 = ws.getD p 0 ∧ c.j + 1 = ws.getD c.cell 0 ∧ c.cell ∈ kept ∧ ∃ dr dc, at_ p dr dc c.cell ∧ c.tag = dr * (2 * w + 1) + dc ∧
          ∀ dr' dc', at_ p dr' dc' c.cell → c.tag ≤ dr' * (2 * w + 1) + dc') ∧
  (∀ (d : PDesc) ws, (d.candidates ws).cands = (match (d.kind.extractLsb' 0 4).toNat with
      | 0 => d.cellSource ws
      | 1 => d.listSource ws false
      | 2 => d.listSource ws true
      | 3 => d.rangeSource ws
      | _ => allSource d).cands.filter (fun c => !d.kind.getLsbD 4 || decide (c.i < c.j)))

/-- R216, Table 8-5, log entry 74: the stencil of a cell holds each neighbour once, itself among them, with the offset in z outermost; the candidates of the cell
tables pair record i with those of its stencil's cells, i ascending, the cells in stencil order and j ascending; and a table that does not begin at 0,
decreases, or does not end at its set's count fails the read of the entry that breaks the rule, with cause 0x13. -/
def PairCells : Prop :=
  (∀ (d : PDesc) k,
    let nx := (d.geo.extractLsb' 0 10).toNat
    let ny := (d.geo.extractLsb' 10 10).toNat
    let nz := (d.geo.extractLsb' 20 10).toNat
    let periodic (l : Word) : Prop := l.extractLsb' 0 31 ≠ 0
    let near (n c : Nat) (l : Word) (o : Int) (v : Nat) : Prop := v < n ∧ -1 ≤ o ∧ o ≤ 1 ∧ ((periodic l ∧ (v : Int) = (c + o) % n) ∨ (¬ periodic l ∧ (v : Int) = c + o))
    let cx := k % nx
    let cy := k / nx % ny
    let cz := k / nx / ny
    k < nx * ny * nz → (d.stencil k).Nodup ∧ k ∈ d.stencil k ∧
      (∀ q, q ∈ d.stencil k ↔ ∃ ox oy oz x y z, near nx cx d.lx ox x ∧ near ny cy d.ly oy y ∧ near nz cz d.lz oz z ∧ q = x + nx * (y + ny * z)) ∧
      (¬ periodic d.lx → ¬ periodic d.ly → ¬ periodic d.lz → (d.stencil k).Pairwise (fun a b => a < b)) ∧
      (periodic d.lx → periodic d.ly → periodic d.lz → 3 ≤ nx → 3 ≤ ny → 3 ≤ nz → ∀ m, m < 27 →
        (d.stencil k)[m]? = some ((cx + nx + m % 3 - 1) % nx + nx * ((cy + ny + m / 3 % 3 - 1) % ny + ny * ((cz + nz + m / 9 - 1) % nz))))) ∧
  (∀ (d : PDesc) (ws : List Nat),
    let n := (d.geo.extractLsb' 0 10).toNat * (d.geo.extractLsb' 10 10).toNat * (d.geo.extractLsb' 20 10).toNat
    let tb (k : Nat) : Nat := ws.getD k 0
    let ta (k : Nat) : Nat := if d.kind.getLsbD 4 then tb k else ws.getD (n + 1 + k) 0
    let holds (k i : Nat) : Prop := k < n ∧ ta k ≤ i ∧ i < ta (k + 1)
    (∀ c, c ∈ (d.cellSource ws).cands ↔ c.tag = 0 ∧ ∃ k, holds k c.i ∧ c.cell ∈ d.stencil k ∧ tb c.cell ≤ c.j ∧ c.j < tb (c.cell + 1)) ∧
    ((∀ k, k < n → ta k ≤ ta (k + 1)) → (d.cellSource ws).cands.Pairwise (fun a b => a.i < b.i ∨ (a.i = b.i ∧ ∃ k, holds k a.i ∧
      ((d.stencil k).idxOf a.cell < (d.stencil k).idxOf b.cell ∨ (a.cell = b.cell ∧ a.j < b.j))))) ∧
    (∀ (s : State) p ws f, p.desc = d → d.kind.extractLsb' 0 4 = 0#4 →
      let size := if d.kind.getLsbD 4 then n + 1 else 2 * (n + 1)
      (∀ k, k < size → ∃ bs, s.thRead p fmtRaw 4 (d.src + BitVec.ofNat 64 (4 * k)) 4 = .ok bs) → s.readSource p size [] = (ws, f) →
        let tb (k : Nat) : Nat := ws.getD k 0
        let ta (k : Nat) : Nat := ws.getD (n + 1 + k) 0
        (f = none → ws.length = size ∧ tb 0 = 0 ∧ tb n = d.countJ ∧ (∀ k, k < n → tb k ≤ tb (k + 1)) ∧
          (d.kind.getLsbD 4 = false → ta 0 = 0 ∧ ta n = d.countA ∧ ∀ k, k < n → ta k ≤ ta (k + 1))) ∧
        (∀ x, f = some x → ws.length < size ∧ x = .acc 0x13 (d.src + BitVec.ofNat 64 (4 * ws.length)) .read)))

/-- R220: one axis of the test. -/
def axisOf (xi xj l v : Word) : Prop :=
  let d := once .rn (NumVal.add false (f32 xj) (f32 xi).neg)
  (l.extractLsb' 0 31 = 0 → v = d) ∧
  (l.extractLsb' 0 31 ≠ 0 → ∃ n : Word,
    n = once .rn (match f32 (once .rn (NumVal.mul (f32 d) (f32 (fdivN (.fin false 1 0) (f32 l))))) with
      | .fin neg m e => .fin neg (roundMag .rn neg m e 0) 0
      | x => x) ∧
    v = once .rn (NumVal.add false (NumVal.mul (f32 n).neg (f32 l)) (f32 d)))

/-- R220: d2 of the three differences. -/
def d2Of (dx dy dz : Word) : Word :=
  once .rn (NumVal.add false (NumVal.mul (f32 dz) (f32 dz)) (f32 (once .rn (NumVal.add false (NumVal.mul (f32 dy) (f32 dy)) (f32 (once .rn (NumVal.mul (f32 dx) (f32 dx))))))))

/-- R220, R221, Table 8-6: a pair is listed when i's exclusion entry holds j - i or j's holds i - j; under EXCL a listed one is removed before the test. The others
get their differences, brought back into the box axis by axis, and d2, and are accepted when d2 is below the cut-off or under NOTEST; without positions,
which NOTEST allows, the differences are 0. A failed read is the verdict's failure. -/
def PairTest : Prop :=
  (∀ (s : State) p c, p.desc.excl = 0 → s.exclClass p c = .ok false) ∧
  (∀ (s : State) p c a b, p.desc.excl ≠ 0 →
    let one := p.desc.kind.getLsbD 4 = true ∨ p.desc.kind.extractLsb' 0 4 = 3#4
    let jAt : Nat := if one then c.j else p.desc.countA + c.j
    s.thRead p fmtRaw 16 (p.desc.excl + BitVec.ofNat 64 (16 * c.i)) 16 = .ok a → s.thRead p fmtRaw 16 (p.desc.excl + BitVec.ofNat 64 (16 * jAt)) 16 = .ok b →
    let slot (bs : List Byte) (k : Nat) : Int := (BitVec.ofNat 16 (field bs (2 * k) 2)).toInt
    ∃ v, s.exclClass p c = .ok v ∧ (v = true ↔ (∃ k, k < 8 ∧ slot a k ≠ 0 ∧ slot a k = (c.j : Int) - c.i) ∨ ∃ k, k < 8 ∧ slot b k ≠ 0 ∧ slot b k = (c.i : Int) - c.j)) ∧
  (∀ (s : State) p c listed, s.exclClass p c = .ok listed →
    let d := p.desc
    let excl := d.kind.getLsbD 6 = true ∧ listed = true
    let tag := if d.kind.extractLsb' 0 4 = 0#4 ∨ d.kind.extractLsb' 0 4 = 4#4 then (if listed then 1 else 0) else c.tag
    let baseB := if d.kind.getLsbD 4 = true ∨ d.kind.extractLsb' 0 4 = 3#4 then d.posA else d.posB
    (excl → s.judge p c = .ok .excluded) ∧
    (¬ excl → (d.posA = 0 ∨ baseB = 0) → s.judge p c = .ok (.accepted ⟨0, c.i, c.j, tag, c.cell, 0, 0, 0, 0⟩)) ∧
    (∀ a b, ¬ excl → d.posA ≠ 0 → baseB ≠ 0 → s.thRead p fmtRawF32 4 (d.posA + BitVec.ofNat 64 (16 * c.i)) 12 = .ok a →
      s.thRead p fmtRawF32 4 (baseB + BitVec.ofNat 64 (16 * c.j)) 12 = .ok b → a.length = 12 → b.length = 12 →
      let w (bs : List Byte) (k : Nat) : Word := BitVec.ofNat 32 (field bs (4 * k) 4)
      ∃ dx dy dz, axisOf (w a 0) (w b 0) d.lx dx ∧ axisOf (w a 1) (w b 1) d.ly dy ∧ axisOf (w a 2) (w b 2) d.lz dz ∧
        let near := NumVal.lt (f32 (d2Of dx dy dz)) (f32 d.cut) = true
        (d.kind.getLsbD 7 = true ∨ near → s.judge p c = .ok (.accepted ⟨0, c.i, c.j, tag, c.cell, dx, dy, dz, d2Of dx dy dz⟩)) ∧
        (¬ (d.kind.getLsbD 7 = true ∨ near) → s.judge p c = .ok .rejected)) ∧
    (∀ x, ¬ excl → d.posA ≠ 0 → baseB ≠ 0 → s.thRead p fmtRawF32 4 (d.posA + BitVec.ofNat 64 (16 * c.i)) 12 = .error x → s.judge p c = .error x)) ∧
  (∀ (s : State) p c x, s.exclClass p c = .error x → s.judge p c = .error x) ∧
  axisOf 0x41180000 0x3E800000 0x41200000 0x3F400000 ∧ axisOf 0x41180000 0x3F000000 0x41200000 0x3F800000 ∧
  d2Of 0x3F400000 0x3F000000 0 = 0x3F500000 ∧ d2Of 0x3F800000 0 0 = 0x3F800000

/-- R222: the accepted candidates in logical order, numbered from 0, are the items. -/
def PairNumbers : Prop :=
  (∀ (vs : List Verdict) (k : Nat) (it : PairItem), (itemsOf vs)[k]? = some it → it.n = k) ∧
  (∀ vs : List Verdict, (itemsOf vs).map (fun it => { it with n := 0 }) = vs.filterMap (fun v => match v with
    | .accepted it => some { it with n := 0 }
    | _ => none))

/-- R228, R214, R237: PLAUNCH after the thread's earlier operations are performed. It reads 128 of 192 bytes that it must be able to read and write, checked as
one access of both kinds (log entry 70). A broken limit raises pair descriptor (0x13) at the field's address, bins that could never be placed raise residency (0x14), and otherwise the launch stands
queued in state 0 under a new id and the next number of its cluster's Thresher timeline, which is owed (log entry 49); in a block that a cancel has reached no launch
is made and 0 is owed (R30, log entry 83). -/
def PlaunchResults : Prop :=
  ∀ (f : FmtA) s op sh iss rest r e s2, Alone s (.plaunch f) op sh iss rest (.thr r) e → e.prot = 0 →
    let area := e.pair f.a
    let acc := (s.settle r).access e.core e.ctx e.blk ⟨.rw, false, fmtRaw, false⟩ 64 area 192
    (∀ x, acc = (s2, .error x) → FaultsAt (.plaunch f) s iss rest e s2 x) ∧
    ∀ s3 keys ptes bs, acc = (s2, .ok (keys, ptes)) → s2.readBytes e area (keys.take 128) = (s3, .ok bs) →
    let d := PDesc.of bs
    let c := coreCluster e.core
    let phys := s3.mapClusters c d.clusters
    let fits := ∀ k ∈ phys, (s3.cluster k).healthy = true ∧ binsAsked d phys k ≤ Config.clusterBins
    (∀ o, d.bad = some o → FaultsAt (.plaunch f) s iss rest e s3 ⟨0x13, some (area + BitVec.ofNat 64 o), none, false, false⟩) ∧
    (d.bad = none → ¬ fits → FaultsAt (.plaunch f) s iss rest e s3 (.of 0x14)) ∧
    (d.bad = none → fits → s3.blkCut e.blk = true → Ends (.plaunch f) s op sh iss (.thr r) e s3 (fun base th => owesFrom base e (toD f [0, 0]) th)) ∧
    (d.bad = none → fits → s3.blkCut e.blk = false →
      let n := ((s3.cluster c).tl 1).issued + 1
      ∃ s4 p l, Ends (.plaunch f) s op sh iss (.thr r) e s4 (fun base th => owesFrom base e (toD f [BitVec.ofNat 32 n, BitVec.ofNat 32 (n / 2 ^ 32)]) th) ∧
        Tab.find s4.pairs s3.lidNext = some p ∧ p.area = area ∧ p.desc = d ∧ p.state = 0 ∧ p.num = n ∧ p.cluster = c ∧ p.phys = phys ∧ p.ctx = e.ctx ∧
        p.reserved = false ∧ p.tested = false ∧ p.items = [] ∧ Tab.find s4.launches s3.lidNext = some l ∧ l.count = 1 ∧ l.complete = false ∧
        s4.lidNext = s3.lidNext + 1 ∧ ((s4.cluster c).tl 1).issued = n ∧ s4.scr = s3.scr)

/-- R229, R180: PCANCEL of a launch of this context whose drain has not begun marks it cancelled, as a cancel of its level does, and writes 1, a second time too
(log entry 73); its running threads' waits end. Otherwise it writes 0 and changes nothing (log entry 49). -/
def PcancelResults : Prop :=
  ∀ (f : FmtA) s op sh iss rest l e, Alone s (.pcancel f) op sh iss rest l e → e.prot = 0 →
    let n := (e.pair f.a).toNat
    let c := s.numCluster e.blk 1 n
    let named (q : Nat × PairLaunch) : Prop := q.2.cluster = c ∧ q.2.num = n ∧ q.2.ctx = e.ctx ∧ q.2.begunDrain = false
    ((∀ q ∈ s.pairs, ¬ named q) → ∃ th, owes e (toDp f false) th ∧ Completes (.pcancel f) s op sh iss l e s th) ∧
    (∀ q, q ∈ s.pairs → named q → (∀ x ∈ s.pairs, named x → x = q) → (∀ b, s.block? e.blk = some b → b.lid ≠ q.1) →
      (∀ p ∈ s.blocks, p.2.lid = q.1 → p.2.stopCause = none ∧ p.2.twin = none) → ∃ s1,
      Ends (.pcancel f) s op sh iss l e s1 (fun base th => owesFrom base e (toDp f true) th) ∧
      s1.pairs = Tab.upd s.pairs q.1 (fun p => { p with cancelled := true }) ∧
      (∀ n, n ≠ q.1 → Tab.find s1.launches n = Tab.find s.launches n) ∧
      (∀ x, Tab.find s.launches q.1 = some x → ∃ cuts, Tab.find s1.launches q.1 = some { x with cancelled := true, cuts := cuts }) ∧
      ((∀ p ∈ s.blocks, p.2.lid ≠ q.1) → s1 = { s with pairs := s1.pairs, launches := s1.launches }) ∧
      (∀ k b, s.block? k = some b → b.lid = q.1 → b.primary = true → b.kind = .pair → (∃ w ∈ b.warps, ∃ th ∈ w.threads, th.live = true) →
        ∃ b', s1.block? k = some b' ∧ b'.evpend.getLsbD 2 = true ∧
          ∀ t th, t.blk = k → s1.thread? t = some th → ∀ eng n ph, th.hold ≠ some (.tlwait eng n ph)))

/-- R230: the item field that an instruction reads. -/
def itemRead : Instr → Option (FmtA × (PairItem → Word))
  | .pi f => some (f, fun it => BitVec.ofNat 32 it.i)
  | .pj f => some (f, fun it => BitVec.ofNat 32 it.j)
  | .ptag f => some (f, fun it => BitVec.ofNat 32 it.tag)
  | .pcell f => some (f, fun it => BitVec.ofNat 32 it.cell)
  | .pdx f => some (f, fun it => it.dx)
  | .pdy f => some (f, fun it => it.dy)
  | .pdz f => some (f, fun it => it.dz)
  | .pdsq f => some (f, fun it => it.d2)
  | _ => none

/-- R231: whether an instruction reads record j, and its bytes. -/
def recordRead : Instr → Option (FmtA × Bool × Nat)
  | .preci f => some (f, false, 4)
  | .precj f => some (f, true, 4)
  | .preci2 f => some (f, false, 8)
  | .precj2 f => some (f, true, 8)
  | _ => none

/-- Table 8-9: the form of a contribution. -/
def stages : Instr → Option (FmtA × Nat)
  | .pconOpp f => some (f, 0)
  | .pconSym f => some (f, 1)
  | .pconI f => some (f, 2)
  | .pconJ f => some (f, 3)
  | _ => none

/-- R230 to R233: the instructions of a pair thread. Item fields go to D in the pass; record words are loaded from base + index × stride + 4 × A, within the
stride, which is checked before the alignment (log entry 89); a contribution is staged for a bin that exists, at most 16 at once; PDROP discards what is staged. Only the participant's thread changes. -/
def PairThreadResults : Prop :=
  (∀ i f v, itemRead i = some (f, v) → ∀ s op sh iss rest l e it, Alone s i op sh iss rest l e → e.th.item = some it →
    Completes i s op sh iss l e s (if f.wbs then e.th else withW e.th f.d.toNat (v it))) ∧
  (∀ i f ofJ n, recordRead i = some (f, ofJ, n) → ∀ s op sh iss rest l e it p s1, Alone s i op sh iss rest l e → e.th.item = some it →
    s.pair? (s.lidOf e.blk) = some p →
    let d := p.desc
    let setB := ofJ = true ∧ d.kind.getLsbD 4 = false ∧ d.kind.extractLsb' 0 4 ≠ 3#4
    ∀ base stride : Nat, (setB → base = d.recB.toNat ∧ stride = d.strideB) → (¬ setB → base = d.recA.toNat ∧ stride = d.strideA) →
      let o := 4 * (e.a f).toNat
      let va : DWord := BitVec.ofNat 64 (base + ((if ofJ then it.j else it.i) * stride + o))
      let acc := s.access e.core e.ctx e.blk ⟨.read, false, fmtRaw, true⟩ n va n
      (stride < o + n → FaultsAt i s iss rest e s (.of 0x03)) ∧
      (∀ x, o + n ≤ stride → acc = (s1, .error x) → FaultsAt i s iss rest e s1 x) ∧
      (∀ keys ptes s2 bs, o + n ≤ stride → acc = (s1, .ok (keys, ptes)) → s1.readBytes e va keys = (s2, .ok bs) →
        Ends i s op sh iss l e s2 (fun base th => owesFrom base e (toD f (loaded n false bs)) th))) ∧
  (∀ i f form, stages i = some (f, form) → ∀ s op sh iss rest l e p, Alone s i op sh iss rest l e → s.pair? (s.lidOf e.blk) = some p →
    let b := (e.b f).toNat
    let jBins := p.desc.kind.getLsbD 12 = true ∨ p.desc.kind.getLsbD 4 = true ∨ p.desc.kind.extractLsb' 0 4 = 3#4
    let bad := (p.desc.kind.extractLsb' 8 4).toNat + 1 ≤ b ∨ (form ≠ 2 ∧ ¬ jBins) ∨ 16 ≤ e.th.staged.length
    (bad → FaultsAt i s iss rest e s (.of 0x03)) ∧
    (¬ bad → Completes i s op sh iss l e s { e.th with staged := e.th.staged ++ [⟨form, e.a f, b⟩] })) ∧
  (∀ (f : FmtA) s op sh iss rest l e, Alone s (.pdrop f) op sh iss rest l e → Completes (.pdrop f) s op sh iss l e s { e.th with staged := [] })

/-- Table 8-10: the status record. -/
def PairStatus : Prop :=
  ∀ (p : PairLaunch) state cancelled abandoned,
    let bs := statusBytes p state cancelled abandoned
    bs.length = 64 ∧ field bs 0 4 = state % 2 ^ 32 ∧
      field bs 4 4 = (if p.ovf then 1 else 0) + (if p.trunc then 2 else 0) + (if cancelled then 4 else 0) + (if p.killed then 8 else 0) ∧
      field bs 8 8 = p.cands % 2 ^ 64 ∧ field bs 0x10 8 = p.items.length % 2 ^ 64 ∧ field bs 0x18 8 = p.excluded % 2 ^ 64 ∧
      field bs 0x20 4 = p.failed.length % 2 ^ 32 ∧ field bs 0x24 4 = p.replayed % 2 ^ 32 ∧ field bs 0x28 4 = abandoned % 2 ^ 32 ∧
      field bs 0x2C 4 = p.dropped % 2 ^ 32 ∧ field bs 0x30 4 = p.skipped % 2 ^ 32 ∧ field bs 0x34 4 = p.ovfbins % 2 ^ 32 ∧ field bs 0x38 8 = 0

/-- R220, R239: the verdicts of candidates in order, up to the first failed access. -/
def Judged (s : State) (p : PairLaunch) (cs : List Cand) (vs : List Verdict) (f : Option FInfo) : Prop :=
  (∀ (k : Nat) (v : Verdict), vs[k]? = some v → ∃ c, cs[k]? = some c ∧ s.judge p c = .ok v) ∧ (f = none → vs.length = cs.length) ∧
    (∀ x, f = some x → ∃ c, cs[vs.length]? = some c ∧ s.judge p c = .error x)

/-- R222, R239: a launch's testing goes on from where it stands: first the rest of its source, whose failed read stops it; then every logical cluster its share, to
its end or its failed access, of which a record tells (log entry 69); one that has stopped, or whose Thresher has a record to post, stays where it is. When every
share is judged, the items are the accepted ones. Shown for logical clusters on distinct physical ones. -/
def TestedOn (s t : State) (l : Nat) (p : PairLaunch) : Prop :=
  let n := p.desc.sourceWords - p.got.length
  (0 < n → s.thPosting p.cluster = true → t = s) ∧
  (p.phys.length = p.desc.clusters → p.phys.Nodup → (n = 0 ∨ s.thPosting p.cluster = false) → ∃ p', t.pair? l = some p' ∧ t.mem = s.mem ∧ t.scr = s.scr ∧
    (∀ ws x, s.readSource p n p.got = (ws, some x) →
      p' = { p with got := ws, accFaults := p.accFaults ++ [p.desc.clusters] } ∧ ∀ c, Tab.find s.ctxs p.ctx = some c → ∃ c' r, Tab.find t.ctxs p.ctx = some c' ∧
        c'.waiting = c.waiting ++ [⟨r, .pairAccess l p.desc.clusters⟩] ∧ r.cause = x.cause ∧ r.src = 2 ∧ r.item = l) ∧
    (∀ ws, s.readSource p n p.got = (ws, none) →
      let q := p.desc.candidates ws
      let share (c : Nat) : List Cand := partOf q.cands p.desc.clusters c
      (∀ c, c < p.desc.clusters →
        let rests := c ∈ p.accFaults ∨ s.thPosting (p.phys.getD c p.cluster) = true
        (rests → Tab.get [] p'.tests c = Tab.get [] p.tests c ∧ (c ∈ p'.accFaults ↔ c ∈ p.accFaults)) ∧
        (¬ rests → ∃ vs f, Judged s p ((share c).drop (Tab.get [] p.tests c).length) vs f ∧ Tab.get [] p'.tests c = Tab.get [] p.tests c ++ vs ∧
          (c ∈ p'.accFaults ↔ f ≠ none))) ∧
      (p'.tested = true ↔ ∀ c, c < p.desc.clusters → (Tab.get [] p'.tests c).length = (share c).length) ∧ p'.got = ws ∧ p'.skipped = q.skipped ∧
      p'.dropped = q.dropped ∧
      let vs := (List.range p.desc.clusters).flatMap (fun c => Tab.get [] p'.tests c)
      p'.items = itemsOf vs ∧ p'.cands = vs.length ∧ p'.excluded = vs.countP (fun v => v == .excluded) ∧ p'.state = p.state))

/-- R12, R210, R223, R237, R239: a queued launch starts when its bins fit on its clusters, mapped anew where one of them has been fenced since, and no earlier one
waits: its bins are reserved and empty, its candidates tested, its items numbered; else, with a Silo load on a die of its clusters (R393), when it is cancelled or its
source has a failed access, nothing happens. Testing goes on in the shares that have not stopped. A launch that is tested goes on to run its items (log entry
49). -/
def PairStarts : Prop :=
  (∀ (s : State) l p, s.pair? l = some p →
    let phys := if ∀ k ∈ p.phys, (s.cluster k).healthy = true then p.phys else s.mapClusters p.cluster p.desc.clusters
    (s.pairCancelled l p = true ∨ p.desc.clusters ∈ p.accFaults → exec (.pairLaunchStart l) s = .next s) ∧
    (p.state = 0 → (s.thPosting p.cluster = true ∨ (∃ q ∈ s.pairs, q.1 < l ∧ q.2.state = 0 ∧ s.pairCancelled q.1 q.2 = false) ∨
      ∃ k ∈ phys, (∃ x, s.dev.siloLoad = some x ∧ x.die = k / 64) ∨ Config.clusterBins < s.binsHeld k + binsAsked p.desc phys k) → exec (.pairLaunchStart l) s = .next s) ∧
    (p.state = 0 → s.pairCancelled l p = false → p.accFaults = [] → s.thPosting p.cluster = false →
      (∀ q ∈ s.pairs, q.1 < l → q.2.state = 0 → s.pairCancelled q.1 q.2 = true) →
      (∀ k ∈ phys, (s.cluster k).healthy = true ∧ (∀ x, s.dev.siloLoad = some x → x.die ≠ k / 64) ∧
        s.binsHeld k + binsAsked p.desc phys k ≤ Config.clusterBins) →
      ∃ s1 t, s1 = (s.updPair l (fun p => { p with phys := phys, reserved := true, bins := [] })).pairTo l 1 ∧ exec (.pairLaunchStart l) s = .next t ∧
        s1.pair? l = some { p with state := 1, phys := phys, reserved := true, bins := [] } ∧ TestedOn s1 t l { p with state := 1, phys := phys, reserved := true, bins := [] }) ∧
    (p.state = 1 → s.pairCancelled l p = false → p.desc.clusters ∉ p.accFaults →
      (p.tested = true → exec (.pairLaunchStart l) s = .next s) ∧ (p.tested = false → ∃ t, exec (.pairLaunchStart l) s = .next t ∧ TestedOn s t l p))) ∧
  (∀ (s : State) l p, s.pair? l = some p → s.pairCancelled l p = false → p.state = 1 → p.desc.kind.getLsbD 5 = false →
    (p.tested = true → p.accFaults = [] →
      ∃ t, exec (.pairTestingComplete l) s = .next t ∧ t.pair? l = some { p with state := 2 } ∧ t.blocks = s.blocks ∧ t.scr = s.scr) ∧
    (p.tested = false ∨ p.accFaults ≠ [] → exec (.pairTestingComplete l) s = .next s))

/-- R226, R133: under EMIT an accepted pair whose index is below the list's capacity is written at list base + 12 × index as i, j and its tag, and no other; TRUNC
tells that some have no place. Every cluster's share is written to its end, or up to its failed access or a record that its Thresher has to post, and
goes on from there. Shown where the block has nothing stored there and nothing held (log entry 58). -/
def PairEmits : Prop :=
  (∀ (s t : State) p c k it key n pte, (p.share c)[k]? = some it → it.n < (p.desc.outB.extractLsb' 0 32).toNat → pteLoc pte ≠ 3 → emitOne p c s k = .ok t →
    s.engAccess p.ctx p.blk ⟨.write, false, fmtRaw, true⟩ 4 (p.desc.outA + BitVec.ofNat 64 (12 * it.n)) 12 = .ok [(key, n, pte)] → n = 12 →
    NothingHeld s p.blk → NoBlockStores s (s.origin p.blk) ((List.range 12).map (fun b => key + b)) →
    leVal (t.mem.bytes key 4) = it.i % 2 ^ 32 ∧ leVal (t.mem.bytes (key + 4) 4) = it.j % 2 ^ 32 ∧ leVal (t.mem.bytes (key + 8) 4) = it.tag % 2 ^ 32 ∧
    MemKept s t ((List.range 12).map (fun b => key + b)) ∧ t.scr = s.scr) ∧
  (∀ (s : State) p c k it, (p.share c)[k]? = some it → (p.desc.outB.extractLsb' 0 32).toNat ≤ it.n → emitOne p c s k = .ok s) ∧
  (∀ (s : State) l p, s.pair? l = some p → p.desc.kind.getLsbD 5 = true → s.pairCancelled l p = false →
    (p.state = 2 ∨ (p.state = 1 ∧ p.tested = true ∧ p.accFaults = [])) → ∃ t p', exec (.pairTestingComplete l) s = .next t ∧ t.pair? l = some p' ∧ p'.state = 2 ∧
      p'.items = p.items ∧ (p'.trunc = true ↔ (p.desc.outB.extractLsb' 0 32).toNat < p.items.length) ∧ t.blocks = s.blocks ∧
      ∀ c, c < p.desc.clusters → c ∈ p'.accFaults ∨ (p.share c).length ≤ Tab.get 0 p'.pos c ∨ t.thPosting (p.thresher c) = true)

/-- R224, Table 8-7: a batch: a cluster's next items, at most 32, in order, start as a block of one warp on a core with room in the cluster that holds it
now. Without items left, or on another core, nothing happens. -/
def PairBatches : Prop :=
  ∀ (s : State) l c core p, s.pair? l = some p → p.state = 2 → p.desc.kind.getLsbD 5 = false → s.pairCancelled l p = false → p.again = [] →
    c < p.desc.clusters → core < 1024 → s.dieOpen (coreDie core) = true → (s.cluster (p.phys.getD c 0)).healthy = true →
    let its := ((p.share c).drop (Tab.get 0 p.nextItem c)).take 32
    let idx := Tab.get 0 p.nextBatch c
    let w (n : Nat) : Word := BitVec.ofNat 32 n
    (its = [] ∨ core / 4 ≠ p.phys.getD c 0 → exec (.pairBatchStart l c core) s = .next s) ∧
    (∀ base, its ≠ [] → core / 4 = p.phys.getD c 0 → s.coreFits core 1 (256 * (p.desc.kind.extractLsb' 14 10).toNat) = some base →
      ∃ t b wp p', exec (.pairBatchStart l c core) s = .next t ∧ t.block? (s.tags + 1) = some b ∧ b.kind = .pair ∧ b.core = core ∧ b.lid = l ∧ b.ctx = p.ctx ∧
        b.regs = 128 ∧ b.unif = 64 ∧ b.scrBase = base ∧ b.scrSize = 256 * (p.desc.kind.extractLsb' 14 10).toNat ∧ b.prot = 0 ∧ b.warps = [wp] ∧
        wp.threads.length = its.length ∧ (∀ i, i < 64 → wp.s[i]?.getD 0 = ([w c, 0, 0, 0, p.desc.arg.extractLsb' 0 32, p.desc.arg.extractLsb' 32 32,
          w l, w (l / 2 ^ 32), w p.desc.clusters, w its.length, w base, 0, w idx] : List Word).getD i 0) ∧
        (∀ (k : Nat) (it : PairItem) (th : Thread), its[k]? = some it → wp.threads[k]? = some th →
          th = { Thread.new p.desc.entry with item := some it, q := Vector.replicate 4 ⟨0, BitVec.ofInt 8 p.desc.win⟩ }) ∧
        t.pair? l = some p' ∧ p'.running = p.running ++ its.map (fun it => it.n) ∧ Tab.get 0 p'.nextBatch c = idx + 1 ∧
        Tab.get 0 p'.nextItem c = Tab.get 0 p.nextItem c + its.length ∧ p'.items = p.items ∧ t.mem = s.mem)

/-- Table 8-9: what one staged entry of an item adds to each bin of a launch whose set B is set A or not. -/
def pairAdds (d : PDesc) (it : PairItem) (x : PEntry) : List (Nat × NumVal) :=
  let iBin := it.i * 8 + x.b
  let jBin := (if d.kind.getLsbD 4 ∨ d.kind.extractLsb' 0 4 = 3#4 then it.j else 2 ^ 32 + it.j) * 8 + x.b
  match x.form with
  | 0 => [(iBin, f32 x.v), (jBin, (f32 x.v).neg)]
  | 1 => [(iBin, f32 x.v), (jBin, f32 x.v)]
  | 2 => [(iBin, f32 x.v)]
  | _ => [(jBin, f32 x.v)]

/-- R234, R346: the entries of an item whose thread has exited are added to the bins of their records, exactly as R114 gives, and the item has completed; while a
record of the launch's bins waits for the fault queue, nothing is added. -/
def PairEntriesApplied : Prop :=
  (∀ (s : State) l, s.binsPosting l = true → exec (.pairEntryApply l) s = .next s) ∧
  ∀ (s : State) l p it es rest, s.pair? l = some p → p.apply = (it, es) :: rest → s.binsPosting l = false → (∀ k, s.memBad [binKey l k] = false) → (∀ x ∈ es, x.form < 4) →
    ∃ t p', exec (.pairEntryApply l) s = .next t ∧ t = { s with pairs := t.pairs } ∧ t.pair? l = some p' ∧ p'.apply = rest ∧ p'.finished = p.finished + 1 ∧
      p' = { p with apply := p'.apply, finished := p'.finished, bins := p'.bins } ∧
      ∀ k, Tab.get 0 p'.bins k = ((es.flatMap (pairAdds p.desc it)).filter (fun a => a.1 == k)).foldl (fun b a => contribute b p.desc.win a.2) (Tab.get 0 p.bins k)

/-- R235, R239: a drained bin is rounded once by the launch's window into its element, or gives the canonical NaN with a bin overflow record; the drain leaves
every cluster at the end of its share, or stopped at its failed access or at a record that its Thresher has to post. Shown where the block has nothing stored there and nothing held (log entry 58). -/
def PairDrains : Prop :=
  (∀ (s t : State) l p c k key n pte, s.pair? l = some p → drainOne l p c s k = .ok t →
    let x := p.desc.drainAt c k
    let va : DWord := (if x.1 then p.desc.outB else p.desc.outA) + BitVec.ofNat 64 (4 * (x.2.1 * (p.desc.nb + 1) + x.2.2))
    let i := ((if x.1 then 2 ^ 32 else 0) + x.2.1) * 8 + x.2.2
    s.engAccess p.ctx p.blk ⟨.write, false, fmtRawF32, true⟩ 4 va 4 = .ok [(key, n, pte)] → n = 4 → pteLoc pte ≠ 3 →
    NothingHeld s p.blk → NoBlockStores s (s.origin p.blk) ((List.range 4).map (fun b => key + b)) →
    let bin : BinBits := Tab.get 0 p.bins i
    let ovf := bin.extractLsb' 120 3 = 0 ∧ (bin.getLsbD 123 = true ∨ 2 ^ 104 ≤ (bin.extractLsb' 0 120).toInt.natAbs)
    (s.memBad [binKey l i] = false → ¬ ovf → leVal (t.mem.bytes key 4) = (drainF32 bin p.desc.win).toNat ∧ t.ctxs = s.ctxs) ∧
    (s.memBad [binKey l i] = false → ovf → leVal (t.mem.bytes key 4) = 0x7FC00000 ∧ ∃ p', t.pair? l = some p' ∧ p'.ovfbins = p.ovfbins + 1 ∧ p'.ovf = true) ∧
    (s.memBad [binKey l i] = true → leVal (t.mem.bytes key 4) = 0x7FC00000) ∧ MemKept s t ((List.range 4).map (fun b => key + b))) ∧
  (∀ (s : State) l p, s.pair? l = some p → p.state = 4 → ∃ t p', exec (.pairLaunchDrain l) s = .next t ∧ t.pair? l = some p' ∧ p'.state = 4 ∧
    ∀ c, c < p.desc.clusters → c ∈ p'.accFaults ∨ p.desc.drainSize c ≤ Tab.get 0 p'.pos c ∨ t.thPosting (p.thresher c) = true) ∧
  (∀ (s : State) l p, s.pair? l = some p → p.state = 2 → (p.running ≠ [] ∨ p.failed ≠ [] ∨ p.again ≠ [] ∧ p.desc.kind.getLsbD 5 = false) →
    exec (.pairLaunchDrain l) s = .next s)

/-- R229, R236, R240: the end of a launch. It suspends when nothing is left in its stage and an item or an access has failed; it ends in state 5 once its drain is written and
its status record stands, or in state 6 cancelled with its remaining items counted as abandoned; its bins are released, its number on the timeline
completed and its counter lowered. Replay runs the failed items again and lets a failed access go on; a kill abandons the failed items, and with a failed access
pending it ends the launch in state 6, the items that have not completed abandoned, with nothing written but its status record as far as its page
allows. -/
def PairEnds : Prop :=
  (∀ (s : State) l p, s.pair? l = some p → p.state = 2 → p.desc.kind.getLsbD 5 = false → p.accFaults = [] → p.failed ≠ [] → p.again = [] →
    (∀ c, c < p.desc.clusters → Tab.get 0 p.nextItem c = (p.share c).length) → s.pairQuiet l p = true → s.pairCancelled l p = false →
    ∃ t, exec (.pairLaunchSuspend l) s = .next t ∧ t.pair? l = some { p with state := 3, stage := 2 }) ∧
  (∀ (s : State) l p, s.pair? l = some p → p.failed = [] → p.accFaults = [] → exec (.pairLaunchSuspend l) s = .next s) ∧
  (∀ (s : State) l p, s.pair? l = some p → p.accFaults ≠ [] → s.pairQuiet l p = true →
    let share (c : Nat) : List Cand := partOf (p.desc.candidates p.got).cands p.desc.clusters c
    let rests (st : Nat) : Prop :=
      if st = 1 then p.desc.clusters ∈ p.accFaults ∨ ∀ c, c < p.desc.clusters → c ∈ p.accFaults ∨ (Tab.get [] p.tests c).length = (share c).length
      else if st = 4 then ∀ c, c < p.desc.clusters → c ∈ p.accFaults ∨ Tab.get 0 p.pos c = p.desc.drainSize c
      else ∀ c, c < p.desc.clusters → c ∈ p.accFaults ∨ Tab.get 0 p.pos c = (p.share c).length
    (p.state = 1 ∨ p.state = 4 ∨ (p.state = 2 ∧ p.desc.kind.getLsbD 5 = true) →
      (rests p.state → ∃ t, exec (.pairLaunchSuspend l) s = .next t ∧ t.pair? l = some { p with state := 3, stage := p.state }) ∧
      (¬ rests p.state → exec (.pairLaunchSuspend l) s = .next s))) ∧
  (∀ (s s1 : State) l p, s.pair? l = some p → p.accFaults = [] → s.thPosting p.cluster = false → p.state = 4 → (∀ c, c < p.desc.clusters → Tab.get 0 p.pos c = p.desc.drainSize c) →
    s.writeStatus p 5 false p.abandoned = .ok s1 → exec (.pairLaunchComplete l) s = .next (s1.pairEnd l p 5 p.abandoned false)) ∧
  (∀ (s s1 : State) l p, s.pair? l = some p → p.accFaults = [] → s.thPosting p.cluster = false → p.begunDrain = false → s.pairCancelled l p = true → s.pairQuiet l p = true →
    let n := p.abandoned + (p.left - p.failed.length)
    s.writeStatus p 6 true n = .ok s1 → exec (.pairLaunchComplete l) s = .next (s1.pairEnd l p 6 n true)) ∧
  (∀ (s : State) l p state n can x, s.pair? l = some p → Tab.find s.launches l = some x → (∀ c, Tab.find s.ctxs p.ctx = some c → c.phase = none) →
    ∃ p' x', let t := s.pairEnd l p state n can
      t.pair? l = some p' ∧ p'.state = state ∧ p'.abandoned = n ∧ p'.reserved = false ∧ p'.bins = [] ∧
      Tab.find t.launches l = some x' ∧ x'.count = x.count - 1 ∧ t.mem = s.mem ∧ t.scr = s.scr ∧
      (((s.cluster p.cluster).tl 1).done + 1 = p.num → ((s.cluster p.cluster).tl 1).late = [] → ((t.cluster p.cluster).tl 1).done = p.num)) ∧
  (∀ (s : State) l p, s.pair? l = some p → p.state = 3 →
    (∃ p', (s.pairReplay l).pair? l = some p' ∧ p'.state = p.stage ∧ p'.failed = [] ∧ p'.accFaults = [] ∧ ∀ n, n ∈ p'.again ↔ n ∈ p.failed) ∧
    (p.accFaults = [] → ∃ p', (s.pairKill l).pair? l = some p' ∧ p'.state = p.stage ∧ p'.failed = [] ∧ p'.killed = true ∧
      p'.abandoned = p.abandoned + p.failed.length) ∧
    (p.accFaults ≠ [] → (∀ c, Tab.find s.ctxs p.ctx = some c → c.phase = none) → ∃ p',
      let t := s.pairKill l
      let n := p.abandoned + if p.desc.kind.getLsbD 5 then 0 else p.items.length - p.finished - p.abandoned
      let can := s.pairCancelled l p && !p.begunDrain
      t.pair? l = some p' ∧ p'.state = 6 ∧ p'.killed = true ∧ p'.abandoned = n ∧ p'.cancelled = can ∧ p'.reserved = false ∧ p'.accFaults = [] ∧ t.scr = s.scr ∧
      (∀ s1, s.writeStatus { p with killed := true, failed := [] } 6 can n = .ok s1 → t.mem = s1.mem) ∧
      (∀ x, s.writeStatus { p with killed := true, failed := [] } 6 can n = .error x → t.mem = s.mem) ∧
      (((s.cluster p.cluster).tl 1).done + 1 = p.num → ((s.cluster p.cluster).tl 1).late = [] → ((t.cluster p.cluster).tl 1).done = p.num) ∧
      ∀ x, Tab.find s.launches l = some x → ∃ x', Tab.find t.launches l = some x' ∧ x'.failed = true ∧ x'.count = x.count - 1))

/-! ## The Granary (R272 to R285) -/

/-- Table 11-1: the limits of a descriptor. -/
structure GranaryLimits (d : GDesc) (bwd : Bool) (rest : Nat) : Prop where
  both : d.rowdim % 32 = 0 ∧ 32 ≤ d.rowdim ∧ d.rowdim ≤ 4096 ∧ 4 ≤ d.c ∧ d.c ≤ 8192 ∧ 1 ≤ d.k ∧ d.k ≤ 32 ∧ d.k ≤ d.c ∧ 1 ≤ d.h ∧ d.h ≤ 8 ∧ rest = 0
  pkg  : bwd = true → d.qaddr.toNat % 4 = 0 ∧ d.k1base = 0 ∧ d.k2base = 0 ∧ d.vbase.toNat % 16 = 0 ∧ d.obase = 0 ∧ d.iwbase.toNat % 8 = 0 ∧
           d.iwbase ≠ 0 ∧ d.qdim = 0 ∧ d.tag = 0 ∧ d.sw = 0 ∧ d.ow = 0 ∧ d.fmt = 0 ∧ d.flags = 0
  pkq  : bwd = false → d.qaddr.toNat % 2 = 0 ∧ d.k1base.toNat % 64 = 0 ∧ d.k2base.toNat % 64 = 0 ∧ d.vbase.toNat % 64 = 0 ∧ d.obase.toNat % 4 = 0 ∧
           d.flags < 2 ∧ (d.flags = 0 → d.iwbase = 0) ∧ (d.flags = 1 → d.iwbase.toNat % 8 = 0 ∧ d.iwbase ≠ 0) ∧
           d.qdim % 32 = 0 ∧ 32 ≤ d.qdim ∧ d.qdim ≤ 1024 ∧ -100 ≤ d.sw ∧ d.sw ≤ 40 ∧ -100 ≤ d.ow ∧ d.ow ≤ 40 ∧ d.fmt < 8 ∧
           2 * d.h * d.c * d.qdim ≤ 8388608

/-- R272 to R274, R277, R281: the fields and limits of a descriptor, the unit that serves a cluster, and the k selected. -/
def GranaryDescriptors : Prop :=
  (∀ bs : List Byte, let d := GDesc.of bs
    d.qaddr.toNat = field bs 0x00 8 ∧ d.k1base.toNat = field bs 0x08 8 ∧ d.k2base.toNat = field bs 0x10 8 ∧ d.vbase.toNat = field bs 0x18 8 ∧
      d.obase.toNat = field bs 0x20 8 ∧ d.iwbase.toNat = field bs 0x28 8 ∧ d.rowdim = field bs 0x30 2 ∧ d.qdim = field bs 0x32 2 ∧ d.c = field bs 0x34 2 ∧
      d.k = field bs 0x36 1 ∧ d.h = field bs 0x37 1 ∧ d.tag = field bs 0x38 2 ∧ d.sw = (BitVec.ofNat 8 (field bs 0x3A 1)).toInt ∧
      d.ow = (BitVec.ofNat 8 (field bs 0x3B 1)).toInt ∧ d.fmt = field bs 0x3C 1 ∧ d.flags = field bs 0x3D 1) ∧
  (∀ (d : GDesc) bwd rest, (d.bad bwd rest = none ↔ GranaryLimits d bwd rest) ∧
    (bwd = false → d.qaddr.toNat % 2 = 1 → d.bad bwd rest = some 0) ∧
    (bwd = false → 8388608 < 2 * d.h * d.c * d.qdim → GranaryLimits { d with h := 1, c := 4, k := 1, qdim := 32 } false rest → 1 ≤ d.h → d.h ≤ 8 →
      4 ≤ d.c → d.c ≤ 8192 → 1 ≤ d.k → d.k ≤ 32 → d.k ≤ d.c → d.qdim % 32 = 0 → d.qdim ≤ 1024 → d.bad bwd rest = some 0x32)) ∧
  (∀ d : GDesc, d.stride = if d.fmt % 4 = 0 then 2 * d.rowdim else if d.fmt % 4 = 1 then 4 * d.rowdim
    else if d.fmt % 4 = 2 then 36 * d.rowdim / 32 else 20 * d.rowdim / 32) ∧
  (∀ v i : Nat, i < 64 → granUnitOf (64 * v + i) = 2 * v + i / 32) ∧
  (∀ k (xs : List (Word × Nat)), (topK k xs).length = min k xs.length ∧ (∀ x ∈ topK k xs, x ∈ xs) ∧
    (xs.Nodup → ∀ x ∈ topK k xs, ∀ y ∈ xs, y ∉ topK k xs → selectedBefore x y = true) ∧ (topK k xs).Pairwise (fun x y => selectedBefore x y = true)) ∧
  (∀ x y : Word × Nat, let p := f32 x.1
    let q := f32 y.1
    selectedBefore x y = true ↔ (p.isNan = false ∧ q.isNan = true) ∨ (p.isNan = false ∧ q.isNan = false ∧ (NumVal.lt q p = true ∨ (NumVal.lt p q = false ∧ x.2 ≤ y.2))) ∨
      (p.isNan = true ∧ q.isNan = true ∧ x.2 ≤ y.2))

/-- The two Granary operations. -/
def granaryOf : Instr → Option (FmtA × Bool)
  | .pkq f => some (f, false)
  | .pkg f => some (f, true)
  | _ => none

/-- R281, R283, R285: PKQ and PKG read their descriptor after the thread's earlier operations are performed; a broken limit raises 0x16 at the field's address; with
room the operation is queued under the next number of the cluster's Granary timeline, which is owed, and without room the thread is held. PKSTAT owes
an operation's status. -/
def GranaryIssues : Prop :=
  (∀ i f bwd, granaryOf i = some (f, bwd) → ∀ s op sh iss rest r e s1, Alone s i op sh iss rest (.thr r) e → e.prot = 0 →
    let va := e.pair f.a
    let acc := (s.settle r).access e.core e.ctx e.blk ⟨.read, false, fmtRaw, true⟩ 64 va 64
    (∀ x, acc = (s1, .error x) → FaultsAt i s iss rest e s1 x) ∧
    (∀ keys ptes s2 bs, acc = (s1, .ok (keys, ptes)) → s1.readBytes e va keys = (s2, .ok bs) →
      let d := GDesc.of bs
      let rsv := field bs 0x3E 2
      let c := coreCluster e.core
      let u := granUnitOf c
      let g := Tab.get GranUnit.new s2.grans u
      let room := g.queue.length < if g.run = none then 17 else 16
      (∀ o, d.bad bwd rsv = some o → FaultsAt i s iss rest e s2 ⟨0x16, some (va + BitVec.ofNat 64 o), none, false, false⟩) ∧
      (d.bad bwd rsv = none → room →
        let n := ((s2.cluster c).tl 3).issued + 1
        ∃ s3, Ends i s op sh iss (.thr r) e s3 (fun base th => owesFrom base e (toD f [BitVec.ofNat 32 n, BitVec.ofNat 32 (n / 2 ^ 32)]) th) ∧
          (Tab.get GranUnit.new s3.grans u).queue = g.queue ++ [⟨n, e.ctx, c, r, bwd, d⟩] ∧ ((s3.cluster c).tl 3).issued = n ∧
          s3.mem = s2.mem ∧ s3.scr = s2.scr) ∧
      (d.bad bwd rsv = none → ¬ room →
        Holds i s op sh iss (.thr r) s2 (.engine ⟨if bwd then waitPkg else waitPkq, 0, 0, bytesToWords bs, f.d.toNat, e.slot, f.wbs⟩)))) ∧
  (∀ (f : FmtA) s op sh iss rest l e, Alone s (.pkstat f) op sh iss rest l e →
    let n := (e.pair f.a).toNat
    let c := s.cluster (s.numCluster e.blk 3 n)
    let st := Tab.get ⟨0, 0, false⟩ c.granStat n
    let v : Word := if n = 0 ∨ (c.tl 3).issued < n then 256 else if n + 256 ≤ (c.tl 3).issued then 2
      else BitVec.ofNat 32 (st.state + 4 * st.cause + if st.ovf then 512 else 0)
    ∃ th, owes e (toD f [v]) th ∧ Completes (.pkstat f) s op sh iss l e s th)

/-- The bf16 element i of bytes. -/
def half16 (bs : List Byte) (i : Nat) : NumVal := fmtBf16.decode (field bs (2 * i) 2)

/-- R276: the score of key c of a half for head h: one exact contribution for each product, drained once. -/
def scoreOf (d : GDesc) (keys query : List Byte) (h half c : Nat) : Word :=
  drainF32 ((List.range (d.qdim / 2)).foldl (fun b t => contribute b d.sw
    (NumVal.mul (half16 query (d.qdim * h + half * (d.qdim / 2) + t)) (half16 keys ((half * (d.h * d.c * d.qdim) + d.qdim * (h * d.c + c)) / 2 + t)))) 0) d.sw

/-- R276, R277: the rows that a head selects and their weights; the output bins over the weighted rows; the elements of a value row in each format. -/
def GranaryScores : Prop :=
  (∀ (d : GDesc) keys query h, d.qdim % 32 = 0 → keys.length = 2 * d.h * d.c * d.qdim → query.length = 2 * d.qdim * d.h → h < d.h →
    let top (half : Nat) := topK d.k ((List.range d.c).map (fun c => (scoreOf d keys query h half c, c)))
    let sel := topK d.k ((top 0).flatMap (fun a => (top 1).map (fun b => (once .rn (NumVal.add false (f32 a.1) (f32 b.1)), a.2 * d.c + b.2))))
    let e (x : Word × Nat) : Word := fexpN (f32 (once .rn (NumVal.add false (f32 x.1) (f32 (sel.headD (0, 0)).1).neg)))
    let z := drainF32 (sel.foldl (fun b x => contribute b (-64) (f32 (e x))) 0) (-64)
    headRows d keys query h = sel.map (fun x => (x.2, fdivN (f32 (e x)) (f32 z)))) ∧
  (∀ (d : GDesc) rows c, c < d.rowdim → (outBins d rows)[c]? = some (rows.foldl (fun b r => contribute b d.ow (NumVal.mul (f32 r.1) (r.2.getD c .nan))) 0)) ∧
  (∀ (bs : List Byte) c,
    (2 * c + 2 ≤ bs.length → (rowElems 0 bs)[c]? = some (half16 bs c)) ∧
    (4 * c + 4 ≤ bs.length → (rowElems 1 bs)[c]? = some (f32 (BitVec.ofNat 32 (field bs (4 * c) 4)))) ∧
    (bs.length % 36 = 0 → 36 * (c / 32) + 36 ≤ bs.length → (rowElems 2 bs)[c]? = some (bfpValue 8 (field bs (36 * (c / 32)) 1)
      (field bs (36 * (c / 32) + 4) 32 / 2 ^ (8 * (c % 32))))) ∧
    (bs.length % 20 = 0 → 20 * (c / 32) + 20 ≤ bs.length → (rowElems 3 bs)[c]? = some (bfpValue 4 (field bs (20 * (c / 32)) 1)
      (field bs (20 * (c / 32) + 4) 16 / 2 ^ (4 * (c % 32))))))

/-- R273: with TAG 0 the key tables are read from memory; else a unit that has tables of this context, tag and shape uses them, and reads none, and another
operation reads them and keeps them, most recent first, as far as 8,388,608 bytes go. Resident tables that hold an uncorrectable error fail the operation
(log entry 17). -/
def GranaryTables : Prop :=
  ∀ (s : State) u (o : GranOp),
    let d := o.desc
    let n := d.h * d.c * d.qdim
    let g := Tab.get GranUnit.new s.grans u
    let of_ (t : GranTab) : Prop := t.ctx = o.ctx ∧ t.tag = d.tag ∧ t.h = d.h ∧ t.c = d.c ∧ t.d = d.qdim
    (∀ a b, d.tag = 0 ∨ (∀ t ∈ g.tabs, ¬ of_ t) → s.granRead o 2 d.k1base n = .ok a → s.granRead o 2 d.k2base n = .ok b → s.granTables u o = .ok (a ++ b, false)) ∧
    (∀ t, d.tag ≠ 0 → g.tabs = [t] → of_ t → s.memBad [granKey u o.ctx d.tag] = false → s.granTables u o = .ok (t.keys, true)) ∧
    (∀ t, d.tag ≠ 0 → g.tabs = [t] → of_ t → s.memBad [granKey u o.ctx d.tag] = true → s.granTables u o = .error (.of 0x10)) ∧
    (∀ keys r, d.tag ≠ 0 → ∃ rest, (Tab.get GranUnit.new (s.granTouch u o keys r).grans u).tabs = ⟨o.ctx, d.tag, d.h, d.c, d.qdim, keys⟩ :: rest ∧
      rest.Sublist (g.tabs.filter (fun t => !(t.ctx == o.ctx && t.tag == d.tag))) ∧
      (keys.length ≤ 8388608 → keys.length + (rest.map (fun t => t.keys.length)).sum ≤ 8388608)) ∧
    (∀ keys r, d.tag = 0 → keys.length ≤ 8388608 → ∃ kept, (Tab.get GranUnit.new (s.granTouch u o keys r).grans u).tabs = kept ∧ kept.Sublist g.tabs ∧
      keys.length + (kept.map (fun t => t.keys.length)).sum ≤ 8388608)

/-- What the unit has run: an operation's result. -/
def Ran (t : State) (u : Nat) (o : GranOp) (r : GranResult) : Prop := (Tab.get GranUnit.new t.grans u).run = some (o, r)

/-- R275, R276, R278, R279, R282: what a served operation is to write. PKQ, once its query, tables and selected value rows are read: its output elements, each
drained once, and under RIW its record, each page of them checked; OVF when an output bin overflows. PKG: for every entry of its record one exact
contribution to each bin of the entry's row, at the window of the bin's page; a row of C² or more fails it with 0x16 at the entry
(log entry 51). With OBASE 0 no value row is read (log entry 90). A failed read or check is its failure. -/
def GranaryOperations : Prop :=
  ∀ (s : State) u o rest, (Tab.get GranUnit.new s.grans u).queue = o :: rest → (Tab.get GranUnit.new s.grans u).run = none → s.enginePosting o.c 3 = false →
    let d := o.desc
    let riw : Prop := d.flags % 2 = 1
    let outHalf : Prop := d.fmt / 4 % 2 = 1
    let fails (x : FInfo) : Prop := ∃ t r, exec (.granaryOperation u) s = .next t ∧ Ran t u o r ∧ r.fail = some (x.cause, x.va, x.wr)
    (o.bwd = false →
      (∀ x, s.granRead o 2 d.qaddr (2 * d.qdim * d.h) = .error x → fails x) ∧
      (∀ q x, s.granRead o 2 d.qaddr (2 * d.qdim * d.h) = .ok q → s.granTables u o = .error x → fails x) ∧
      (∀ q keys resident, s.granRead o 2 d.qaddr (2 * d.qdim * d.h) = .ok q → s.granTables u o = .ok (keys, resident) →
        let sel := (List.range d.h).flatMap (headRows d keys q)
        let fmt := if d.fmt % 4 = 0 then 2 else if d.fmt % 4 = 1 then 1 else if d.fmt % 4 = 2 then 5 else 9
        ∀ row : Nat → List Byte, (d.obase ≠ 0 → ∀ r ∈ sel, s.granRead o fmt (d.vbase + BitVec.ofNat 64 (r.1 * d.stride)) d.stride = .ok (row r.1)) →
        let bins := if d.obase = 0 then [] else outBins d (sel.map (fun r => (r.2, rowElems (d.fmt % 4) (row r.1))))
        let out := bins.flatMap (fun b => if outHalf then leBytes 2 (drainBf16 b d.ow) else leBytes 4 (drainF32 b d.ow).toNat)
        let record := if riw then sel.flatMap (fun r => leBytes 4 r.1 ++ leBytes 4 r.2.toNat) else []
        let want (pte : DWord) : Bool := pteFmt pte == 0 || pteFmt pte == (if outHalf then 2 else 1)
        (∀ a b, s.engAccess o.ctx o.t.blk ⟨.write, false, want, false⟩ 1 d.obase out.length = .ok a →
          s.engAccess o.ctx o.t.blk ⟨.write, false, fmtRaw, false⟩ 1 d.iwbase record.length = .ok b →
          ∃ t r, exec (.granaryOperation u) s = .next t ∧ Ran t u o r ∧ r.fail = none ∧ r.adds = [] ∧ (r.ovf = true ↔ ∃ b ∈ bins, drainOvf b = true) ∧
            r.writes.flatMap (fun w => (List.range w.2.2.2.length).map (fun i => (w.2.1 + i, w.2.2.2.getD i 0))) = (partKeys a).zip out ++ (partKeys b).zip record) ∧
        (∀ x, s.engAccess o.ctx o.t.blk ⟨.write, false, want, false⟩ 1 d.obase out.length = .error x → fails x))) ∧
    (o.bwd = true →
      (∀ x, s.granRead o 0 d.iwbase (8 * d.h * d.k) = .error x → fails x) ∧
      (∀ rec0 g, s.granRead o 0 d.iwbase (8 * d.h * d.k) = .ok rec0 → s.granRead o 1 d.qaddr (4 * d.rowdim) = .ok g → rec0.length = 8 * d.h * d.k → g.length = 4 * d.rowdim →
        let row (i : Nat) : Nat := field rec0 (8 * i) 4
        let at_ (i : Nat) : DWord := d.vbase + BitVec.ofNat 64 (16 * (row i * d.rowdim))
        (∀ i, i < d.h * d.k → d.c * d.c ≤ row i → (∀ j, j < i → row j < d.c * d.c ∧
            ∃ key n pte, s.engAccess o.ctx o.t.blk ⟨.write, true, fmtBin true, false⟩ 16 (at_ j) (16 * d.rowdim) = .ok [(key, n, pte)] ∧ s.memBad (partKeys [(key, n, pte)]) = false) →
          fails ⟨0x16, some (d.iwbase + BitVec.ofNat 64 (8 * i)), none, false, false⟩) ∧
        (∀ (key : Nat → Nat) (pte : Nat → DWord), (∀ i, i < d.h * d.k → row i < d.c * d.c ∧
            s.engAccess o.ctx o.t.blk ⟨.write, true, fmtBin true, false⟩ 16 (at_ i) (16 * d.rowdim) = .ok [(key i, 16 * d.rowdim, pte i)] ∧
            s.memBad (partKeys [(key i, 16 * d.rowdim, pte i)]) = false) →
          ∃ t r, exec (.granaryOperation u) s = .next t ∧ Ran t u o r ∧ r.fail = none ∧ r.writes = [] ∧ r.ovf = false ∧
            r.adds = (List.range (d.h * d.k)).flatMap (fun i => (List.range d.rowdim).map (fun c =>
              (at_ i + BitVec.ofNat 64 (16 * c), key i + 16 * c, pteWin (pte i), BitVec.ofNat 32 (field rec0 (8 * i + 4) 4), BitVec.ofNat 32 (field g (4 * c) 4)))))))

/-- R279, R282, R284: a unit serves its oldest operation, and nothing is written yet; when it is done all of it is written or, after a failure or an unheld write,
nothing, with a record of its own (an unheld write is found when the results are written: log entry 51); status and timeline follow. Shown where the block has nothing stored there and nothing held (log entry 58). -/
def GranaryServes : Prop :=
  (∀ (s : State) u o rest, (Tab.get GranUnit.new s.grans u).queue = o :: rest → (Tab.get GranUnit.new s.grans u).run = none → s.enginePosting o.c 3 = false →
    ∃ t r, exec (.granaryOperation u) s = .next t ∧ Ran t u o r ∧ (Tab.get GranUnit.new t.grans u).queue = rest ∧
      t.mem = s.mem ∧ t.scr = s.scr ∧ t.blocks = s.blocks) ∧
  (∀ (s : State) u g, Tab.get GranUnit.new s.grans u = g → (g.queue = [] ∨ g.run ≠ none) → exec (.granaryOperation u) s = .next s) ∧
  (∀ (s : State) u, (Tab.get GranUnit.new s.grans u).run = none → exec (.granaryOperationDone u) s = .next s) ∧
  (∀ (s : State) u o r x, (Tab.get GranUnit.new s.grans u).run = some (o, r) → Tab.find s.ctxs o.ctx = some x → x.phase = none →
    (∀ cause va wr, r.fail = some (cause, va, wr) → ∃ t x' y, exec (.granaryOperationDone u) s = .next t ∧ t.mem = s.mem ∧ t.scr = s.scr ∧
      Tab.find t.ctxs o.ctx = some x' ∧ x'.waiting = x.waiting ++ [⟨y, .engine o.c 3⟩] ∧ y.cause = cause ∧ y.item = o.num ∧ y.src = 5 ∧
      (Tab.get GranUnit.new t.grans u).run = none) ∧
    (r.fail = none → s.granUnheld o r = none → (∀ w ∈ r.writes, pteLoc w.2.2.1 ≠ 3) → r.adds = [] → NothingHeld s o.t.blk →
      NoBlockStores s (s.origin o.t.blk) (r.writes.flatMap (fun w => (List.range w.2.2.2.length).map (fun i => w.2.1 + i))) → ∃ t, exec (.granaryOperationDone u) s = .next t ∧
      (∀ k, t.mem.byte k = lastAt (r.writes.flatMap (fun w => (List.range w.2.2.2.length).map (fun i => (w.2.1 + i, w.2.2.2.getD i 0)))) k (s.mem.byte k)) ∧
      t.scr = s.scr ∧ (Tab.get GranUnit.new t.grans u).run = none ∧
      (((s.cluster o.c).tl 3).done + 1 = o.num → ((s.cluster o.c).tl 3).late = [] → ((t.cluster o.c).tl 3).done = o.num)) ∧
    (r.fail = none → (∃ span ∈ r.writes.map (fun w => (w.1, w.2.2.2.length)) ++ r.adds.map (fun a => (a.1, 16)), s.unheld o.ctx o.t.blk span.1 span.2 = true) →
      ∃ t x' y, exec (.granaryOperationDone u) s = .next t ∧ t.mem = s.mem ∧ t.scr = s.scr ∧ Tab.find t.ctxs o.ctx = some x' ∧
        x'.waiting = x.waiting ++ [⟨y, .engine o.c 3⟩] ∧ y.cause = 0x0B ∧ y.item = o.num ∧ y.src = 5 ∧ (Tab.get GranUnit.new t.grans u).run = none) ∧
    (r.fail = none → s.granUnheld o r = none → r.writes = [] → (∀ a ∈ r.adds, a.2.1 % 16 = 0) → NothingHeld s o.t.blk →
      NoBlockStores s (s.origin o.t.blk) (r.adds.flatMap (fun a => (List.range 16).map (fun i => a.2.1 + i))) → ∃ t, exec (.granaryOperationDone u) s = .next t ∧
      (∀ key, key % 16 = 0 → leVal (t.mem.bytes key 16) = ((r.adds.filter (fun a => a.2.1 == key)).foldl (fun b a =>
        contribute b a.2.2.1 (NumVal.mul (f32 a.2.2.2.1) (f32 a.2.2.2.2))) (BitVec.ofNat 128 (leVal (s.mem.bytes key 16)))).toNat) ∧
      t.scr = s.scr ∧ (Tab.get GranUnit.new t.grans u).run = none))

end Sys2Proof.Spec

namespace Sys2Proof.Spec

/-! ## Tile programs (R245 to R251) -/

/-- Table 10-2: the status word of a tile program's number that is not the running program's. -/
def tileStatus (k : Cluster) (n : Nat) : Word :=
  let st := Tab.get ⟨0, 0, false⟩ k.tileStat n
  if n = 0 ∨ (k.tl 2).issued < n then 256 else if n + 256 ≤ (k.tl 2).issued then 2
  else BitVec.ofNat 32 (st.state + 4 * st.cause + if st.ovf then 512 else 0)

/-- R249 to R251: FORK queues a program under the next number of the cluster's tile timeline, which is owed, after the thread's earlier operations are
performed; a low bit of the entry raises 0x0C, and a full queue holds the thread. RDV owes k0 and the status of a program that has ended, and holds its
participant while one has not. FORKSTAT owes the status. -/
def ForkResults : Prop :=
  (∀ (f : FmtA) s op sh iss rest r e, Alone s (.fork f) op sh iss rest (.thr r) e → e.prot = 0 →
    let entry := e.pair f.a
    let c := coreCluster e.core
    let s1 := s.settle r
    (entry.toNat % 4 ≠ 0 → FaultsAt (.fork f) s iss rest e s (.of 0x0C)) ∧
    (entry.toNat % 4 = 0 → (s1.cluster c).tileQ.length < 8 →
      let n := ((s1.cluster c).tl 2).issued + 1
      ∃ s2, Ends (.fork f) s op sh iss (.thr r) e s2 (fun base th => owesFrom base e (toD f [BitVec.ofNat 32 n, BitVec.ofNat 32 (n / 2 ^ 32)]) th) ∧
        (s2.cluster c).tileQ = (s1.cluster c).tileQ ++ [⟨n, r, entry, e.b f⟩] ∧ ((s2.cluster c).tl 2).issued = n ∧ s2.mem = s1.mem ∧ s2.scr = s1.scr) ∧
    (entry.toNat % 4 = 0 → 8 ≤ (s1.cluster c).tileQ.length →
      Holds (.fork f) s op sh iss (.thr r) s1 (.engine ⟨waitFork, entry, e.b f, [], f.d.toNat, e.slot, f.wbs⟩))) ∧
  (∀ (f : FmtA) s iss rest l e,
    let n := (e.pair f.a).toNat
    let c := s.numCluster e.blk 2 n
    let k := s.cluster c
    let st := Tab.get ⟨0, 0, false⟩ k.tileStat n
    (∀ r, k.tile = some r → r.num ≠ n) → st.state < 4 → st.cause < 64 →
    (∀ op sh, Alone s (.rdv f) op sh iss rest l e →
      (n = 0 ∨ (k.tl 2).issued < n → ∃ th, owes e (toD f [0, 256]) th ∧ Completes (.rdv f) s op sh iss l e s th) ∧
      (n ≠ 0 → n ≤ (k.tl 2).issued → (2 ≤ st.state ∨ n + 256 ≤ (k.tl 2).issued) →
        ∃ th, owes e (toD f [Tab.get 0 k.tileK0 n, tileStatus k n]) th ∧ Completes (.rdv f) s op sh iss l e s th) ∧
      (n ≠ 0 → n ≤ (k.tl 2).issued → st.state < 2 → (k.tl 2).issued < n + 256 → Holds (.rdv f) s op sh iss l s (.rdv c n f.d.toNat e.slot f.wbs))) ∧
    (∀ op sh, Alone s (.forkstat f) op sh iss rest l e →
      ∃ th, owes e (toD f [tileStatus k n]) th ∧ Completes (.forkstat f) s op sh iss l e s th))

/-- R245, R246, R250, R346: the oldest queued program starts on an idle sequencer with its registers and with the cluster's units as R246 says; while one runs,
or an operation of an earlier one is left or a record of it waits to be posted, nothing happens. A program that has exited ends once nothing of it is left on the units: its k0 and its
status are kept and its number is completed (log entry 50). -/
def TilePrograms : Prop :=
  (∀ (s : State) c, ((s.cluster c).tileQ = [] ∨ (s.cluster c).tile ≠ none ∨ (∃ i, i < 4 ∧ (s.mat (4 * c + i)).queue ≠ []) ∨
      ∃ p ∈ s.ctxs, ∃ q ∈ p.2.waiting, q.unit = .tile c) →
    exec (.tileProgramStart c) s = .next s) ∧
  (∀ (s : State) c r rest b, (s.cluster c).tileQ = r :: rest → (s.cluster c).tile = none → (∀ i, i < 4 → (s.mat (4 * c + i)).queue = []) →
    (∀ p ∈ s.ctxs, ∀ q ∈ p.2.waiting, q.unit ≠ .tile c) → s.block? r.t.blk = some b → ∃ t x, exec (.tileProgramStart c) s = .next t ∧ (t.cluster c).tile = some x ∧ (t.cluster c).tileQ = rest ∧
      x.num = r.num ∧ x.t = r.t ∧ x.ended = false ∧ x.th.pc = r.entry ∧ x.th.live = true ∧ x.th.rw 0 = r.arg ∧ x.th.rw 1 = BitVec.ofNat 32 b.scrBase ∧
      x.th.rw 2 = BitVec.ofNat 32 r.t.wp ∧ x.th.rw 3 = BitVec.ofNat 32 b.idx ∧ (∀ n, 4 ≤ n → n < 64 → x.th.rw n = 0) ∧ x.th.p = 0 ∧ x.th.yn = 0 ∧
      x.th.stack = [] ∧ x.th.owed = [] ∧
      (∀ i, i < 4 → ∃ u, t.mat (4 * c + i) = u ∧ u.queue = [] ∧ u.cfg.m = 32 ∧ u.cfg.n = 32 ∧ u.cfg.k = 32 ∧ u.cfg.diag = 0 ∧ u.cfg.fill = 0 ∧
        ∀ a, (u.accAt a).win = 0 ∧ ∀ j, (u.accAt a).bin j = 0) ∧ t.mem = s.mem ∧ t.scr = s.scr ∧ t.blocks = s.blocks) ∧
  (∀ (s : State) c r, (s.cluster c).tile = some r → r.ended = false ∨ s.matBusy c r.num = true → exec (.tileProgramEnd c) s = .next s) ∧
  (∀ (s : State) c r, (s.cluster c).tile = some r → r.ended = true → (∀ p ∈ s.mats, p.2.queue = []) → ((s.cluster c).tl 2).issued < r.num + 256 →
    (∀ p ∈ s.ctxs, p.2.phase = none) → ∃ t, exec (.tileProgramEnd c) s = .next t ∧ (t.cluster c).tile = none ∧
      Tab.get ⟨0, 0, false⟩ (t.cluster c).tileStat r.num = ⟨2, 0, r.ovf⟩ ∧ Tab.get 0 (t.cluster c).tileK0 r.num = r.th.rw 0 ∧ t.mem = s.mem ∧ t.scr = s.scr ∧
      (((s.cluster c).tl 2).done + 1 = r.num → ((s.cluster c).tl 2).late = [] → ((t.cluster c).tl 2).done = r.num))

/-! ## Matrix units (R253 to R267) -/

/-- The unit that a core field names (R247). -/
def unitOf (e : Env) (d : BitVec 7) : Nat := e.core / 4 * 4 + (e.core % 4 + (d.extractLsb' 3 2).toNat) % 4

/-- What each MAT instruction that queues an operation asks of its unit: the operation and the k registers it advances, or its fault. -/
def matAsks : Instr → Option (FmtA × (State → Env → Nat → MatUnit → Except FInfo (MatOp × List RegVal)))
  | .mwin f => some (f, fun _ e _ _ => if -100 ≤ (e.a f).toInt ∧ (e.a f).toInt ≤ 40 then .ok (.mwin (f.d.toNat % 8) (e.a f).toInt, []) else .error (.of 0x03))
  | .mzero f => some (f, fun _ _ _ _ => .ok (.mzero (f.d.toNat % 8), []))
  | .msave f => some (f, saveForm f true .msave)
  | .mrst f => some (f, saveForm f false .mrst)
  | .mma f => some (f, mmaForm false f)
  | .mmaTri f => some (f, mmaForm true f)
  | .mdrain f => some (f, drainForm 0 f)
  | .mdrainh f => some (f, drainForm 1 f)
  | .mdrainb f => some (f, drainForm 2 f)
  | _ => none

/-- R247, R253, R259: a MAT instruction queues its operation on the unit that its core field names, and its sequencer goes on; a bad operand faults at the
instruction; on a full queue the word waits. -/
def MatIssues : Prop :=
  ∀ i f ask, matAsks i = some (f, ask) → ∀ s op sh iss rest c e r, Alone s i op sh iss rest (.tile c) e → (s.cluster c).tile = some r →
    let core := unitOf e f.d
    let u := s.mat core
    (∀ x, ask s e core u = .error x → FaultsAt i s iss rest e s x) ∧
    (∀ mop wr, ask s e core u = .ok (mop, wr) → u.queue.length < 17 → Completes i s op sh iss (.tile c) e
      (s.updMat core (fun u => { u with queue := u.queue ++ [(mop, c, r.num, (f.d.extractLsb' 3 2).toNat)] })) (e.th.puts wr)) ∧
    (∀ mop wr, ask s e core u = .ok (mop, wr) → 17 ≤ u.queue.length → exec i s = .next s)

/-- R255 to R260, R264, Tables 10-3 to 10-5: the bytes of a row by format, where a byte of a row stands, and the checks of scratchpad, register, drain
and save operands, in the order of log entry 89. -/
def MatOperands : Prop :=
  (Machine.matRow 2 = 64 ∧ Machine.matRow 3 = 32 ∧ Machine.matRow 4 = 32 ∧ ∀ n, 5 ≤ n → n ≤ 11 → Machine.matRow n = 4 + 4 * (13 - n)) ∧
  (∀ (v : DWord) len r x,
    let base := (v.extractLsb' 0 20).toNat
    let pitch := (v.extractLsb' 20 12).toNat
    let rot := (v.extractLsb' 52 3).toNat
    spAddr v len r x = if rot = 0 then base + 16 * pitch * r + x else base + 16 * pitch * r + 16 * ((x / 16 + rot * r) % (len / 16)) + x % 16) ∧
  (∀ (s : State) (e : Env) core cf (v : DWord) rows cols,
    let fmt := (v.extractLsb' 55 4).toNat
    let bad := v.extractLsb' 59 5 ≠ 0 ∨ fmt < 2 ∨ 11 < fmt ∨ (v.extractLsb' 52 3 ≠ 0 ∧ Machine.matRow fmt % 16 ≠ 0)
    let aligned := (v.extractLsb' 0 20).toNat % (if fmt = 2 then 2 else if 5 ≤ fmt then 4 else 1) = 0
    (bad → scrOpnd s e core cf v rows cols = .error (.of 0x03)) ∧
    (¬ bad → ¬ aligned → scrOpnd s e core cf v rows cols = .error (.of 0x06)) ∧
    (¬ bad → aligned → scrOpnd s e core cf v rows cols =
      if s.matAllowed e core cf (opndOffsets v rows cols) then .ok (.scr core v) else .error (.of 0x08))) ∧
  (∀ (s : State) (e : Env) cf (v : Word) b, s.block? e.blk = some b →
    let wp := (v.extractLsb' 0 3).toNat
    let wbase := (v.extractLsb' 8 7).toNat
    let bad := cf ≠ 0 ∨ v.extractLsb' 3 5 ≠ 0 ∨ v.extractLsb' 15 17 ≠ 0 ∨ b.warps.length ≤ wp
    let index := wbase % 8 ≠ 0 ∨ b.regs < wbase + 16
    (bad → regOpnd s e cf v = .error (.of 0x03)) ∧ (¬ bad → index → regOpnd s e cf v = .error (.of 0x05)) ∧
      (¬ bad → ¬ index → regOpnd s e cf v = .ok (.reg e.blk wp wbase))) ∧
  (∀ (s : State) (e : Env) core (offs : List Nat), s.matAllowed e core 0 offs = true ↔ ∀ o ∈ offs, e.scrBase ≤ o ∧ o < e.scrBase + e.scrSize) ∧
  (∀ (kind : Nat) (f : FmtA) (s : State) (e : Env) core (u : MatUnit), kind < 3 →
    let v := e.pair f.a
    let size := if kind = 0 then 4 else if kind = 1 then 2 else 16
    let bad := v.extractLsb' 59 5 ≠ 0 ∨ v.extractLsb' 55 4 ≠ 0 ∨ v.extractLsb' 32 20 ≠ 0
    (bad → drainForm kind f s e core u = .error (.of 0x03)) ∧
    (¬ bad → (v.extractLsb' 0 20).toNat % size ≠ 0 → drainForm kind f s e core u = .error { FInfo.of 0x06 with wr := true })) ∧
  (∀ (write : Bool) (f : FmtA) mk (s : State) (e : Env) core (u : MatUnit),
    let v := e.pair f.a
    let at_ := (v.extractLsb' 0 20).toNat
    (v.extractLsb' 20 44 ≠ 0 → saveForm f write mk s e core u = .error (.of 0x03)) ∧
    (v.extractLsb' 20 44 = 0 → at_ % 16 ≠ 0 → saveForm f write mk s e core u = .error { FInfo.of 0x06 with wr := write }) ∧
    (v.extractLsb' 20 44 = 0 → at_ % 16 = 0 → f.d.extractLsb' 3 2 = 0 → saveForm f write mk s e core u =
      if e.scrBase ≤ at_ ∧ at_ + 16400 ≤ e.scrBase + e.scrSize then .ok (mk (f.d.toNat % 8) at_, []) else .error { FInfo.of 0x08 with wr := write }))

/-- R253, R263: MEDGE sets extents and the diagonal offset and MFMT the fill of the unit, for the operations issued after them; a value outside its range
raises operand (0x03), and while the unit's queue is full the word waits. -/
def MatSettings : Prop :=
  ∀ (f : FmtA) s iss rest l e,
    let core := unitOf e f.d
    let v := e.a f
    let o := (e.b f).toInt
    let m := (v.extractLsb' 0 6).toNat
    let n := (v.extractLsb' 8 6).toNat
    let k := (v.extractLsb' 16 6).toNat
    let legal := v.extractLsb' 6 2 = 0 ∧ v.extractLsb' 14 2 = 0 ∧ v.extractLsb' 22 10 = 0 ∧ 1 ≤ m ∧ m ≤ 32 ∧ 1 ≤ n ∧ n ≤ 32 ∧ 1 ≤ k ∧ k ≤ 32 ∧
      -32 ≤ o ∧ o ≤ 32
    (∀ op sh, Alone s (.medge f) op sh iss rest l e →
      (legal → 17 ≤ (s.mat core).queue.length → exec (.medge f) s = .next s) ∧
      (legal → (s.mat core).queue.length < 17 → Completes (.medge f) s op sh iss l e (s.updMat core (fun u => { u with cfg := { u.cfg with m := m, n := n, k := k, diag := o } })) e.th) ∧
      (¬ legal → FaultsAt (.medge f) s iss rest e s (.of 0x03))) ∧
    (∀ op sh, Alone s (.mfmt f) op sh iss rest l e →
      (v.toNat ≤ 4 → 17 ≤ (s.mat core).queue.length → exec (.mfmt f) s = .next s) ∧
      (v.toNat ≤ 4 → (s.mat core).queue.length < 17 → Completes (.mfmt f) s op sh iss l e (s.updMat core (fun u => { u with cfg := { u.cfg with fill := v.toNat, fval := e.b f } })) e.th) ∧
      (4 < v.toNat → FaultsAt (.mfmt f) s iss rest e s (.of 0x03)))

/-- R253, R265, R266: MSYNC waits while an operation of the program is left on a unit, and MBAR too before it arrives at its barrier object; MWAITB waits while the
phase bit equals B[0] or the unit's queue is full. A misaligned offset raises 0x06, one outside the region 0x08, an object with an uncorrectable error 0x10. Shown
for objects in the forking block's region, of a block without a twin. -/
def MatWaits : Prop :=
  ∀ (f : FmtA) s iss rest c e r b, (s.cluster c).tile = some r → s.block? e.blk = some b → b.twin = none →
    let off := (e.a f).toNat
    let core := unitOf e f.d
    let within := off % 8 = 0 ∧ e.scrBase ≤ off ∧ off + 8 ≤ e.scrBase + e.scrSize
    let bad := s.scrBad ((List.range 8).map (fun k => core * 262144 + off + k))
    let inside := within ∧ bad = false
    let o := barOf (s.scrWord core off) (s.scrWord core (off + 4))
    (∀ op sh, Alone s (.msync f) op sh iss rest (.tile c) e →
      (s.matBusy c r.num = true → exec (.msync f) s = .next s) ∧
      (s.matBusy c r.num = false → Completes (.msync f) s op sh iss (.tile c) e s e.th)) ∧
    (f.d.extractLsb' 3 2 = 0 → ∀ op sh, Alone s (.mbar f) op sh iss rest (.tile c) e →
      (inside → s.matBusy c r.num = true → exec (.mbar f) s = .next s) ∧
      (∀ o', inside → s.matBusy c r.num = false → o.arrive .arrive = some o' → ∃ t, exec (.mbar f) s = .next t ∧
        t.lane? (.tile c) = some (stands iss op sh e.th) ∧ t.scrWord core off = o'.lo ∧ t.scrWord core (off + 4) = o'.hi ∧
        ScrKept s t ((List.range 8).map (fun k => core * 262144 + off + k)) ∧ t.mem = s.mem) ∧
      (inside → s.matBusy c r.num = false → o.arrive .arrive = none → FaultsAt (.mbar f) s iss rest e s (.of 0x03)) ∧
      (within → bad = true → FaultsAt (.mbar f) s iss rest e s (.of 0x10)) ∧
      (off % 8 ≠ 0 → FaultsAt (.mbar f) s iss rest e s { FInfo.of 0x06 with wr := true }) ∧
      (off % 8 = 0 → ¬ (e.scrBase ≤ off ∧ off + 8 ≤ e.scrBase + e.scrSize) → FaultsAt (.mbar f) s iss rest e s { FInfo.of 0x08 with wr := true })) ∧
    (f.d.extractLsb' 3 2 = 0 → ∀ op sh, Alone s (.mwaitb f) op sh iss rest (.tile c) e →
      (inside → o.ph ≠ (e.b f).getLsbD 0 → (s.mat core).queue.length < 17 → Completes (.mwaitb f) s op sh iss (.tile c) e s e.th) ∧
      (inside → o.ph = (e.b f).getLsbD 0 ∨ 17 ≤ (s.mat core).queue.length → exec (.mwaitb f) s = .next s) ∧
      (within → bad = true → FaultsAt (.mwaitb f) s iss rest e s (.of 0x10)) ∧
      (off % 8 ≠ 0 → FaultsAt (.mwaitb f) s iss rest e s (.of 0x06)) ∧
      (off % 8 = 0 → ¬ (e.scrBase ≤ off ∧ off + 8 ≤ e.scrBase + e.scrSize) → FaultsAt (.mwaitb f) s iss rest e s (.of 0x08)))

/-- The bytes of one drained bin (R264, R116). -/
def drainedBytes (kind : Nat) (b : BinBits) (w : Int) : List Byte :=
  if kind = 0 then leBytes 4 (drainF32 b w).toNat else if kind = 1 then leBytes 2 (drainBf16 b w) else leBytes 16 b.toNat

/-- R253, R260 to R264, R346: what a unit does with its oldest operation. MWIN and MZERO empty an accumulator; MMA adds the exact products of rows of A and columns of
B into the bins within the extents, or fills above the diagonal under TRI; a drain writes each element once rounded, and changes no bin; MSAVE writes every bin
and the window, and MRST takes them back. Nothing else changes. While a record of the unit waits to be posted it starts no operation. Shown where no operand holds an
uncorrectable error (log entry 50). -/
def MatExecution : Prop :=
  (∀ (s : State) core, ((s.mat core).queue = [] ∨ ∃ p ∈ s.ctxs, ∃ q ∈ p.2.waiting, q.unit = .mat core) → exec (.matrixUnitOperation core) s = .next s) ∧
  (∀ (s : State) core mop c num cf rest r b, (s.mat core).queue = (mop, c, num, cf) :: rest → (s.cluster c).tile = some r → s.block? r.t.blk = some b →
    b.twin = none → b.saved = none → s.poison = [] → (∀ p ∈ s.blocks, ∀ w ∈ p.2.warps, ∀ th ∈ w.threads, th.badW = []) →
    (∀ p ∈ s.ctxs, ∀ q ∈ p.2.waiting, q.unit ≠ .mat core) →
    let u := s.mat core
    let key (o : Nat) : Nat := core * 262144 + o
    ∃ t, exec (.matrixUnitOperation core) s = .next t ∧ (t.mat core).queue = rest ∧ (t.mat core).cfg = u.cfg ∧ t.mem = s.mem ∧ t.blocks = s.blocks ∧
      (∀ k, k ≠ core → t.mat k = s.mat k) ∧
      match mop with
      | .mwin a w => ((t.mat core).accAt a).win = w ∧ (∀ j, ((t.mat core).accAt a).bin j = 0) ∧ (∀ x, x ≠ a → (t.mat core).accAt x = u.accAt x) ∧ t.scr = s.scr
      | .mzero a => ((t.mat core).accAt a).win = (u.accAt a).win ∧ (∀ j, ((t.mat core).accAt a).bin j = 0) ∧
          (∀ x, x ≠ a → (t.mat core).accAt x = u.accAt x) ∧ t.scr = s.scr
      | .mma tri a x y cfg => ((t.mat core).accAt a).win = (u.accAt a).win ∧ (∀ z, z ≠ a → (t.mat core).accAt z = u.accAt z) ∧ t.scr = s.scr ∧
          ∀ i j, i < 32 → j < 32 → ((t.mat core).accAt a).bin (32 * i + j) =
            if tri = true ∧ (i : Int) + cfg.diag < j then fillBin cfg (u.accAt a).win
            else if i < cfg.m then (List.range cfg.k).foldl (fun bin k => contribute bin (u.accAt a).win
              (NumVal.mul ((s.opndRow x cfg.k i).getD k .nan) ((s.opndRow y 32 k).getD j .nan))) ((u.accAt a).bin (32 * i + j))
            else (u.accAt a).bin (32 * i + j)
      | .drain kind a v cfg => (∀ z, (t.mat core).accAt z = u.accAt z) ∧ (kind < 3 →
          let size := if kind = 0 then 4 else if kind = 1 then 2 else 16
          ∀ k, t.scr.byte k = lastAt ((List.range cfg.m).flatMap (fun i => (List.range cfg.n).flatMap (fun j => (List.range size).map (fun x =>
            (key (spAddr v (32 * size) i (size * j + x)), (drainedBytes kind ((u.accAt a).bin (32 * i + j)) (u.accAt a).win).getD x 0))))) k (s.scr.byte k))
      | .msave a base => (∀ z, (t.mat core).accAt z = u.accAt z) ∧ (∀ i, i < 1024 → leVal (t.scr.bytes (key (base + 16 * i)) 16) = ((u.accAt a).bin i).toNat) ∧
          leVal (t.scr.bytes (key (base + 16384)) 4) = (BitVec.ofInt 32 (u.accAt a).win).toNat ∧ leVal (t.scr.bytes (key (base + 16388)) 12) = 0 ∧
          ScrKept s t ((List.range 16400).map (fun k => key (base + k)))
      | .mrst a base => t.scr = s.scr ∧ (∀ z, z ≠ a → (t.mat core).accAt z = u.accAt z) ∧
          let w := (BitVec.ofNat 32 (leVal (s.scr.bytes (key (base + 16384)) 4))).toInt
          (-100 ≤ w → w ≤ 40 → ((t.mat core).accAt a).win = w ∧
            ∀ i, i < 1024 → (((t.mat core).accAt a).bin i).toNat = leVal (s.scr.bytes (key (base + 16 * i)) 16) % 2 ^ 124))

/-! ## The copy engine (R163 to R166) -/

/-- The command that a cluster's engine takes a stage further: the oldest of its queue, which leaves it as it starts, or the one in execution (R162, R163). -/
def Stands (s : State) (c : Nat) (cmd : CopyCmd) (st : CopyStage) : Prop :=
  (s.cluster c).ceRun = some (cmd, st) ∨
    (st = .start ∧ (s.cluster c).ceRun = none ∧ (∃ rest, (s.cluster c).ceQ = cmd :: rest) ∧ s.enginePosting c 0 = false)

/-- The engine of a cluster has taken its command to a stage; memory and scratchpad are as in `u`. -/
def GoesTo (s : State) (c : Nat) (cmd : CopyCmd) (st : CopyStage) (u : State) : Prop :=
  ∃ t, exec (.copyCommandExecute c) s = .next t ∧ (t.cluster c).ceRun = some (cmd, st) ∧ t.mem = u.mem ∧ t.scr = u.scr

/-- R163, R164: rows from r on, n of them, in ascending order, each read wholly before it is written, up to the first failed access; what is written before
it remains. -/
def RowsCopied (cmd : CopyCmd) : Nat → Nat → State → State → Option FInfo → Prop
  | 0, _, s, u, f => u = s ∧ f = none
  | n + 1, r, s, u, f =>
    (∃ x, s.copySrc cmd r = .error x ∧ u = s ∧ f = some x) ∨ (∃ bs x, s.copySrc cmd r = .ok bs ∧ s.copyDst cmd r bs = .error x ∧ u = s ∧ f = some x) ∨
      ∃ bs s1, s.copySrc cmd r = .ok bs ∧ s.copyDst cmd r bs = .ok s1 ∧ RowsCopied cmd n (r + 1) s1 u f

/-- R163, R165: the access to row r of a command's destination in memory: checked, its parts. -/
def RowPlaces (s : State) (cmd : CopyCmd) (r : Nat) : Except FInfo (List (Nat × Nat × DWord)) :=
  let op1 := cmd.w3.extractLsb' 0 2 = 1#2
  s.engAccess cmd.ctx cmd.t.blk ⟨.write, false, if op1 then fmtRaw else fmtCopy, true⟩ 1
    (BitVec.ofNat 64 ((cmd.w1.extractLsb' 0 52).toNat + 16 * (cmd.w2.extractLsb' 48 16).toNat * r)) ((cmd.w2.extractLsb' 0 16).toNat * (if op1 then 2 else 1))

/-- R165: what the checks of an all-or-nothing command have found, which the command keeps: the key of its tile header, and the parts of every destination row. A
command without AON goes on as it is. -/
def Checked (s : State) (cmd k : CopyCmd) : Prop :=
  if cmd.w3.getLsbD 2 then
    ∃ (key : Nat) (parts : List (List (Nat × Nat × DWord))), s.tileHdr cmd .rw (cmd.w1.extractLsb' 0 52).toNat = .ok key ∧ parts.length = (cmd.w2.extractLsb' 16 16).toNat ∧
      (∀ r ps, parts[r]? = some ps → RowPlaces s cmd r = .ok ps) ∧ k = { cmd with dest := some (key, parts) }
  else k = cmd

/-- R163: where the rows of a command stand and what is read and written there. Row r of the source lies at ADDR + 16 × SPITCH × r in memory, in the block's
region or in a member's region, or under OP 1 at element SPITCH × r, each element decoded and rounded to bf16; row r of the destination lies at ADDR + 16 ×
DPITCH × r, and on a LOC 3 page it goes to its peer as a message (log entry 24). A failed check reads or writes nothing. Nothing else changes where the block has
nothing stored there and nothing held (log entry 58). -/
def CopyPlaces : Prop :=
  ∀ (s : State) (cmd : CopyCmd) r,
    let len := (cmd.w2.extractLsb' 0 16).toNat
    let kind (w : DWord) := (w.extractLsb' 56 2).toNat
    let at_ := (cmd.w0.extractLsb' 0 52).toNat + 16 * (cmd.w2.extractLsb' 32 16).toNat * r
    let dest := (cmd.w1.extractLsb' 0 52).toNat + 16 * (cmd.w2.extractLsb' 48 16).toNat * r
    let op1 := cmd.w3.extractLsb' 0 2 = 1#2
    let el := (cmd.w2.extractLsb' 32 16).toNat * r
    let blk := cmd.t.blk
    -- sources
    (¬ op1 → kind cmd.w0 = 0 →
      (∀ x, s.engAccess cmd.ctx blk ⟨.read, false, fmtCopy, false⟩ 1 (BitVec.ofNat 64 at_) len = .error x → s.copySrc cmd r = .error x) ∧
      (∀ ps, s.engAccess cmd.ctx blk ⟨.read, false, fmtCopy, false⟩ 1 (BitVec.ofNat 64 at_) len = .ok ps →
        (s.memBad (partKeys ps) = true → s.copySrc cmd r = .error (.acc 0x10 (BitVec.ofNat 64 at_) .read)) ∧
        (s.memBad (partKeys ps) = false → s.copySrc cmd r = .ok ((partKeys ps).map (s.heldView blk).byte)))) ∧
    (∀ b, ¬ op1 → kind cmd.w0 = 1 → s.block? blk = some b → b.saved = none →
      (s.scrBad ((List.range len).map (fun i => b.core * 262144 + at_ + i)) = false → s.copySrc cmd r = .ok (s.scr.bytes (b.core * 262144 + at_) len)) ∧
      (s.scrBad ((List.range len).map (fun i => b.core * 262144 + at_ + i)) = true → s.copySrc cmd r = .error (.of 0x10))) ∧
    (∀ b g k, ¬ op1 → kind cmd.w0 = 2 → s.block? blk = some b → b.group = some g → at_ < 2 ^ 22 →
      (s.member b g.1 (at_ / 2 ^ 18) = none → s.copySrc cmd r = .error (.local 0x1C false)) ∧
      (s.member b g.1 (at_ / 2 ^ 18) = some k → k.scrSize < at_ % 2 ^ 18 + len → s.copySrc cmd r = .error (.local 0x08 false)) ∧
      (s.member b g.1 (at_ / 2 ^ 18) = some k → at_ % 2 ^ 18 + len ≤ k.scrSize → b.saved = none →
        s.scrBad ((List.range len).map (fun i => k.core * 262144 + (k.scrBase + at_ % 2 ^ 18) + i)) = false →
        s.copySrc cmd r = .ok (s.scr.bytes (k.core * 262144 + (k.scrBase + at_ % 2 ^ 18)) len))) ∧
    (op1 → (∀ v : Nat → NumVal, (∀ i, i < len → elemRead s cmd.ctx blk (BitVec.ofNat 64 (cmd.w0.extractLsb' 0 52).toNat) (el + i) = .ok (v i)) →
        s.copySrc cmd r = .ok ((List.range len).flatMap (fun i => leBytes 2 (fmtBf16.round .rn (v i))))) ∧
      (∀ (v : Nat → NumVal) i x, i < len → (∀ j, j < i → elemRead s cmd.ctx blk (BitVec.ofNat 64 (cmd.w0.extractLsb' 0 52).toNat) (el + j) = .ok (v j)) →
        elemRead s cmd.ctx blk (BitVec.ofNat 64 (cmd.w0.extractLsb' 0 52).toNat) (el + i) = .error x → s.copySrc cmd r = .error x)) ∧
    -- destinations
    (∀ bs, kind cmd.w1 = 0 →
      let acc := s.engAccess cmd.ctx blk ⟨.write, false, if op1 then fmtRaw else fmtCopy, true⟩ 1 (BitVec.ofNat 64 dest) bs.length
      (∀ x, acc = .error x → s.copyDst cmd r bs = .error x) ∧
      (∀ ps, acc = .ok ps → (∀ p ∈ ps, pteLoc p.2.2 ≠ 3) → ∃ u, s.copyDst cmd r bs = .ok u ∧ u.scr = s.scr ∧
        (∀ k, k ∈ partKeys ps → u.mem.byte k = lastAt ((partKeys ps).zip bs) k (s.mem.byte k)) ∧
        (NothingHeld s blk → NoBlockStores s (s.origin blk) (partKeys ps) → MemKept s u (partKeys ps))) ∧
      (∀ key pte fid fn base, acc = .ok [(key, bs.length, pte)] → pteLoc pte = 3 → s.peerBad cmd.ctx (key - memKey 3 0) = false → s.reaches fid = true →
        (Tab.find s.ctxs cmd.ctx).bind (fun x => peerOf s.mem x (key - memKey 3 0)) = some (fid, fn, base) → ∃ u, s.copyDst cmd r bs = .ok u ∧ u.mem = s.mem ∧ u.scr = s.scr ∧
          u.outbox = s.outbox ++ [.m1 fid fn (base + BitVec.ofNat 64 ((key - memKey 3 0) % 2 ^ 40)) ⟨false, 0, 0⟩ bs])) ∧
    (∀ bs b, kind cmd.w1 = 1 → s.block? blk = some b → b.twin = none → b.saved = none → ∃ u, s.copyDst cmd r bs = .ok u ∧ u.mem = s.mem ∧
      u.scr.bytes (b.core * 262144 + dest) bs.length = bs ∧ ScrKept s u ((List.range bs.length).map (fun k => b.core * 262144 + dest + k))) ∧
    (∀ bs b g k, kind cmd.w1 = 2 → s.block? blk = some b → b.twin = none → b.saved = none → b.group = some g → dest < 2 ^ 22 →
      s.member b g.1 (dest / 2 ^ 18) = some k → dest % 2 ^ 18 + bs.length ≤ k.scrSize → ∃ u, s.copyDst cmd r bs = .ok u ∧ u.mem = s.mem ∧
        let key := k.core * 262144 + (k.scrBase + dest % 2 ^ 18)
        u.scr.bytes key bs.length = bs ∧ ScrKept s u ((List.range bs.length).map (fun i => key + i)))

/-- R145, R146: an element that the engine decodes lies where LDE finds it, and has the value that LDE gives it; checked in the order alignment of the base,
permission, format (log entry 15). -/
def CopyElements : Prop :=
  ∀ (s : State) ctx blk (base : DWord) i,
    (∀ x, s.engLeaf ctx .read base = .error x → elemRead s ctx blk base i = .error x) ∧
    (∀ k pte, s.engLeaf ctx .read base = .ok (k, pte) →
      (fmtElem pte = true → base.toNat % baseAlign (pteFmt pte) ≠ 0 → elemRead s ctx blk base i = .error (.acc 0x06 base .read)) ∧
      ((fmtElem pte = true → base.toNat % baseAlign (pteFmt pte) = 0) → permitted pte .read false = false → elemRead s ctx blk base i = .error (.acc 0x08 base .read)) ∧
      (permitted pte .read false = true → fmtElem pte = false → elemRead s ctx blk base i = .error (.acc 0x09 base .read)) ∧
      (∀ bs, permitted pte .read false = true → fmtElem pte = true → base.toNat % baseAlign (pteFmt pte) = 0 → isBfp (pteFmt pte) = false →
        s.engRead ctx blk ⟨.read, false, sameFmt pte, false⟩ 1 (base + BitVec.ofNat 64 (i * elemSize (pteFmt pte))) (elemSize (pteFmt pte)) = .ok bs →
        elemRead s ctx blk base i = .ok (scalarValue (pteFmt pte) (leVal bs))) ∧
      (∀ ex ms, permitted pte .read false = true → fmtElem pte = true → base.toNat % baseAlign (pteFmt pte) = 0 → isBfp (pteFmt pte) = true →
        let b := bfpBits (pteFmt pte)
        let n := geoElems (pteGeo pte)
        let at_ : DWord := base + BitVec.ofNat 64 (i / n * (4 + n * b / 8))
        let lo := 4 + b * (i % n) / 8
        s.engRead ctx blk ⟨.read, false, sameFmt pte, false⟩ 1 at_ 1 = .ok [ex] →
        s.engRead ctx blk ⟨.read, false, sameFmt pte, false⟩ 1 (at_ + BitVec.ofNat 64 lo) (4 + (b * (i % n) + b - 1) / 8 - lo + 1) = .ok ms →
        elemRead s ctx blk base i = .ok (bfpValue b ex.toNat (leVal ms / 2 ^ (b * (i % n) % 8)))))

/-- R162 to R165: a cluster's engine takes its oldest command when it is idle, and takes it stage by stage (log entry 65). A command without flags copies its rows. VCHK
first waits while its source's version is odd and records it, and after the copy reads it again, and copies again when it differs. AON first checks its
header and every destination page, keeps what it finds, and reads the whole source; a failure so far has written nothing. Then it waits while its version is
odd, makes an even v v + 1, writes the tile where its checks have found it, and makes the version v + 2. A failed access is kept for the command's end; so is a version
that holds an uncorrectable error. No byte but the version and the tile changes where the block has nothing stored there and nothing held. -/
def CopyRuns : Prop :=
  (∀ (s : State) c, (s.cluster c).ceQ = [] → (s.cluster c).ceRun = none → exec (.copyCommandExecute c) s = .next s) ∧
  (∀ (s : State) c cmd rest, (s.cluster c).ceQ = cmd :: rest → (s.cluster c).ceRun = none →
    (s.enginePosting c 0 = true → exec (.copyCommandExecute c) s = .next s) ∧
    (s.enginePosting c 0 = false → ∃ t k st, exec (.copyCommandExecute c) s = .next t ∧ (t.cluster c).ceQ = rest ∧ (t.cluster c).ceRun = some (k, st) ∧
      k = { cmd with dest := k.dest } ∧
      (((s.cluster c).tl 0).issued < cmd.num + 256 → Tab.get ⟨0, 0, false⟩ (t.cluster c).ceStat cmd.num = ⟨1, 0, false⟩))) ∧
  (∀ (s : State) c cmd st, Stands s c cmd st →
    let rows := (cmd.w2.extractLsb' 16 16).toNat
    let aon := cmd.w3.getLsbD 2
    let vchk := cmd.w3.getLsbD 3
    let blk := cmd.t.blk
    let fail (x : FInfo) : CopyStage := .done (some ⟨x.cause, x.va, x.wr⟩)
    let source := s.tileHdr cmd .read (cmd.w0.extractLsb' 0 52).toNat
    let header := s.tileHdr cmd .rw (cmd.w1.extractLsb' 0 52).toNat
    let read (bss : List (List Byte)) : Prop := bss.length = rows ∧ ∀ r bs, bss[r]? = some bs → s.copySrc cmd r = .ok bs
    let kept (t : State) (keys : List Nat) : Prop := NothingHeld s blk → NoBlockStores s (s.origin blk) keys → MemKept s t keys
    -- the copy of a command without AON, and the read of one with it; `k` is the command as it goes on
    let copies (k : CopyCmd) (n : CopyStage) : Prop := ∀ u f, RowsCopied k rows 0 s u f →
      (∀ x, f = some x → GoesTo s c k (fail x) u) ∧ (f = none → GoesTo s c k n u)
    let unread (k : CopyCmd) : Prop := ∀ r x, r < rows → s.copySrc cmd r = .error x → (∀ q, q < r → ∃ bs, s.copySrc cmd q = .ok bs) → GoesTo s c k (fail x) s
    -- the destination's version, once the source is read
    let lock (k : CopyCmd) (key : Nat) (bss : List (List Byte)) : Prop :=
      (s.memBad [key] = true → GoesTo s c k (.done (some ⟨0x10, some (BitVec.ofNat 64 (cmd.w1.extractLsb' 0 52).toNat - 16), true⟩)) s) ∧
      (s.memBad [key] = false → (s.version blk key).getLsbD 0 = true → GoesTo s c k (.lock key bss) s) ∧
      (s.memBad [key] = false → (s.version blk key).getLsbD 0 = false → ∃ t, exec (.copyCommandExecute c) s = .next t ∧
        (t.cluster c).ceRun = some (k, .write key (s.version blk key) bss) ∧
        entryAt t.mem key = s.version blk key + 1 ∧ kept t ((List.range 8).map (fun i => key + i)) ∧ t.scr = s.scr)
    let locks (k : CopyCmd) (bss : List (List Byte)) : Prop := ∀ d, k.dest = some d → lock k d.1 bss
    -- VCHK, step 1
    let reads (k : CopyCmd) : Prop := (∀ x, source = .error x → GoesTo s c k (fail x) s) ∧ (∀ key, source = .ok key →
      ((s.version blk key).getLsbD 0 = true → GoesTo s c k .wait s) ∧ ((s.version blk key).getLsbD 0 = false → GoesTo s c k (.read key (s.version blk key)) s))
    (st = .start → aon = true → (∀ x, header = .error x → GoesTo s c cmd (fail x) s) ∧
      (∀ key r x, header = .ok key → r < rows → RowPlaces s cmd r = .error x → (∀ q, q < r → ∃ ps, RowPlaces s cmd q = .ok ps) → GoesTo s c cmd (fail x) s)) ∧
    (st = .start → ∀ k, Checked s cmd k → (vchk = true → reads k) ∧
      (vchk = false → aon = false → cmd.dest = none → copies k (.done none)) ∧
      (vchk = false → aon = true → unread k ∧ ∀ bss, read bss → locks k bss)) ∧
    (st = .wait → vchk = true → reads cmd) ∧
    (∀ key v0, st = .read key v0 → (aon = false → copies cmd (.again key v0 [])) ∧
      (aon = true → unread cmd ∧ ∀ bss, read bss → GoesTo s c cmd (.again key v0 bss) s)) ∧
    (∀ key v0 bss, st = .again key v0 bss → (s.version blk key ≠ v0 → GoesTo s c cmd .wait s) ∧
      (s.version blk key = v0 → (cmd.dest = none → GoesTo s c cmd (.done none) s) ∧ locks cmd bss)) ∧
    (∀ key bss, st = .lock key bss → lock cmd key bss) ∧
    (∀ key v bss d, st = .write key v bss → cmd.dest = some d → (∀ ps ∈ d.2, ∀ p ∈ ps, pteLoc p.2.2 ≠ 3) →
      NothingHeld s blk → NoBlockStores s (s.origin blk) (d.2.flatMap partKeys) →
      ∃ t, exec (.copyCommandExecute c) s = .next t ∧ (t.cluster c).ceRun = some (cmd, .unlock key v) ∧ t.scr = s.scr ∧
        ∀ k, t.mem.byte k = lastAt ((d.2.zip bss).flatMap (fun q => (partKeys q.1).zip q.2)) k (s.mem.byte k)) ∧
    (∀ key v, st = .unlock key v → ∃ t, exec (.copyCommandExecute c) s = .next t ∧ (t.cluster c).ceRun = some (cmd, .done none) ∧ entryAt t.mem key = v + 2 ∧
      kept t ((List.range 8).map (fun i => key + i)) ∧ t.scr = s.scr) ∧
    (∀ f, st = .done f → GoesTo s c cmd (.done f) s))

/-- R166: the loop of a sync word: what is left of the count, and the generation, after n bytes. -/
def syncAfter (target count gen n : Nat) (r : Nat × Nat) : Prop :=
  let c := (count + n) % 2 ^ 32
  (target = 0 → r = (c, gen)) ∧ (target ≠ 0 → r.1 < target ∧ ∃ k, c = r.1 + k * target ∧ r.2 = (gen + k) % 2 ^ 32)

/-- R164, R166, R193, R369: a command's end: its state is kept, its number completed; with SYNC set its bytes join the sync word, and a sync word that holds an
uncorrectable error fails it with 0x10; a failure writes nothing there and is reported with the command's number. Before its last stage it does not end. -/
def CopyCompletes : Prop :=
  (∀ (s : State) c, (∀ cmd f, (s.cluster c).ceRun ≠ some (cmd, .done f)) → exec (.copyCommandComplete c) s = .next s) ∧
  (∀ (s : State) c cmd x b, (s.cluster c).ceRun = some (cmd, .done none) → s.block? cmd.t.blk = some b → b.twin = none → b.saved = none →
    Tab.find s.ctxs cmd.ctx = some x → x.phase = none →
    let bad := s.scrBad ((List.range 12).map (fun i => b.core * 262144 + 16 * (cmd.w3.extractLsb' 8 14).toNat + i)) = true
    (cmd.w3.getLsbD 4 = true → bad → ∃ t x' y, exec (.copyCommandComplete c) s = .next t ∧ (t.cluster c).ceRun = none ∧ t.mem = s.mem ∧ t.scr = s.scr ∧
      Tab.find t.ctxs cmd.ctx = some x' ∧ x'.waiting = x.waiting ++ [⟨y, .engine c 0⟩] ∧ y.cause = 0x10 ∧ y.item = cmd.num ∧ y.src = 3) ∧
    ((cmd.w3.getLsbD 4 = true → ¬ bad) →
    let row := (cmd.w2.extractLsb' 0 16).toNat * (if cmd.w3.extractLsb' 0 2 = 1#2 then 2 else 1)
    let off := 16 * (cmd.w3.extractLsb' 8 14).toNat
    ∃ t, exec (.copyCommandComplete c) s = .next t ∧ (t.cluster c).ceRun = none ∧ t.mem = s.mem ∧
      (((s.cluster c).tl 0).issued < cmd.num + 256 → Tab.get ⟨0, 0, false⟩ (t.cluster c).ceStat cmd.num = ⟨2, 0, false⟩) ∧
      (((s.cluster c).tl 0).done + 1 = cmd.num → ((s.cluster c).tl 0).late = [] → ((t.cluster c).tl 0).done = cmd.num) ∧
      (cmd.w3.getLsbD 4 = false → t.scr = s.scr) ∧
      (cmd.w3.getLsbD 4 = true →
        syncAfter (s.scrWord b.core off).toNat (s.scrWord b.core (off + 4)).toNat (s.scrWord b.core (off + 8)).toNat
          ((cmd.w2.extractLsb' 16 16).toNat * row) ((t.scrWord b.core (off + 4)).toNat, (t.scrWord b.core (off + 8)).toNat) ∧
        ScrKept s t ((List.range 8).map (fun k => b.core * 262144 + off + 4 + k))))) ∧
  (∀ (s : State) c cmd cause va wr x, (s.cluster c).ceRun = some (cmd, .done (some ⟨cause, va, wr⟩)) → Tab.find s.ctxs cmd.ctx = some x → x.phase = none →
    ∃ t x' y, exec (.copyCommandComplete c) s = .next t ∧ (t.cluster c).ceRun = none ∧ t.mem = s.mem ∧ t.scr = s.scr ∧
      (((s.cluster c).tl 0).issued < cmd.num + 256 → Tab.get ⟨0, 0, false⟩ (t.cluster c).ceStat cmd.num = ⟨3, cause % 64, false⟩) ∧
      Tab.find t.ctxs cmd.ctx = some x' ∧ x'.waiting = x.waiting ++ [⟨y, .engine c 0⟩] ∧ y.cause = cause % 256 ∧ y.item = cmd.num ∧ y.src = 3)

end Sys2Proof.Spec

namespace Sys2Proof.Spec

/-! ## Holds (R403) -/

/-- R403, R352, R357: a held thread of an unprotected block without a twin goes on when what it waits for has come, and stays held until then. -/
def HoldsEnd : Prop :=
  ∀ (s : State) (t : TRef) b th e, s.block? t.blk = some b → b.saved = none → b.prot = 0 → b.twin = none → b.primary = true → s.commitDue b = false →
    s.thread? t = some th → th.live = true → s.env? (.thr t) 7 th.pc th.cont = some e →
    let goesOn := s.updThread t (fun th => { th with hold := none, line := if th.cont = 0 then [] else th.line })
    (∀ obj excl, th.hold = some (.acq obj excl) →
      ((t.blk, true) ∈ (s.sync obj).1 ∨ (excl = false ∧ (t.blk, false) ∈ (s.sync obj).1) → s.wake t = goesOn) ∧
      (¬ ((t.blk, true) ∈ (s.sync obj).1 ∨ (excl = false ∧ (t.blk, false) ∈ (s.sync obj).1)) → s.wake t = s)) ∧
    (∀ off ph k, th.hold = some (.bar off ph k) →
      s.wake t = if (barOf (s.scrWord b.core off) (s.scrWord b.core (off + 4))).ph ≠ ph then goesOn else s) ∧
    (∀ off gen, th.hold = some (.swwait off gen) → s.wake t = if s.scrWord b.core (off + 8) ≠ gen then goesOn else s) ∧
    (∀ c eng n, th.hold = some (.tlwait c eng n) → s.wake t = if n ≤ ((s.cluster c).tl eng).done then goesOn else s) ∧
    (∀ serial p, th.hold = some (.phwait serial) → (Tab.find s.ctxs b.ctx).bind (fun c => c.phase) = some p →
      s.wake t = if p.serial = serial ∧ p.ended = false then s else goesOn) ∧
    (∀ scope, th.hold = some (.fence scope) →
      let done := (scope = 0 ∨ th.stq = []) ∧ (2 < scope → ∀ p ∈ b.out, p.1 ≠ t ∧ ∀ q, p.2.peer = some q → t ∉ q.2) ∧ (∀ p ∈ s.clusters, ∀ q ∈ p.2.atomQ, ∀ x ∈ q.parts, x.t ≠ t) ∧
        (scope = 6 → ∀ p ∈ s.clusters, ∀ d ∈ p.2.m1Due, t ∉ d.1)
      (done → s.wake t = goesOn) ∧ (¬ done → s.wake t = s)) ∧
    (∀ due, th.hold = some (.tlbinv due) →
      let waits := ∃ d ∈ due, ∃ x, s.block? d.blk = some x ∧ x.epoch = d.epoch ∧ x.reexec = d.reexec ∧ ∃ i ∈ d.ops, ∃ h, x.held[i]? = some h ∧
        ∀ o, h.act = .store o → o.keys ≠ []
      (¬ waits → s.wake t = goesOn) ∧ (waits → s.wake t = s)) ∧
    (∀ mask d slot wbs, th.hold = some (.waitev mask d slot wbs) → s.evpend b &&& mask = 0 → s.wake t = s) ∧
    (th.hold = some .commit → s.wake t = s) ∧ (th.hold = none → s.wake t = s)

/-! ## The package outside the cores (R155, R373, R386 to R401) -/

/-- R137, R155, R373: a refresh window starts or ends at the next time of its bank group's period; a scrub counts what it corrects in its unit's bank, and poisons
what it finds bad: of HBM the bytes of the row in its stack, which has every eighth unit of 256 (log entry 33), of L2 and its loft ways the place reported. No byte of
memory changes (log entries 17 and 35). -/
def RefreshAndScrubs : Prop :=
  (∀ (s : State) die group enter, group < 64 → ∃ t, exec (.siloRefreshWindow die group enter) s = .next t ∧ t = { s with dies := t.dies } ∧
    (∀ k, k ≠ die → t.die k = s.die k) ∧ t.die die = { s.die die with silo := (t.die die).silo } ∧
    (s.die die).silo ≤ (t.die die).silo ∧ (t.die die).silo < (s.die die).silo + 64000 ∧
    (((t.die die).silo : Int) - 1000 * (group : Int)) % 64000 = if enter then 0 else 1200) ∧
  (∀ (s : State) stack count, stack < 8 → ∃ t, exec (.hbmScrubPass stack count []) s = .next t ∧
    Tab.get Bank.new t.banks (0x600 + stack) =
      { Tab.get Bank.new s.banks (0x600 + stack) with ce := (Tab.get Bank.new s.banks (0x600 + stack)).ce + BitVec.ofNat 16 count } ∧
    t.poison = s.poison ∧ t.mem = s.mem) ∧
  (∀ (s : State) stack row, stack < 8 → ∃ t, exec (.hbmScrubPass stack 0 [row]) s = .next t ∧
    Tab.get Bank.new t.banks (0x600 + stack) = uncorrectable (Tab.get Bank.new s.banks (0x600 + stack)) (BitVec.ofNat 64 (row % 2 ^ 52)) ∧
    let place (o : Nat) : Nat := o / 256 * 2048 + 256 * stack + o % 256
    let first := row / 2048 * 256 + row % 256
    (∀ i, 8 * i < Config.hbmRowBytes → t.memBad [place (first + 8 * i)] = true) ∧ (∀ g ∈ s.poison, g ∈ t.poison) ∧
    (∀ g ∈ t.poison, g ∈ s.poison ∨ ∃ i, 8 * i < Config.hbmRowBytes ∧ g = 2 * (place (first + 8 * i) / 8)) ∧ t.mem = s.mem) ∧
  (∀ (s : State) u loc, (∃ t, exec (.arrayScrubPass u [loc] []) s = .next t ∧
      Tab.get Bank.new t.banks u = corrected (Tab.get Bank.new s.banks u) (BitVec.ofNat 64 (loc % 2 ^ 52)) ∧ t.poison = s.poison ∧ t.mem = s.mem) ∧
    (∃ t, exec (.arrayScrubPass u [] [loc]) s = .next t ∧
      Tab.get Bank.new t.banks u = uncorrectable (Tab.get Bank.new s.banks u) (BitVec.ofNat 64 (loc % 2 ^ 52)) ∧
      (loc < 2 ^ 52 → t.memBad [(if 0x608 ≤ u then 2 ^ 52 else 0) + loc] = true) ∧
      (u < 0x608 → 2 ^ 52 ≤ loc → loc < 2 ^ 200 → loc ∈ t.poison) ∧ t.mem = s.mem))

/-- R22, R396, R397: at a grant period every cluster gets its demand where the sum fits the budget, which is at most 12,000 A and what keeps the average of the
last 500 periods, 1 ms, within CAP; else its share rounded down, and the units left over go one each to the lower clusters first, none getting more than it
asked for, so that all of the budget is given out. A die goes to step 3 at TRIP + 10, else down one step at TRIP or after 4 short periods, else up one
after 500 easy ones, within STEPMIN and 3 (log entry 55). -/
def PowerGrants : Prop :=
  (∀ (demand : List Nat) b, (demand.sum ≤ b → grantsOf demand b = demand) ∧
    (b < demand.sum →
      let share (k : Nat) : Nat := demand.getD k 0 * b / demand.sum
      let left := b - ((List.range demand.length).map share).sum
      (grantsOf demand b).length = demand.length ∧ (grantsOf demand b).sum = b ∧
      ∀ k, k < demand.length → (grantsOf demand b).getD k 0 =
        share k + (if share k < demand.getD k 0 ∧ ((List.range k).filter (fun j => share j < demand.getD j 0)).length < left then 1 else 0))) ∧
  (∀ (d : Die) short easy,
    let t := d.period short easy
    let n := if short then d.short + 1 else 0
    let calms := if easy = true ∧ d.temp + 5 ≤ d.trip then d.calm + 1 else 0
    let want := if d.trip + 10 ≤ d.temp then 3 else if d.trip ≤ d.temp ∨ 4 ≤ n then d.step + 1 else if 500 ≤ calms then d.step - 1 else d.step
    t.step = min 3 (max d.stepMin want) ∧ t.stepMin = d.stepMin ∧ t.trip = d.trip ∧ (t.stepDn = if d.step < t.step then d.stepDn + 1 else d.stepDn)) ∧
  (∀ (s : State) demand demandUp temp hot draw budget, demand.length = 256 → (∀ i, i < 4 → temp.getD i 0 < (s.die i).trip + 10) →
    let spent := (s.dev.granted.take 499).sum
    let given := grantsOf demand (min 12000 (min budget (500 * s.dev.cap - spent)))
    ∃ t, exec (.grantPeriod demand demandUp temp hot draw budget) s = .next t ∧ t = { s with dies := t.dies, dev := t.dev } ∧
      t.dev = { s.dev with draw := draw, granted := (given.sum :: s.dev.granted).take 499 } ∧
      given.sum ≤ 12000 ∧ (spent ≤ 500 * s.dev.cap → given.sum + spent ≤ 500 * s.dev.cap) ∧
      ∀ i, i < 4 → (t.die i).temp = temp.getD i 0 ∧ (t.die i).hot = hot.getD i 0 ∧
        (t.die i).grants = (given.drop (64 * i)).take 64 ∧ (t.die i).ready = (s.die i).ready) ∧
  (∀ (s : State) demand demandUp temp hot draw budget i, i < 4 → (s.die i).trip + 10 ≤ temp.getD i 0 →
    (∀ j, j < 4 → j ≠ i → temp.getD j 0 < (s.die j).trip + 10) →
    ∃ t, exec (.grantPeriod demand demandUp temp hot draw budget) s = .next t ∧ raised s t 0 2 ∧ (t.die i).step = 3 ∧ t.mem = s.mem)

/-- A device that some link in use leads to, or this one (R395; the links that lead to a device are the device's own: log entry 67). -/
def Routed (d : Device) (fid : Nat) : Prop := fid = d.fid ∨ d.links &&& ~~~d.linkDown &&& Config.linksTo fid ≠ 0

/-- R12, R13, R22, R395, R397: a write of a die's FENCE word fences its clusters, and a failing cluster is fenced for good; a job that lasts has the logical
clusters of a cluster fenced now held by the next healthy one in package order from then on, whatever becomes healthy later; nothing else changes. A failed
link records an uncorrectable error in its bank and is used no more. A message operation or a store towards a device without a route left ends (the messages
of R395 with cause 0x10), a reduction with such a rank aborts, and everything else goes on (log entry 67). -/
def FencesAndLinks : Prop :=
  (∀ (s : State) die mask, s.dev.ready = true → die < 4 → ∃ t, exec (.clusterFence die mask) s = .next t ∧
    t = { s with dies := t.dies, clusters := t.clusters, ctxs := t.ctxs } ∧ (t.die die).fence = mask ∧
    (∀ c, c / 64 = die → t.cluster c = { s.cluster c with healthy := !(s.cluster c).failed && !mask.getLsbD (c % 64) }) ∧
    (∀ c, c / 64 ≠ die → t.cluster c = s.cluster c) ∧
    ((∀ c, c / 64 = die → (s.cluster c).healthy = true → mask.getLsbD (c % 64) = false ∧ (s.cluster c).failed = false) → t.ctxs = s.ctxs) ∧
    (∀ slot x job l, Tab.find s.ctxs slot = some x → Tab.find x.jobs job = some l → l.complete = false →
      ∃ x' l', Tab.find t.ctxs slot = some x' ∧ Tab.find x'.jobs job = some l' ∧ ∀ k, k < 256 →
        let held := Tab.get k l.cores k
        let now := Tab.get k l'.cores k
        (held / 64 ≠ die ∨ (t.cluster held).healthy = true ∨ (s.cluster held).healthy = false → now = held) ∧
        (held / 64 = die → (s.cluster held).healthy = true → (t.cluster held).healthy = false →
          (∃ g, g < 256 ∧ g / 64 ≠ die ∧ (s.cluster g).healthy = true) → (t.cluster now).healthy = true))) ∧
  (∀ (s : State) c, ∃ t, exec (.failingClusterFence c) s = .next t ∧ t = { s with clusters := t.clusters, ctxs := t.ctxs } ∧
    t.cluster c = { s.cluster c with failed := true, healthy := false } ∧ (∀ k, k ≠ c → t.cluster k = s.cluster k) ∧
    ((s.cluster c).healthy = false → t.ctxs = s.ctxs) ∧
    ((s.cluster c).healthy = true → ∀ slot x job l, Tab.find s.ctxs slot = some x → Tab.find x.jobs job = some l →
      let at_ := packageOrder.idxOf c
      let heir := ((packageOrder.drop (at_ + 1) ++ packageOrder.take at_).find? (fun k => (s.cluster k).healthy)).getD c
      ∃ x' l', Tab.find t.ctxs slot = some x' ∧ Tab.find x'.jobs job = some l' ∧ (l.complete = true → l' = l) ∧
        (l.complete = false → ∀ k, k < 256 → Tab.get k l'.cores k = if Tab.get k l.cores k = c then heir else Tab.get k l.cores k))) ∧
  (∀ (s : State) link, link < 24 → ∃ t, exec (.linkFailure link) s = .next t ∧
    t.dev = { s.dev with linkDown := s.dev.linkDown ||| BitVec.ofNat 24 (2 ^ link) } ∧
    Tab.get Bank.new t.banks (0x614 + link) = uncorrectable (Tab.get Bank.new s.banks (0x614 + link)) 0 ∧ t.mem = s.mem ∧ t.scr = s.scr ∧
    (∀ c (m : MsgOp), m ∈ (t.cluster c).msgs ↔ m ∈ (s.cluster c).msgs ∧ (m.kind = 2 ∨ ∀ d ∈ m.dsts, Routed t.dev d)) ∧
    (∀ c d, d ∈ (t.cluster c).m1Due ↔ d ∈ (s.cluster c).m1Due ∧ Routed t.dev d.2.2.2) ∧
    (∀ c (m : MsgOp) x, m ∈ (s.cluster c).msgs → m.kind ≠ 2 → (∃ d ∈ m.dsts, ¬ Routed t.dev d) → Tab.find s.ctxs m.ctx = some x →
      (∃ x' r, Tab.find t.ctxs m.ctx = some x' ∧ r ∈ x'.waiting ∧ r.frec.cause = 0x10 ∧ r.frec.src = 6 ∧ r.frec.item = m.num) ∧
      (((s.cluster c).tl 4).done + 1 = m.num → m.num ≤ ((t.cluster c).tl 4).done)) ∧
    (∀ (i : Nat) (q : SwSeq), s.switches[i]? = some q →
      let cut := ∃ p ∈ t.clusters, ∃ m ∈ p.2.msgs, m.kind = 2 ∧ m.gid = q.gid ∧ m.seq = q.seq ∧ ∃ d ∈ m.dsts, ¬ Routed t.dev d
      (cut → t.switches[i]? = some { q with got := [], bad := false, aborted := true }) ∧ (¬ cut → t.switches[i]? = some q)))

/-- A command that a function takes (R389, R390): the device is ready, the function exists, and it is not busy. -/
def Takes (s : State) (fn : Nat) : Prop := s.dev.ready = true ∧ fn ≤ s.dev.vfs ∧ (Tab.get FnRegs.new s.fns fn).ctxRes ≠ 0

/-- The command ends with a result and a cause, and changes nothing else. -/
def Answers (i : Instr) (s : State) (fn res cause : Nat) : Prop :=
  ∃ t, exec i s = .next t ∧ t = { s with fns := t.fns } ∧
    Tab.get FnRegs.new t.fns fn = { Tab.get FnRegs.new s.fns fn with ctxRes := res, ctxCause := cause }

/-- R273, R347, R390: the context commands. Create makes the context that its descriptor describes and starts its handler with the registers of R347, or is refused
with cause 0x03, 0x1A or 0x14; the service core is the first free one from the cluster named on, in package order, on a die that no Silo load fills (R393, log entry
84). Destroy ends in the slot free once nothing of the context is left, and nothing of it resident in a TLB or a Granary unit. Start handler starts a killed one; signal sets HOST in
every block of the context. A busy function takes no command, and a function's commands reach only contexts it has created. -/
def ContextCommands : Prop :=
  (∀ (s : State) c,
    let at_ := packageOrder.idxOf (if (s.cluster c).healthy then c else s.standIn c)
    let free (k : Nat) : Bool := (s.cluster k).healthy && (match s.dev.siloLoad with | some l => l.die != k / 64 | none => true) &&
      !s.blocks.any (fun p => p.2.kind == .handler && p.2.core == 1024 + k && !p.2.warps.isEmpty)
    s.handlerCluster c = (packageOrder.drop at_ ++ packageOrder.take at_).find? free) ∧
  (∀ (s : State) fn slot, ¬ Takes s fn → exec (.contextCreate fn slot) s = .next s ∧ exec (.contextDestroy fn slot) s = .next s ∧
    exec (.startHandler fn slot) s = .next s ∧ exec (.signalHost fn slot) s = .next s) ∧
  (∀ (s : State) fn slot, Takes s fn →
    let a := (Tab.get FnRegs.new s.fns fn).ctxArg.toNat
    let h := s.mem.bytes (2 * 2 ^ 52 + a % 2 ^ 52) 64
    let badField := a % 64 ≠ 0 ∨ field h 0 8 % 65536 ≠ 0 ∨ Config.hbmBytes ≤ field h 0 8 ∨ field h 0x10 8 = 0 ∨ field h 0x10 8 % 4 ≠ 0 ∨
      field h 0x21 7 ≠ 0 ∨ 4096 < field h 0x38 4 ∨ field h 0x3C 4 ≠ 0
    let c := Ctx.of fn h
    (64 ≤ slot ∨ Tab.find s.ctxs slot ≠ none ∨ badField → Answers (.contextCreate fn slot) s fn 2 0x03) ∧
    (slot < 64 → Tab.find s.ctxs slot = none → ¬ badField → s.loftOver c = true → Answers (.contextCreate fn slot) s fn 2 0x1A) ∧
    (slot < 64 → Tab.find s.ctxs slot = none → ¬ badField → s.loftOver c = false → s.handlerCluster c.hcluster = none →
      Answers (.contextCreate fn slot) s fn 2 0x14) ∧
    (∀ k, slot < 64 → Tab.find s.ctxs slot = none → ¬ badField → s.loftOver c = false → s.handlerCluster c.hcluster = some k →
      ∃ t x b, exec (.contextCreate fn slot) s = .next t ∧ Tab.find t.ctxs slot = some x ∧ x.fn = fn ∧ x.root = field h 0 8 ∧
        x.loft = [field h 8 2, field h 10 2, field h 12 2, field h 14 2] ∧ x.save.toNat = field h 0x28 8 ∧ x.peers.toNat = field h 0x30 8 ∧
        x.npeers = field h 0x38 4 ∧ x.queue = [] ∧ x.seq = 0 ∧ x.handler = some (s.tags + 1) ∧ t.block? (s.tags + 1) = some b ∧
        b.kind = .handler ∧ b.core = 1024 + k ∧ b.ctx = slot ∧ b.regs = 128 ∧ b.unif = 64 ∧ b.scrSize = 0 ∧ b.prot = 0 ∧
        StartsAs b [0, 0, 0, 0, BitVec.ofNat 32 (field h 0x18 4), BitVec.ofNat 32 (field h 0x1C 4), 0, 0, 1, 32, 0, 0] 32 (BitVec.ofNat 64 (field h 0x10 8)) ∧
        (Tab.get FnRegs.new t.fns fn).ctxRes = 1 ∧ t.mem = s.mem ∧ t.scr = s.scr)) ∧
  (∀ (s : State) fn slot, Takes s fn → (∀ c, Tab.find s.ctxs slot = some c → c.fn ≠ fn) →
    Answers (.contextDestroy fn slot) s fn 2 0x03 ∧ Answers (.startHandler fn slot) s fn 2 0x03 ∧ Answers (.signalHost fn slot) s fn 2 0x03) ∧
  (∀ (s : State) fn slot c, Takes s fn → Tab.find s.ctxs slot = some c → c.fn = fn →
    (∃ t x, exec (.contextDestroy fn slot) s = .next t ∧ (Tab.get FnRegs.new t.fns fn).ctxRes = 0 ∧ Tab.find t.ctxs slot = some x ∧ x.dying = true) ∧
    (c.handler ≠ none → Answers (.startHandler fn slot) s fn 1 0) ∧
    (∀ k, c.handler = none → s.handlerCluster c.hcluster = some k → ∃ t b x, exec (.startHandler fn slot) s = .next t ∧
      t.block? (s.tags + 1) = some b ∧ b.kind = .handler ∧ b.core = 1024 + k ∧ b.ctx = slot ∧ Tab.find t.ctxs slot = some x ∧
      x.handler = some (s.tags + 1) ∧ x.queue = c.queue ∧ (Tab.get FnRegs.new t.fns fn).ctxRes = 1) ∧
    (∃ t, exec (.signalHost fn slot) s = .next t ∧ (Tab.get FnRegs.new t.fns fn).ctxRes = 1 ∧ t.mem = s.mem ∧
      ∀ k b, s.block? k = some b → t.block? k = some (if b.ctx = slot then { b with evpend := b.evpend ||| 1 } else b))) ∧
  (∀ (s : State) slot c, Tab.find s.ctxs slot = some c →
    (c.dying = false ∨ s.ctxQuiet slot = false → exec (.contextDestroyDone slot) s = .next s) ∧
    (c.dying = true → s.ctxQuiet slot = true → c.bound = [] → ∃ t, exec (.contextDestroyDone slot) s = .next t ∧ Tab.find t.ctxs slot = none ∧
      ((∀ k b, c.handler = some k → s.block? k = some b → b.ctx = slot ∧ b.primary = true ∧ s.forked k = false) →
        ∀ k, k ≠ slot → Tab.find t.ctxs k = Tab.find s.ctxs k) ∧ (Tab.get FnRegs.new t.fns c.fn).ctxRes = 1 ∧
      (∀ k, c.handler = some k → t.block? k = none) ∧ (∀ p ∈ t.tlbs, ∀ x ∈ p.2, x.ctx ≠ slot) ∧ ∀ p ∈ t.grans, ∀ x ∈ p.2.tabs, x.ctx ≠ slot))

/-- R387 to R389, Table 18-3: what a register read gives: all-ones for an access that is not 8 bytes at a multiple of 8; 0 in a VF for a register of PF 0; STATUS,
composed of its bits; CTXRES with its cause; the other registers as they stand; the MSI-X table's bytes and the pending bits. -/
def HostReads : Prop :=
  ∀ (s : State) fn,
    let g := Tab.get FnRegs.new s.fns fn
    let bit (b : Bool) (n : Nat) : Nat := if b then n else 0
    (∀ off size, size ≠ 8 ∨ off % 8 ≠ 0 ∨ s.dev.vfs < fn → s.regRead fn off size = BitVec.allOnes 64) ∧
    (fn ≤ s.dev.vfs →
      s.regRead fn 0 8 = BitVec.ofNat 64 (bit s.dev.ready 1 + bit s.dev.recovery 2 + bit s.dev.cfgdef 4 + 16 * s.dev.bringUp) ∧
      s.regRead fn 0x10 8 = g.ctxArg ∧ s.regRead fn 0x18 8 = BitVec.ofNat 64 (g.ctxRes + 256 * g.ctxCause) ∧ s.regRead fn 0x20 8 = g.evBase ∧
      s.regRead fn 0x28 8 = BitVec.ofNat 64 g.evSize ∧ s.regRead fn 0x30 8 = BitVec.ofNat 64 g.evHead ∧ s.regRead fn 0x38 8 = BitVec.ofNat 64 g.evTail ∧
      s.regRead fn 0xA0 8 = g.attDst ∧ (∀ i, i < 4 → s.regRead fn (0x80 + 8 * i) 8 = g.attNonce.getD i 0) ∧
      (∀ i, i < 8 → s.regRead fn (0x8000 + 8 * i) 8 = BitVec.ofNat 64 (leVal (g.msix.bytes (8 * i) 8))) ∧
      (∀ i k, i < 2048 → k < 64 → (s.regRead fn (0xC000 + 8 * i) 8).getLsbD k = decide (64 * i + k ∈ g.pend)) ∧
      (fn ≠ 0 → ∀ off, off % 8 = 0 → (0x40 ≤ off ∧ off ≤ 0x60) ∨ (0xB0 ≤ off ∧ off ≤ 0x118) → s.regRead fn off 8 = 0)) ∧
    (s.regRead 0 0x40 8 = s.dev.siloSrc ∧ s.regRead 0 0x48 8 = s.dev.siloDst ∧ s.regRead 0 0x50 8 = s.dev.siloLen ∧ s.regRead 0 0x60 8 = s.dev.apBase ∧
      s.regRead 0 0x110 8 = BitVec.ofNat 64 s.dev.cap ∧
      ∀ d, d < 4 → s.regRead 0 (0xB0 + 8 * d) 8 = (s.die d).fence ∧ s.regRead 0 (0xD0 + 8 * d) 8 = BitVec.ofNat 64 (s.die d).stepMin ∧
        s.regRead 0 (0xF0 + 8 * d) 8 = BitVec.ofNat 64 (s.die d).trip)

/-- R388, R389, R393, R398, R401: SILOGO starts a load or is refused in CTXRES of PF 0 (a write while a load runs does nothing: log entry 36); its end puts the
bytes into the Silo and raises vector 1. A host register keeps what is written to it, the ring's places read modulo a size that is written, and a smaller ring that
cannot keep what the host has not read counts as full (R391), and an access that is not 8 bytes at a multiple of 8 changes nothing; a
pending vector whose mask a write of the MSI-X table takes off is sent (log entry 76); BAR4 reads and writes HBM from APBASE on, and in RECOVERY the flash place of
a boot image (log entry 80); atomics are Unsupported Requests, and configuration requests are answered with retry until step 6 (log entry 54). -/
def HostAccesses : Prop :=
  (∀ s : State,
    let pa := s.dev.siloDst.toNat
    let die := pa / 2 ^ 31 % 4
    let len := s.dev.siloLen.toNat
    let bad := len = 0 ∨ len % 4096 ≠ 0 ∨ pa % 2 ^ 31 % 4096 ≠ 0 ∨ 2 ^ 31 < pa % 2 ^ 31 + len
    let live := ∃ p ∈ s.launches, p.2.complete = false ∧
      (die ∈ p.2.dies ∨ ∃ q, Tab.find s.pairs p.1 = some q ∧ q.state ≠ 0 ∧ ∃ k ∈ q.phys, k / 64 = die)
    (s.dev.ready = false ∨ s.dev.siloLoad ≠ none → exec .silogo s = .next s) ∧
    (s.dev.ready = true → s.dev.siloLoad = none → live → Answers .silogo s 0 2 0x08) ∧
    (s.dev.ready = true → s.dev.siloLoad = none → ¬ live → bad → Answers .silogo s 0 2 0x03) ∧
    (s.dev.ready = true → s.dev.siloLoad = none → ¬ live → ¬ bad →
      exec .silogo s = .next { s with dev := { s.dev with siloLoad := some ⟨s.dev.siloSrc, die, pa % 2 ^ 31, len⟩ } })) ∧
  (∀ s : State, (s.dev.siloLoad = none → exec .siloLoadDone s = .next s) ∧
    (∀ l, s.dev.siloLoad = some l →
      let src := if l.src.getLsbD 63 then l.src.toNat % 2 ^ 52 else 2 * 2 ^ 52 + l.src.toNat % 2 ^ 52
      let dst := 2 ^ 52 + (l.die * 2 ^ 31 + l.off)
      ∃ t, exec .siloLoadDone s = .next t ∧ (∀ k, k < l.len → t.mem.byte (dst + k) = s.mem.byte (src + k)) ∧
        MemKept s t ((List.range l.len).map (fun k => dst + k)) ∧ raised s t 0 1 ∧ t.dev = { s.dev with siloLoad := none })) ∧
  (∀ (s : State) fn off size v,
    (s.dev.ready = false ∨ s.dev.vfs < fn ∨ size ≠ 8 ∨ off % 8 ≠ 0 → exec (.hostRegisterWrite fn off size v) s = .next s) ∧
    (s.dev.ready = true → fn ≤ s.dev.vfs → size = 8 → off % 8 = 0 → ∃ t, exec (.hostRegisterWrite fn off size v) s = .next t ∧
      t = { s with fns := t.fns, dev := t.dev, dies := t.dies, irqs := t.irqs } ∧
      let g := Tab.get FnRegs.new s.fns fn
      let g' := Tab.get FnRegs.new t.fns fn
      let masked (h : FnRegs) (x : Nat) : Bool := (h.msix.byte (16 * x + 12)).getLsbD 0
      ((∀ x ∈ g.pend, masked g x = true) → (off < 0x8000 → t.irqs = s.irqs) ∧
        (off = 0x10 → g' = { g with ctxArg := v }) ∧ (off = 0x20 → g' = { g with evBase := v }) ∧
        (off = 0x28 → ((∀ i, i ≤ 10 → v.toNat ≠ 2 ^ (i + 6)) → g' = g) ∧ (∀ i, i ≤ 10 → v.toNat = 2 ^ (i + 6) →
          let n := v.toNat
          let kept := (g.evHead = g.evTail ∧ g.evFull = false) ∨ g.evSize ≤ n ∨ (g.evTail < g.evHead ∧ g.evHead ≤ n ∧ g.evHead - g.evTail < n)
          g' = { g with evSize := n, evHead := g.evHead % n, evTail := g.evTail % n, evFull := g'.evFull } ∧
            (kept → g'.evFull = g.evFull) ∧ (¬ kept → g'.evFull = true))) ∧
        (off = 0xA0 → g' = { g with attDst := v }) ∧
        (∀ i, i < 4 → off = 0x80 + 8 * i → g' = { g with attNonce := g.attNonce.set i v })) ∧
      (0x8000 ≤ off → off < 0x8040 → g'.msix.bytes (off - 0x8000) 8 = leBytes 8 v.toNat ∧
        (∀ k, k < off - 0x8000 ∨ off - 0x8000 + 8 ≤ k → g'.msix.byte k = g.msix.byte k) ∧ g' = { g with msix := g'.msix, pend := g'.pend } ∧
        (∀ x, x ∈ g'.pend ↔ x ∈ g.pend ∧ masked g' x = true) ∧
        t.irqs = s.irqs ++ (g.pend.filter (fun x => !masked g' x)).map (fun x => ⟨fn, x, BitVec.ofNat 64 (leVal (g'.msix.bytes (16 * x) 8)),
          BitVec.ofNat 32 (leVal (g'.msix.bytes (16 * x + 8) 4))⟩)) ∧
      (fn ≠ 0 → t.dev = s.dev ∧ t.dies = s.dies) ∧
      (fn = 0 → (off = 0x40 → t.dev = { s.dev with siloSrc := v }) ∧ (off = 0x48 → t.dev = { s.dev with siloDst := v }) ∧
        (off = 0x50 → t.dev = { s.dev with siloLen := v }) ∧ (off = 0x60 → t.dev = { s.dev with apBase := v }) ∧
        (off = 0x110 → t.dev = { s.dev with cap := if 1000 ≤ v.toNat ∧ v.toNat ≤ 7500 then v.toNat else s.dev.cap }) ∧
        (∀ d, d < 4 → off = 0xD0 + 8 * d → t.die d = { s.die d with stepMin := if v.toNat ≤ 3 then v.toNat else (s.die d).stepMin }) ∧
        (∀ d, d < 4 → off = 0xF0 + 8 * d → t.die d = { s.die d with trip := if 85 ≤ v.toNat ∧ v.toNat ≤ 110 then v.toNat else (s.die d).trip })))) ∧
  (∀ (s : State) off data, s.dev.ready = true → s.dev.recovery = false → off + data.length ≤ 2 ^ 30 →
    let pa := s.dev.apBase.toNat / 2 ^ 30 * 2 ^ 30 + off
    pa + data.length ≤ Config.hbmBytes →
      exec (.bar4Access off false data) s = .next { s with outbox := s.outbox ++ [.readData 0 (s.mem.bytes pa data.length)] } ∧
      ∃ t, exec (.bar4Access off true data) s = .next t ∧ t.mem.bytes pa data.length = data ∧
        MemKept s t ((List.range data.length).map (fun k => pa + k)) ∧ t.scr = s.scr ∧ t.dev = s.dev) ∧
  (∀ (s : State) off data, s.dev.recovery = true → off + data.length ≤ 2 ^ 30 → exec (.bar4Access off false data) s = .next s ∧
    ∃ t k, exec (.bar4Access off true data) s = .next t ∧ (k = 2 ∨ k = 3) ∧ t = { s with dev := { s.dev with flash := t.dev.flash } } ∧
      (∀ j, j ≠ k → Tab.find t.dev.flash j = Tab.find s.dev.flash j) ∧
      ∀ i, (Tab.get [] t.dev.flash k).getD i 0 = if off ≤ i ∧ i < off + data.length then data.getD (i - off) 0 else (Tab.get [] s.dev.flash k).getD i 0) ∧
  (∀ (s : State) fn, exec (.pcieAtomicRequest fn) s = .next { s with outbox := s.outbox ++ [.ur fn] }) ∧
  (∀ (s : State) fn, exec (.configurationRequest fn) s = .next (if s.dev.bringUp < 6 then { s with outbox := s.outbox ++ [.crs fn] } else s))

/-- R396, R398 to R401: the fields of an image and which image is accepted; what reset brings up (missing firmware: log entry 37), keeps and takes from the
configuration block, and the host's memory stays; RBCOMMIT blows fuses up to the running image's RBC and never more; ATTGO writes the report (its order: log
entry 38) to ATTDST and an entry to the event ring, each signature being its own. The cryptography is Config's (log entry 20). -/
def BootAndAttestation : Prop :=
  (∀ (i : Image) kind fuses, i.accepted kind fuses = true ↔ i.magic = 0x465A5645 ∧ i.kind = kind ∧ i.rbc ≤ 128 ∧ i.len = i.body.length ∧
    Config.shake256 32 i.key = Config.rootDigest ∧ Config.shake256 64 i.body = i.digest ∧
    Config.falconVerify i.key i.sig (Config.shake256 64 (i.header.take 0x768)) = true ∧ fuses ≤ i.rbc) ∧
  (∀ h : List Byte, let i := Image.of h
    i.magic = BitVec.ofNat 32 (field h 0 4) ∧ i.kind = field h 4 1 ∧ i.version = BitVec.ofNat 32 (field h 8 4) ∧ i.rbc = field h 0xC 4 ∧
      i.len = field h 0x10 8 ∧ i.digest = (h.drop 0x20).take 64 ∧ i.key = (h.drop 0x60).take 1793 ∧ i.sig = (h.drop 0x768).take 1280 ∧
      i.header = h.take 0x1000 ∧ i.body = (h.drop 0x1000).take (field h 0x10 8)) ∧
  (∀ s : State, ∃ t, exec .deviceReset s = .next t ∧ (∀ k, t.mem.byte k = if 2 * 2 ^ 52 ≤ k ∧ k < 3 * 2 ^ 52 then s.mem.byte k else 0) ∧
    t.scr = [] ∧ t.poison = [] ∧ t.blocks = [] ∧ t.ctxs = [] ∧ t.launches = [] ∧ t.banks = [] ∧
    t.clk = 0 ∧ t.dev.flash = s.dev.flash ∧ t.dev.fuses = s.dev.fuses ∧ t.dev.signed = s.dev.signed ∧
    (s.dev.image 1 = none → t.dev.recovery = true ∧ t.dev.ready = false ∧ t.dev.bringUp = 2) ∧
    (s.dev.image 1 ≠ none → s.dev.image 2 ≠ none → s.dev.image 3 ≠ none → t.dev.ready = true ∧ t.dev.bringUp = 6 ∧ t.dev.recovery = false) ∧
    (s.dev.image 1 ≠ none → s.dev.config = none → t.dev.cfgdef = true ∧ t.dev.links = 0 ∧ t.dev.vfs = 0 ∧ t.dev.cap = 7500 ∧
      ∀ d, d < 4 → (t.die d).trip = 105 ∧ (t.die d).stepMin = 0) ∧
    (∀ k i, s.dev.image 1 ≠ none → s.dev.config = some (k, i) →
      let f (n : Nat) : Nat := Config.cfgField n i.body
      let cap := f 2 % 2 ^ 64
      t.dev.cfgdef = false ∧ t.dev.links = BitVec.ofNat 24 (f 0) ∧ t.dev.vfs = min 16 (f 1) ∧ t.dev.cap = (if 1000 ≤ cap ∧ cap ≤ 7500 then cap else 7500) ∧
        ∀ d, d < 4 → (t.die d).trip = (if 85 ≤ f (4 + d) % 2 ^ 64 ∧ f (4 + d) % 2 ^ 64 ≤ 110 then f (4 + d) % 2 ^ 64 else 105) ∧
          (t.die d).stepMin = (if f (8 + d) % 2 ^ 64 ≤ 3 then f (8 + d) % 2 ^ 64 else 0))) ∧
  (∀ (s : State), (∀ k h, s.dev.bootSlot.head? = some k → Tab.find s.dev.flash k = some h → s.dev.ready = true →
      exec .rbcommit s = .next { s with dev := { s.dev with fuses := if s.dev.fuses < field h 0xC 4 then field h 0xC 4 else s.dev.fuses } }) ∧
    (s.dev.ready = false ∨ s.dev.bootSlot = [] → exec .rbcommit s = .next s)) ∧
  (∀ (s : State) fn, (s.dev.ready = false ∨ s.dev.vfs < fn → exec (.attgo fn) s = .next s) ∧
    (s.dev.ready = true → fn ≤ s.dev.vfs →
      let g := Tab.get FnRegs.new s.fns fn
      let body := s.reportBody fn
      let bs := body ++ Config.falconSign s.dev.signed (Config.shake256 64 body)
      let key := 2 * 2 ^ 52 + g.attDst.toNat % 2 ^ 52
      g.defer = [] → g.evFull = false → g.attNonce.length = 4 → ∃ t m, exec (.attgo fn) s = .next t ∧
        m = { s with dev := { s.dev with signed := s.dev.signed + 1 } }.memWrite (atKeys key bs) ∧
        t = m.ringWrite fn 0 ⟨0, 0, 0, 0, 0, 0, 0, 0, 0⟩ ∧ m.mem.bytes key bs.length = bs ∧ body.take 32 = (g.attNonce.map (fun w => leBytes 8 w.toNat)).flatten))

end Sys2Proof.Spec

namespace Sys2Proof.Spec

/-! ## Operands, encodings, steps -/

/-- R43, Table 2-6: what a selector gives. -/
def OperandSelectors : Prop :=
  ∀ (e : Env) (sel : BitVec 8) (lit : Word), let n := sel.toNat
    (n < 0x80 → e.val sel lit = (e.th.w[n]?).getD 0) ∧
    (0x80 ≤ n → n < 0xC0 → e.val sel lit = (e.uni[n - 0x80]?).getD 0) ∧
    (0xC0 ≤ n → n < 0xC4 → e.val sel lit = (e.th.y[n - 0xC0]?).getD 0) ∧
    (n = 0xC4 → e.val sel lit = 0) ∧
    (e.dec.tile = false → (n = 0xC5 → e.val sel lit = BitVec.ofNat 32 e.tid) ∧ (n = 0xC6 → e.val sel lit = BitVec.ofNat 32 (e.tid / 8)) ∧
      (n = 0xC7 → e.val sel lit = BitVec.ofNat 32 (e.tid % 8)) ∧ (n = 0xC8 → e.val sel lit = BitVec.ofNat 32 (e.tid / 32))) ∧
    (e.dec.tile = true → 0xC5 ≤ n → n ≤ 0xC8 → e.val sel lit = 0) ∧
    (n = 0xCF → e.val sel lit = lit) ∧ (0xD0 ≤ n → n < 0xF0 → e.val sel lit = BitVec.ofNat 32 (n - 0xD0)) ∧
    (∀ k, k < 16 → n = 0xF0 + k → e.val sel lit =
      ([0x3F000000, 0x3F800000, 0x40000000, 0x40800000, 0xBF000000, 0xBF800000, 0xC0000000, 0xC0800000,
        0x3FB8AA3B, 0x3F317218, 0x40490FDB, 0x3E22F983, 0x7F800000, 0xFF800000, 0x7FC00000, 0xFFFFFFFF] : List Word).getD k 0)

/-- R40, R68: two clauses in execution use no lane, and no tile sequencer, between them. -/
def Apart (i j : Issue) : Prop :=
  match i.who, j.who with
  | .lanes b w ms, .lanes b' w' ms' => b = b' → w = w' → ∀ m ∈ ms, ∀ n ∈ ms', m / 8 ≠ n / 8
  | .tile c, .tile c' => c ≠ c'
  | _, _ => True

/-- The word of a clause that is next concerns all lanes of its issue: it is no lane's own (log entry 62). -/
def Joint (i : Issue) : Prop := (∃ b w ms, i.who = .lanes b w ms) ∧ ∃ op, (i.idx, op) ∈ lineOps false i.pc i.line ∧ laneLocal op = false

/-- Two clauses in execution are parts of one issue. -/
def Mates (i j : Issue) : Prop :=
  (∃ b w ms ms', i.who = .lanes b w ms ∧ j.who = .lanes b w ms') ∧ i.id = j.id ∧ i.pc = j.pc ∧ i.line = j.line

/-- What the pass of the k-th clause in execution answers: nothing happens while a clause before it needs a lane of its, and at a word that concerns all lanes of
its issue while one of them has not come so far or is behind another clause; else the instruction that its words decode to, executed by its own threads, or at such a
word by those of all the lanes, in ascending order (R27, R68, log entry 62). -/
def RunsPass (s : State) (k : Nat) (out : Host.Outcome State Fault Refusal) : Prop :=
  ∀ iss, s.issues[k]? = some iss →
    ((∃ j ∈ s.issues.take k, ¬ Apart iss j) → out = .next s) ∧
    (∀ i ws, (∀ j ∈ s.issues.take k, Apart iss j) → decode iss.cls iss.words = .ok (i, ws) →
      (¬ Joint iss → out = exec i { s with issues := iss :: s.issues.eraseIdx k }) ∧
      (∀ b w ms all others, Joint iss → iss.who = .lanes b w ms →
        let late := ∃ j ∈ s.issues, Mates iss j ∧ j.idx < iss.idx
        let behind := ∃ n : Nat, ∃ j, s.issues[n]? = some j ∧ Mates iss j ∧ j.idx = iss.idx ∧ ∃ x ∈ s.issues.take n, ¬ Apart j x
        let here (j : Issue) : Prop := Mates iss j ∧ j.idx = iss.idx
        (late ∨ behind → out = .next s) ∧
        (¬ late → ¬ behind → (∀ m, m ∈ all ↔ m < 32 ∧ ∃ j ∈ s.issues, here j ∧ ∃ ms', j.who = .lanes b w ms' ∧ m ∈ ms') → all.Pairwise (· < ·) →
          others.Sublist s.issues → (∀ j, (here j → others.count j = 0) ∧ (¬ here j → others.count j = s.issues.count j)) →
          out = exec i { s with issues := { iss with who := .lanes b w all } :: others })))

/-- What the decoder reads from a word and the literals after it. -/
def Reads (c : Cls) (ws : List Word) (i : Instr) : Prop := decode c ws = .ok (i, [])

end Sys2Proof.Spec

/-- Tables 3-7, 4-12, 5-13, 6-12, 8-13, 10-14 and 11-5: words of every class decode to the instructions the tables give for them. -/
def Obligations.EncodedWords : Prop :=
  Spec.Reads .gen [0x26010405] (.icmpLtI ⟨false, 1, 0x04, 0x05, 0, 0⟩) ∧ Spec.Reads .gen [0x2E040605] (.sel 2 ⟨false, 4, 0x06, 0x05, 0, 0⟩) ∧
  Spec.Reads .gen [0x2107CF03, 0x804] (.bfxI ⟨false, 7, 0xCF, 0x03, 0, 0x804⟩) ∧ Spec.Reads .gen [0x84000040] (.call ⟨0, 0x40⟩) ∧
  Spec.Reads .xu [0x15040804] (.shfl ⟨false, 4, 0x08, 0x04, 0, 0⟩) ∧ Spec.Reads .gen [0xE909D203] (.cvtE4m3Sr ⟨false, 9, 0xD2, 0x03, 0, 0⟩) ∧
  Spec.Reads .mem [0x0603FF08] (.ldbs ⟨false, 3, 0xFF, 0x08, 0⟩) ∧ Spec.Reads .mem [0x40850102] (.atomAdd ⟨true, 5, 0x01, 0x02, 0⟩) ∧
  Spec.Reads .mem [0x8C0C00D2] (.preci ⟨false, 12, 0, 0xD2, 0, 0⟩) ∧ Spec.Reads .mem [0xA1160084] (.pkg ⟨false, 22, 0, 0x84, 0, 0⟩) ∧
  Spec.Reads .sys [0x1014D002] (.fork ⟨false, 20, 0xD0, 0x02, 0, 0⟩) ∧ Spec.Reads .mat [0x04350608] (.mma ⟨false, 0x35, 0x06, 0x08, 0, 0⟩)

/-- R32, R41, R50: every well-formed instruction's words, followed by anything, decode to it in its class, and what follows is left. -/
def Obligations.DecodeEncode : Prop :=
  ∀ (i : Instr) (c : Cls) (rest : List Word), i.wf = true → i.cls = some c → decode c (encode i ++ rest) = .ok (i, rest)

/-- A step runs the instruction that the words of the clause decode to: the next word of the clause whose pass the agenda names, where no clause before it needs
a lane of its (R68), or the first word of the clause that a vote or the tile sequencer issues, whose line was read from memory; or the event that the agenda
names, or what the search controller does with a GLEAN (R302). Around it time passes and holds end (log entries 40, 62, 64). -/
def Obligations.StepRunsDecoded : Prop :=
  (∀ (s : State) k rest, s.agenda = .pass k :: rest → ∃ out, step s = settleHolds out ∧ Spec.RunsPass { s.tick with agenda := rest } k out) ∧
  (∀ (s : State) t rest, (s.agenda = .putOff t :: rest → step s = settleHolds (.next { s.tick with agenda := rest, putOff := t :: s.putOff })) ∧
    (s.agenda = .takeUp t :: rest → step s = settleHolds (.next { s.tick with agenda := rest, putOff := s.putOff.filter (fun u => u ≠ t) }))) ∧
  (∀ (s : State) x rest t, s.agenda = .event x :: rest → exec x { s.tick with agenda := rest } = .next t →
    (t.issues.length ≤ s.issues.length → step s = settleHolds (.next t)) ∧
    (s.issues.length < t.issues.length → ∃ out, step s = settleHolds out ∧ Spec.RunsPass t s.issues.length out)) ∧
  (∀ (s : State) c rest t, s.agenda = .tile c :: rest → { s.tick with agenda := rest }.tileClause c = t →
    (t.issues.length ≤ s.issues.length → step s = settleHolds (.next t)) ∧
    (s.issues.length < t.issues.length → ∃ out, step s = settleHolds out ∧ Spec.RunsPass t s.issues.length out)) ∧
  (∀ s : State, s.tick.clk = s.clk + BitVec.ofNat 64 (s.pace.headD 1) ∧ s.tick = { s with clk := s.tick.clk, dies := s.tick.dies, pace := s.pace.drop 1 } ∧
    ∀ d, d < 4 → s.tick.die d = { s.die d with silo := (s.die d).silo + s.pace.headD 1 }) ∧
  (∀ (s s1 s2 : State) core ctx blk pc line keys ptes, s.fetchLine core ctx blk pc = (s1, .ok line) →
    s.access core ctx blk ⟨.fetch, false, fmtRaw, true⟩ 64 (BitVec.ofNat 64 (pc.toNat / 64 * 64)) 64 = (s2, .ok (keys, ptes)) →
    s1 = s2 ∧ line.length = 16 ∧ ∀ k, k < 16 → (line.getD k 0).toNat = leVal (((keys.drop (4 * k)).take 4).map s.mem.byte))

/-- R396, R399, R401, Table 18-3: what reset leaves, where the spec gives a value: HBM, Silos and scratchpads, the banks and the reference counter at zero, EVSIZE
64, CTXRES done with cause 0, STEP and STEPMIN 0, TRIP 105, CAP 7,500, no context and no work; the memories stand in their canonical form. That they are zero before
step 4 of bring-up too, and that host memory reads zero, is the model's choice (log entries 4 and 6). -/
def Obligations.ResetValues : Prop :=
  let s := State.reset
  s.Canonical ∧ (∀ k, s.mem.byte k = 0) ∧ (∀ k, s.scr.byte k = 0) ∧ s.clk = 0 ∧ s.ctxs = [] ∧ s.blocks = [] ∧ s.launches = [] ∧
    (∀ u, Tab.get Bank.new s.banks u = ⟨false, false, false, 0, 0, 0, 0⟩) ∧
    (∀ f, (Tab.get FnRegs.new s.fns f).evSize = 64 ∧ (Tab.get FnRegs.new s.fns f).ctxRes = 1 ∧ (Tab.get FnRegs.new s.fns f).ctxCause = 0) ∧
    (∀ d, (s.die d).step = 0 ∧ (s.die d).stepMin = 0 ∧ (s.die d).trip = 105) ∧ s.dev.cap = 7500 ∧ s.dev.ready = false

/-- Every step keeps both memories in their canonical form, whatever it runs, in every state that has it. -/
def Obligations.StepKeepsCanonical : Prop := ∀ s t : State, s.Canonical → step s = .next t → t.Canonical

/-- No instruction stops the machine: where a clause is in execution a word of it, and any event anywhere, answers a next state. Without a clause in
execution no unit executes a word (the model's own fault). -/
def Obligations.NoInstructionStops : Prop :=
  ∀ (i : Instr) (s : State), ((i.parts = none ∨ s.issues ≠ []) → Goes (exec i s)) ∧ (i.parts ≠ none → s.issues = [] → exec i s = .fault .noIssue)

namespace Sys2Proof.Spec

/-! ## Clauses: decoding, waits and the hold bit (R33 to R40, R51) -/

/-- R42 to R45: the operand checks of a word: reserved selectors and selectors that the code has not raise operand (0x03), an invalid latch latch invalid (0x04),
a register outside the declared counts, an odd pair or a misaligned run register index (0x05); D's unused bits must be 0, also under WBS (log entry 7). -/
def OperandChecks : Prop :=
  ∀ k : DecodeCtx,
    (∀ (lit : Bool) (sel : BitVec 8), let n := sel.toNat
      ((0xC9 ≤ n ∧ n ≤ 0xCE) ∨ (n = 0xCF ∧ lit = false) ∨ (k.tile = true ∧ 0x40 ≤ n ∧ n ≤ 0xBF) → checkVal k lit sel = 0x03) ∧
      (0xC0 ≤ n → n ≤ 0xC3 → checkVal k lit sel = if k.yn < n - 0xC0 + 1 then 0x04 else 0) ∧
      (k.tile = false → n < 0x80 → checkVal k lit sel = if n < k.regs then 0 else 0x05) ∧
      (k.tile = false → 0x80 ≤ n → n < 0xC0 → checkVal k lit sel = if n - 0x80 < k.unif then 0 else 0x05) ∧
      (k.tile = true → n < 0x40 → checkVal k lit sel = 0) ∧
      ((0xC4 ≤ n ∧ n ≤ 0xC8) ∨ (n = 0xCF ∧ lit = true) ∨ 0xD0 ≤ n → checkVal k lit sel = 0)) ∧
    (∀ sel : BitVec 8, let n := sel.toNat
      (k.tile = false → (0xC0 ≤ n → checkPair k sel = 0x03) ∧
        (n < 0x80 → checkPair k sel = if n % 2 = 0 ∧ n + 2 ≤ k.regs then 0 else 0x05) ∧
        (0x80 ≤ n → n < 0xC0 → checkPair k sel = if n % 2 = 0 ∧ n - 0x80 + 2 ≤ k.unif then 0 else 0x05)) ∧
      (k.tile = true → checkPair k sel = if 0x40 ≤ n then 0x03 else if n % 2 = 0 then 0 else 0x05)) ∧
    (∀ d : BitVec 7, let n := d.toNat
      (∀ r w len, len ∈ [1, 2, 4] → k.tile = false → checkD k (.w len r w) d = if n % len = 0 ∧ n + len ≤ k.regs then 0 else 0x05) ∧
      (∀ r w, k.tile = true → checkD k (.w 1 r w) d = if n < 64 then 0 else 0x03) ∧
      (checkD k .p d = if n < 8 then 0 else 0x03) ∧ (checkD k .q d = if n < 4 then 0 else 0x03) ∧
      (checkD k .s d = if 64 ≤ n then 0x03 else if n < k.unif then 0 else 0x05)) ∧
    (∀ (o : OpInfo) (f : FmtA), o.barred k = true → checkWord k o (.a f) = some 0x02)

/-- N of a clause header. -/
def hN (h : Word) : Nat := (h.extractLsb' 0 4).toNat

/-- WB of a clause header marks word i. -/
def hWB (h : Word) (i : Nat) : Prop := 1 ≤ i ∧ i ≤ 15 ∧ h.getLsbD (15 + i) = true

/-- R51: the walk over the words of a clause from word i on, where k says what the thread may name there and how many latches are valid: its first
failure, as its cause and index, or none. -/
inductive Walk (cls : Cls) (h : Word) : Nat → DecodeCtx → List Word → Option (Nat × Nat) → Prop
  | done {i k ws} : hN h < i → Walk cls h i k ws none
  | illegal {i k ws x} : i ≤ hN h → readWord cls (ws ++ List.replicate 9 0) = .error x → Walk cls h i k ws (some (0x02, i))
  | operand {i k ws op sh rest c} : i ≤ hN h → readWord cls (ws ++ List.replicate 9 0) = .ok (op, sh, rest) → checkWord k op.info sh = some c →
      Walk cls h i k ws (some (c, i))
  | header {i k ws op sh rest} : i ≤ hN h → readWord cls (ws ++ List.replicate 9 0) = .ok (op, sh, rest) → checkWord k op.info sh = none →
      (hN h < i + extraWords op.info sh ∨ (∃ j, i < j ∧ j ≤ i + extraWords op.info sh ∧ hWB h j) ∨
        (needsSlot op.info sh = true ∧ h.extractLsb' 12 3 = 7)) → Walk cls h i k ws (some (0x01, i))
  | misplaced {i k ws op sh rest} : i ≤ hN h → readWord cls (ws ++ List.replicate 9 0) = .ok (op, sh, rest) → checkWord k op.info sh = none →
      i + extraWords op.info sh < hN h → (∀ j, i < j → j ≤ i + extraWords op.info sh → ¬ hWB h j) →
      ¬ (needsSlot op.info sh = true ∧ h.extractLsb' 12 3 = 7) → op.info.is .ctl = true → Walk cls h i k ws (some (0x0D, i))
  | next {i k ws op sh rest r} : readWord cls (ws ++ List.replicate 9 0) = .ok (op, sh, rest) → checkWord k op.info sh = none →
      i + extraWords op.info sh ≤ hN h → (∀ j, i < j → j ≤ i + extraWords op.info sh → ¬ hWB h j) →
      ¬ (needsSlot op.info sh = true ∧ h.extractLsb' 12 3 = 7) → (op.info.is .ctl = true → i + extraWords op.info sh = hN h) →
      Walk cls h (i + 1 + extraWords op.info sh) { k with yn := if op.info.is .push then min (k.yn + 1) 4 else k.yn }
        (ws.drop (1 + extraWords op.info sh)) r → Walk cls h i k ws r

/-- R33 to R37, R40, R51: a clause decoded for a thread: an illegal header is 0x01 at index 0; else the first failure of the walk over its words; else H = 1
before an instruction that forbids it is 0x01 at index 0. A passing clause gives none. -/
def ClauseDecode : Prop :=
  ∀ (k : DecodeCtx) (pc : DWord) (line : List Word), line.length = 16 → pc.toNat % 4 = 0 →
    let p := pc.toNat % 64 / 4
    let h := line.getD p 0
    let n := hN h
    let ss := (h.extractLsb' 12 3).toNat
    let ec := (h.extractLsb' 4 2).toNat
    let cls : Cls := if ec = 0 then .gen else if ec = 1 then .mem else if ec = 3 then .sys else if k.tile then .mat else .xu
    let words := line.drop (p + 1)
    let badHeader := n = 0 ∨ h.getLsbD 15 = true ∨ ss = 6 ∨ (ss ≤ 5 ∧ h.getLsbD (6 + ss) = true) ∨ (∃ i, n < i ∧ hWB h i) ∨ 64 < pc.toNat % 64 + 4 * n + 4
    (badHeader → clauseFault k pc line = some (0x01, 0)) ∧
    (∀ c i, ¬ badHeader → Walk cls h 1 k words (some (c, i)) → clauseFault k pc line = some (c, i)) ∧
    (¬ badHeader → Walk cls h 1 k words none → ∃ op, (lineOps k.tile pc line).getLast?.map (fun x => x.2) = some op ∧
      clauseFault k pc line = if h.getLsbD 31 = true ∧ forbidsHold op = true then some (0x01, 0) else none) ∧
    (∀ r r', Walk cls h 1 k words r → Walk cls h 1 k words r' → r = r') ∧ (¬ badHeader → ∃ r, Walk cls h 1 k words r)

/-- R33, R51, R340: in a warp whose one live thread votes, a clause that fails its decode stops the thread at the index of the failure, a line that cannot
be fetched at index 0: no word of the clause executes, no register changes, and nothing issues. Shown for kernel blocks and tasks without a twin. -/
def DecodeFaults : Prop :=
  ∀ (s : State) blk wp m b w th, s.block? blk = some b → b.saved = none → b.twin = none → b.stopAt = [] → b.kind ≠ .handler → b.kind ≠ .pair →
    b.warps[wp]? = some w → w.threads[m]? = some th → th.votes = true → th.cont = 0 → (∀ k th', w.threads[k]? = some th' → k ≠ m → th'.live = false) →
    m / 8 ∉ s.busyLanes blk wp →
    let stopsAt (t : State) (c i : Nat) (dec : Bool) : Prop := ∃ th' st, t.thread? ⟨blk, wp, m⟩ = some th' ∧ th'.stop = some st ∧ st.cause = c ∧ st.idx = i ∧
      st.dec = dec ∧ th'.pc = th.pc ∧ th'.cont = 0 ∧ th'.w = th.w ∧ th'.p = th.p ∧ th'.y = th.y ∧ th'.yn = th.yn ∧ th'.owed = th.owed ∧ th'.stq = th.stq
    (∀ s1 line e c i, s.fetchLine b.core b.ctx blk th.pc = (s1, .ok line) → hdrWM (line.getD (linePos th.pc) 0) = 0 →
      s1.env? (.thr ⟨blk, wp, m⟩) (hdrSS (line.getD (linePos th.pc) 0)) th.pc 0 = some e → clauseFault e.dec th.pc line = some (c, i) →
      ∃ t, exec (.issueVote blk wp) s = .next t ∧ t.issues = s1.issues ∧ stopsAt t c i true ∧ t.mem = s.mem ∧ t.scr = s.scr) ∧
    (∀ s1 x, s.fetchLine b.core b.ctx blk th.pc = (s1, .error x) → x.cause ≠ 0x10 →
      ∃ t, exec (.issueVote blk wp) s = .next t ∧ t.issues = s1.issues ∧ stopsAt t x.cause 0 false ∧ t.mem = s.mem ∧ t.scr = s.scr)

/-- R36 to R38: the pass of a word waits while a slot that WM names is not drained, at the first word that WB marks and after, or at every word where none
is marked; while a register that it reads or writes is owed; and where it would give its slot a 64th operation. While one participant waits nothing
changes. A slot is drained when nothing is owed to it. -/
def SlotWaits : Prop :=
  ∀ (i : Instr) s op sh iss rest l e, i.parts = some (op, sh) → s.issues = iss :: rest → l ∈ iss.lanes → Sees s iss l e →
    let h := iss.hdr
    let marked := (∃ j, j ≤ iss.idx ∧ hWB h j) ∨ ∀ j, ¬ hWB h j
    (marked → (∃ o ∈ e.th.owed, o.slot < 6 ∧ h.getLsbD (6 + o.slot) = true) → exec i s = .next s) ∧
    (op.info.is .long = true → e.slot < 6 → 63 ≤ e.th.owed.countP (fun o => o.slot == e.slot) → exec i s = .next s) ∧
    (∀ f v n o x, intResult i = some (f, v) →
      ((n = f.a.toNat ∧ n < 128) ∨ (n = f.b.toNat ∧ n < 128 ∧ ∀ g, i ≠ .mov g) ∨ (f.wbs = false ∧ n = f.d.toNat)) → o ∈ e.th.owed → .w n x ∈ o.wr → exec i s = .next s) ∧
    (∀ f v n o x, predResult i = some (f, v) → f.wbs = false → n = f.d.toNat % 8 → o ∈ e.th.owed → .p n x ∈ o.wr → exec i s = .next s) ∧
    (∀ f n o x, (i = .pand f ∨ i = .por f ∨ i = .pxor f) → (n = f.a.toNat % 8 ∨ n = f.b.toNat % 8) → o ∈ e.th.owed → .p n x ∈ o.wr → exec i s = .next s) ∧
    (∀ f v o x, qResult i = some (f, v) → f.wbs = false → o ∈ e.th.owed → .q (f.d.toNat % 4) x ∈ o.wr → exec i s = .next s) ∧
    (∀ f v o x, qRead i = some (f, v) → o ∈ e.th.owed → .q (f.a.toNat % 4) x ∈ o.wr → exec i s = .next s) ∧
    (∀ f v n o x, atomOf i = some (f, v) → (n = f.d.toNat ∨ (n = f.base.toNat ∧ n < 128)) → o ∈ e.th.owed → .w n x ∈ o.wr → exec i s = .next s)

/-- R33, R39, R40: a word that closes a clause with H = 1, shown for NOP: each participant stands at the clause that follows with its latches and their count,
and that clause is issued in the same step, behind the clauses of the lanes involved and before any other. Where the participants stand at two addresses, the
lower one's clause is issued first and the higher one's after it. A collective clause is left to the vote (log entry 57). -/
def HoldBit : Prop :=
  (∀ (f : FmtA) s op sh iss rest es blk wp ms b line, Ready s (.nop f) op sh iss rest → (iss.after op sh).last = true → iss.hdr.getLsbD 31 = true →
    Seen s iss es → iss.who = .lanes blk wp ms → s.block? blk = some b →
    let pc := nextClause iss.pc iss.line
    s.fetchLine b.core b.ctx blk pc = (s, .ok line) → (∀ p ∈ lineOps false pc line, p.2.info.is .coll = false) →
    (∀ e ∈ es, clauseFault e.dec pc line = none ∧ e.th.stop = none) →
    ∃ t more, exec (.nop f) s = .next t ∧ t.issues = rest ++ more ∧ t.mem = s.mem ∧ t.scr = s.scr ∧
      (∀ j ∈ more, j.pc = pc ∧ j.line = line ∧ j.idx = 1) ∧ (∀ m ∈ ms, ∃ j ∈ more, ∃ ms', j.who = .lanes blk wp ms' ∧ m ∈ ms') ∧
      ∀ l ∈ iss.lanes, ∀ e, Sees s iss l e → ∃ th, t.lane? l = some th ∧ th.pc = pc ∧ th.cont = 0 ∧ th.y = e.th.y ∧ th.yn = e.th.yn ∧ th.w = e.th.w ∧
        th.p = e.th.p ∧ th.owed = e.th.owed) ∧
  (∀ (s s1 s2 : State) blk wp all lo hi (p q : DWord) i j b, s.block? blk = some b → p.toNat < q.toNat → lo ≠ [] → hi ≠ [] →
    (∀ m ∈ lo, ∃ th, s.thread? ⟨blk, wp, m⟩ = some th ∧ th.live = true ∧ th.stop = none ∧ th.pc = p) →
    (∀ m ∈ hi, ∃ th, s.thread? ⟨blk, wp, m⟩ = some th ∧ th.live = true ∧ th.stop = none ∧ th.pc = q) →
    let named (u : State) : State := { u with tags := u.tags + 1 }
    (named s).startWarp blk wp lo p (s.tags + 1) = (s1, some i) → (named s1).startWarp blk wp hi q (s1.tags + 1) = (s2, some j) → s.collAt b.core b.ctx blk p = false →
    s.collAt b.core b.ctx blk q = false → (s.chain (.lanes blk wp all) (lo ++ hi)).issues = s2.issues ++ i.byLane ++ j.byLane)

/-! ## Merged requests (R184) -/

/-- R184: a participant of an issue joins the request that the issue has made for its operation at its address; the first one makes it, behind what waits there. The
participants of one issue that reach one address send one request, their operands in ascending tid. -/
def RequestsMerge : Prop :=
  (∀ (t0 : Nat) (r : AtomReq) (p : ReqPart) (qs : List AtomReq),
    let joins (q : AtomReq) : Prop := q.key = r.key ∧ q.kind = r.kind ∧ ∀ x ∈ q.parts, t0 < x.tag
    ((∀ q ∈ qs, ¬ joins q) → mergeReq t0 r p qs = qs ++ [{ r with parts := [p] }]) ∧
    (∀ a q b, qs = a ++ q :: b → (∀ x ∈ a, ¬ joins x) → joins q → mergeReq t0 r p qs = a ++ { q with parts := q.parts ++ [p] } :: b)) ∧
  (∀ i f a n w, atomOf i = some (f, a, n, w) → ∀ s op sh iss rest es keys pte ptes, Ready s i op sh iss rest → Quiet iss op sh → Seen s iss es → TagsOld s →
    es ≠ [] → s.memBad keys = false → NoRequests s keys →
    (∀ e ∈ es, e.prot = 0 ∧ (∃ r, e.lane = .thr r ∧ NoBlockStores s r.blk keys) ∧ NoOwnStores e.th keys ∧
      s.access e.core e.ctx e.blk ⟨.write, true, fmtRaw, true⟩ (atomSize w) (addrOf e f (atomSize w)) (atomSize w) = (s, .ok (keys, pte :: ptes))) →
    let own := keys.headD 0 / 128 % 256
    ∃ t q, exec i s = .next t ∧ t.mem = s.mem ∧ (t.cluster own).atomQ = (s.cluster own).atomQ ++ [q] ∧ q.kind = .atom a ∧ q.key = keys.headD 0 ∧
      q.ret = !f.wbs ∧ q.parts.map (fun p => (Lane.thr p.t, p.opnd)) = es.map (fun e => (e.lane, (List.range n).map (fun k => e.th.rw (f.d.toNat + k)))) ∧
      (q.parts.map (fun p => p.tag)).Nodup ∧ ∀ c, c ≠ own → (t.cluster c).atomQ = (s.cluster c).atomQ)

/-! ## Recording and re-runs (R377 to R379) -/

/-- SHAKE256 of a content, 32 bytes (the standard is Config's: log entry 20). -/
def digestOf (bs : List Byte) : List Byte := (Config.shake256 32 bs ++ List.replicate 32 0).take 32

/-- R378, Table 16-13: the bytes of an entry of type 1 to 3, with its content padded to a multiple of 64 bytes, and of an entry of type 4 or 5; they go to the log
where it stands; and an entry read back is the one that was written. -/
def LogEntries : Prop :=
  (∀ type lid order (addr : DWord) (content : List Byte), type < 256 → content.length < 2 ^ 32 → order < 2 ^ 64 →
    let bs := recContent type lid order addr content
    bs.length = 64 + (content.length + 63) / 64 * 64 ∧ field bs 0 1 = type ∧ field bs 1 3 = 0 ∧ field bs 4 4 = content.length ∧ field bs 8 8 = lid % 2 ^ 48 ∧
      field bs 0x10 8 = order ∧ field bs 0x18 8 = addr.toNat ∧ (bs.drop 0x20).take 32 = digestOf content ∧ (bs.drop 64).take content.length = content ∧
      ∀ k, 64 + content.length ≤ k → bs.getD k 0 = 0) ∧
  (∀ type lid idx tid (addr v : DWord), type < 256 → tid < 256 →
    let bs := recValue type lid idx tid addr v
    bs.length = 64 ∧ field bs 0 1 = type ∧ field bs 1 7 = 0 ∧ field bs 8 8 = lid % 2 ^ 48 ∧ field bs 0x10 4 = idx % 2 ^ 32 ∧ field bs 0x14 1 = tid ∧
      field bs 0x15 3 = 0 ∧ field bs 0x18 8 = addr.toNat ∧ field bs 0x20 8 = v.toNat ∧ field bs 0x28 24 = 0) ∧
  (∀ (s : State) ctx c bs k, Tab.find s.ctxs ctx = some c → bs ≠ [] →
    let va := c.recbase + BitVec.ofNat 64 c.recpos
    va.toNat % 65536 + bs.length ≤ 65536 → s.rawKey c va = some k →
    let t := s.recPut ctx bs
    t.mem.bytes k bs.length = bs ∧ MemKept s t ((List.range bs.length).map (fun j => k + j)) ∧
      Tab.find t.ctxs ctx = some { c with recpos := c.recpos + bs.length } ∧ t = { s with mem := t.mem, poison := t.poison, ctxs := t.ctxs }) ∧
  (∀ (s : State) (c : Ctx) fuel off,
    let va (o : Nat) := c.recbase + BitVec.ofNat 64 o
    (∀ type lid idx tid addr v, type = 4 ∨ type = 5 → tid < 256 → off + 64 ≤ 65536 * c.recsize.toNat →
      s.rawBytes c (va off) 64 = recValue type lid idx tid addr v → ∃ e, s.recEntries c (fuel + 1) off = e :: s.recEntries c fuel (off + 64) ∧
        e.type = type ∧ e.launch = lid % 2 ^ 48 ∧ e.order = idx % 2 ^ 32 + tid * 2 ^ 32 ∧ e.addr = addr ∧ leVal (e.tail.take 8) = v.toNat) ∧
    (∀ type lid order addr content, 1 ≤ type → type ≤ 3 → order < 2 ^ 64 → content.length < 2 ^ 32 → off + 64 ≤ 65536 * c.recsize.toNat →
      s.rawBytes c (va off) 64 = (recContent type lid order addr content).take 64 → s.rawBytes c (va (off + 64)) content.length = content →
      ∃ e, s.recEntries c (fuel + 1) off = e :: s.recEntries c fuel (off + 64 + (content.length + 63) / 64 * 64) ∧
        e.type = type ∧ e.launch = lid % 2 ^ 48 ∧ e.order = order ∧ e.addr = addr ∧ e.tail = digestOf content ∧ e.content = content) ∧
    (65536 * c.recsize.toNat < off + 64 ∨ (s.rawBytes c (va off) 64).headD 0 = 0 → s.recEntries c (fuel + 1) off = []))

/-- The k-th value, from 0, of a type that a log holds for a thread of a logged launch. -/
def loggedValue (log : List RecEntry) (type launch idx tid k : Nat) : Option Nat :=
  ((log.filter (fun e => e.type == type && e.launch == launch && e.order == idx % 2 ^ 32 + tid * 2 ^ 32))[k]?).map (fun e => leVal (e.tail.take 8))

/-- R377, R379: a CLK reading of a recording launch is logged with its value, its block and its thread, and owed; on a re-run the thread's k-th reading is the k-th that
the log holds for it in the launch that this one re-runs (log entry 77). While the log has no room for what is on its way, a CLK or an ATOM that returns a value
waits (log entry 27). -/
def LoggedClocks : Prop :=
  (∀ (f : FmtA) s op sh iss rest r e b c l, Alone s (.clk f) op sh iss rest (.thr r) e → s.recorder r.blk = some (b, c, l) →
    let tid := 32 * r.wp + r.m
    (c.recctl.getLsbD 0 = false → b.primary = true → Ends (.clk f) s op sh iss (.thr r) e (s.recPut b.ctx (recValue 5 b.lid b.idx tid 0 s.clk))
      (fun base th => owesFrom { base with clks := e.th.clks + 1 } e (toD f [s.clk.extractLsb' 0 32, s.clk.extractLsb' 32 32]) th)) ∧
    (∀ old v, c.recctl.getLsbD 0 = true → c.logged b.lid = some old → loggedValue (s.recLog c) 5 old b.idx tid e.th.clks = some v →
      Ends (.clk f) s op sh iss (.thr r) e s
        (fun base th => owesFrom { base with clks := e.th.clks + 1 } e (toD f [BitVec.ofNat 32 v, BitVec.ofNat 32 (v / 2 ^ 32)]) th))) ∧
  (∀ i s op sh iss rest blk wp ms b c l, i.parts = some (op, sh) → s.issues = iss :: rest → iss.who = .lanes blk wp ms → s.recorder blk = some (b, c, l) →
    c.recctl.getLsbD 0 = false → ((∃ f, i = .clk f) ∨ ∃ f x, atomOf i = some (f, x) ∧ f.wbs = false) →
    65536 * c.recsize.toNat < c.recpos + 64 * (s.recDue b.ctx + ms.length) → exec i s = .next s)

/-- R377, R379: an owner that performs a value-returning ATOM of a recording launch's thread logs the value it returns, with the address; on a re-run the thread's k-th such
ATOM returns the k-th value that the log holds for it, and still changes its location. -/
def LoggedAtomics : Prop :=
  ∀ (s : State) cl q qs a p b c l th o, (s.cluster cl).atomQ = q :: qs → q.kind = .atom a → q.parts = [p] → p.nth ≠ 0 → s.recorder p.t.blk = some (b, c, l) →
    NothingHeld s p.t.blk → s.thread? p.t = some th → o ∈ th.owed → o.tag = p.tag → o.wr.length = q.kind.size / 4 → (∀ x ∈ o.wr, ∃ j v, x = .w j v) →
    let tid := 32 * p.t.wp + p.t.m
    let old := leVal (s.mem.bytes q.key q.kind.size)
    let within (k : Nat) : Prop := q.key ≤ k ∧ k < q.key + q.kind.size
    let gets (u : State) (v : Nat) : Prop := ∃ th' o', u.thread? p.t = some th' ∧ o' ∈ th'.owed ∧ o'.tag = p.tag ∧ o'.ready = true ∧
      o'.wr = o.wr.zipIdx.map (fun x => match x.1 with | .w j _ => .w j (BitVec.ofNat 32 (v / 2 ^ (32 * x.2))) | y => y)
    (c.recctl.getLsbD 0 = false → b.primary = true →
      let s1 := s.recPut b.ctx (recValue 4 b.lid b.idx tid p.va (BitVec.ofNat 64 old))
      ∃ u, exec (.atomicService cl) s = .next u ∧ gets u old ∧ (∀ k, within k → u.mem.byte k = (serve s.mem q).1.byte k) ∧
        (∀ k, ¬ within k → u.mem.byte k = s1.mem.byte k) ∧ Tab.find u.ctxs b.ctx = some { c with recpos := c.recpos + 64 }) ∧
    (∀ x v, c.recctl.getLsbD 0 = true → c.logged b.lid = some x → loggedValue (s.recLog c) 4 x b.idx tid (p.nth - 1) = some v →
      ∃ u, exec (.atomicService cl) s = .next u ∧ gets u v ∧ (∀ k, u.mem.byte k = (serve s.mem q).1.byte k) ∧ Tab.find u.ctxs b.ctx = some c)

/-- The input list at RECIN: base and length of each region (R377). -/
def Inputs (s : State) (c : Ctx) (rs : List (DWord × Nat)) : Prop :=
  (c.recin = 0 → rs = []) ∧ (c.recin ≠ 0 → rs.length = leVal (s.rawBytes c c.recin 4) ∧ rs.length ≤ 16) ∧
  ∀ k r, rs[k]? = some r → let bs := s.rawBytes c (c.recin + BitVec.ofNat 64 (16 + 16 * k)) 16
    r = (BitVec.ofNat 64 (leVal (bs.take 8)), leVal (bs.drop 8))

/-- R377, R379: a launch with RECORD that passes its checks. With MODE 0 it logs its descriptor and every region of the input list, under its own id, before it starts, and
waits while the log has no room for them. With MODE 1 the digests of the launch that it re-runs, the next of the log (log entry 77), are compared with the
descriptor and the regions as they are now: a difference refuses it with operand (0x03), and nothing is logged. More than 16 regions refuse it too, with the same cause (log entry 91). -/
def RecordedLaunches : Prop :=
  ∀ (f : FmtA) s op sh iss rest r e s1 s2 bs p c, Alone s (.launch f) op sh iss rest (.thr r) e → e.prot = 0 →
    rawReader e (s.settle r) 64 (e.pair f.a) 64 = (s1, .ok bs) →
    let rec0 := TaskRec.of bs
    let k := s1.maker e
    rec0.flags.toNat % 4 = 1 → s1.recOk k rec0 = true → s1.plan (rawReader e) k rec0 = (s2, .ok p) → s2.blkCut e.blk = false →
    s2.cutOff (rec0.under k) = false → p.desc.lflags.getLsbD 3 = true → Tab.find s2.ctxs k.ctx = some c →
    let lid := s2.lidNext
    let starts (s3 : State) : Prop := Ends (.launch f) s op sh iss (.thr r) e s3
        (fun base th => owesFrom base e (toD f [BitVec.ofNat 32 lid, BitVec.ofNat 32 (lid / 2 ^ 32)]) th) ∧
      ∃ l, Tab.find s3.launches lid = some l ∧ l.count = p.hi - p.lo ∧ l.desc = p.desc
    (16 < leVal (s2.rawBytes c c.recin 4) → c.recin ≠ 0 → FaultsAt (.launch f) s iss rest e s2 (.of 0x03)) ∧
    (∀ rs, Inputs s2 c rs → c.recctl.getLsbD 0 = false →
      let log := recContent 1 lid 0 rec0.arg p.bytes ++ rs.flatMap (fun x => recContent 2 lid 0 x.1 (s2.rawBytes c x.1 x.2))
      (65536 * c.recsize.toNat < c.recpos + log.length → exec (.launch f) s = .next s) ∧
      (c.recpos + log.length ≤ 65536 * c.recsize.toNat → ∃ s3, starts s3 ∧ (∀ j, s3.mem.byte j = (s2.recPut k.ctx log).mem.byte j) ∧
        ∃ c', Tab.find s3.ctxs k.ctx = some c' ∧ c'.recpos = c.recpos + log.length)) ∧
    (∀ rs, Inputs s2 c rs → c.recctl.getLsbD 0 = true →
      let launches := ((s2.recLog c).filter (fun x => x.type == 1)).map (fun x => x.launch)
      let next := launches[c.recmap.length]?
      let same := ∀ x ∈ s2.recLog c, some x.launch = next → (x.type = 1 → x.tail = digestOf p.bytes) ∧
        (x.type = 2 → x.tail = digestOf (s2.rawBytes c x.addr x.content.length))
      (¬ same → FaultsAt (.launch f) s iss rest e s2 (.of 0x03)) ∧
      (∀ old, same → next = some old → ∃ s3 c', starts s3 ∧ s3.mem = s2.mem ∧ Tab.find s3.ctxs k.ctx = some c' ∧ c'.logged lid = (c.logged lid).or (some old) ∧
        c'.recpos = c.recpos))

/-- R377, R379: an arrival while launches of the context record, shown for a window write: each of them logs it under its own id with the arrival's position at the device,
before it takes effect, and it waits while the log has no room. On a re-run the log's next arrival, in logged order, is delivered in its place and as what it
was: a window write, or an M1 write (log entry 27), whatever comes; none where the log has no more. -/
def LoggedArrivals : Prop :=
  ∀ (s : State) slot off data c, Tab.find s.ctxs slot = some c → off < 2 ^ 64 →
    let live := (s.launches.filter (fun p => p.2.ctx == slot && p.2.desc.lflags.getLsbD 3 && !p.2.complete)).map (fun p => p.1)
    let s1 := { s with dev := { s.dev with arrivals := s.dev.arrivals + 1 } }
    live ≠ [] →
    (c.recctl.getLsbD 0 = false →
      let log := live.flatMap (fun l => recContent 3 l (s.dev.arrivals + 1) (BitVec.ofNat 64 off) data)
      (65536 * c.recsize.toNat < c.recpos + log.length → exec (.entryWindowWrite slot off data) s = .next s) ∧
      (c.recpos + log.length ≤ 65536 * c.recsize.toNat → ∀ t, (s1.recPut slot log).windowWrite slot off data = some t →
        exec (.entryWindowWrite slot off data) s = .next t)) ∧
    (c.recctl.getLsbD 0 = true →
      let s2 := { s1 with ctxs := Tab.upd s1.ctxs slot (fun c => { c with recpos := c.recpos + 1 }) }
      ((recArrivals (s.recLog c))[c.recpos]? = none → exec (.entryWindowWrite slot off data) s = .next s2) ∧
      (∀ x t, (recArrivals (s.recLog c))[c.recpos]? = some x → x.addr.toNat < 4096 → s2.windowWrite slot x.addr.toNat x.content = some t →
        exec (.entryWindowWrite slot off data) s = .next t ∧
        ∀ va bytes (src : Nat × Nat), exec (.m1Arrival slot va bytes ⟨src, ⟨false, 0, 0⟩⟩) s = .next (t.send c.fn (.m1ack src.1 src.2 0 va))) ∧
      (∀ x, (recArrivals (s.recLog c))[c.recpos]? = some x → x.addr.toNat < 4096 → s2.windowWrite slot x.addr.toNat x.content = none →
        exec (.entryWindowWrite slot off data) s = .next s) ∧
      (∀ x w, (recArrivals (s.recLog c))[c.recpos]? = some x → 4096 ≤ x.addr.toNat →
        (∀ k ∈ s.clusters, ∀ m ∈ k.2.msgs, ¬ (m.kind = 2 ∧ m.ctx = slot ∧ m.va = x.addr ∧ 16 * m.bins.length = x.content.length)) →
        x.addr.toNat % 65536 + x.content.length ≤ 65536 → x.content ≠ [] → s.walkBad slot x.addr = false → walk s.mem c.root x.addr = some w →
        let pa := pteBase w.pte + (x.addr.toNat - w.base)
        inRange s.mem c (pteLoc w.pte) pa = true → pteLoc w.pte ≠ 1 → pteLoc w.pte ≠ 3 → pteW w.pte = true → fmtCopy w.pte = true →
        ∃ t, exec (.entryWindowWrite slot off data) s = .next t ∧ t.mem.bytes (pteLoc w.pte * 2 ^ 52 + pa) x.content.length = x.content ∧
          MemKept s t ((List.range x.content.length).map (fun k => pteLoc w.pte * 2 ^ 52 + pa + k)) ∧ t.ctxs = s2.ctxs ∧ t.scr = s.scr)) ∧
    ∀ log : List RecEntry, (recArrivals log).Sublist log ∧ (∀ x ∈ recArrivals log, x ∈ log ∧ x.type = 3) ∧ (∀ x ∈ log, x.type = 3 → ∃ y ∈ recArrivals log, y.order = x.order) ∧
      ((recArrivals log).map (fun x => x.order)).Nodup

end Sys2Proof.Spec

/-! ## Statements of several parts -/

/-- Arithmetic, minimum and maximum, logic and MOV; shifts, rotates and bit fields bit by bit; bit counts (R76 to R79, R83). -/
def Obligations.IntegerAndFieldResults : Prop := Spec.IntegerResults ∧ Spec.ShiftAndFieldResults

/-- The compares, the predicate operations and the selects (R80 to R82). -/
def Obligations.PredicateAndSelectResults : Prop := Spec.PredicateResults ∧ Spec.SelectResults

/-- What a pattern of each format stands for, and the rounding of a magnitude in each mode (R102 to R104, R109, R110). -/
def Obligations.FormatsAndRounding : Prop := Spec.NumberFormats ∧ Spec.RoundingIsDirected ∧ Spec.RoundedPatterns

/-- What the XU functions owe: their special inputs, and the nearest value of those that are quotients and roots (R124, R125, R129; the model's choices
in log entry 10). -/
def Obligations.XuResults : Prop := Spec.XuOwed ∧ Spec.XuSpecials ∧ Spec.XuRounded

/-- The arithmetic, minimum, maximum and compare instructions on f32 and bf16x2 (R117 to R120, R122). -/
def Obligations.FloatResults : Prop := Spec.FloatArithmetic ∧ Spec.FloatOrder

/-- The q instructions, the collective ones among them (R126, R127). -/
def Obligations.QResults : Prop := Spec.QRegister ∧ Spec.QCollective

/-- What a selector gives, the index registers, and the 64-bit address sums (R43, R84, R85). -/
def Obligations.OperandsAndAddresses : Prop := Spec.OperandSelectors ∧ Spec.IndexRegisters ∧ Spec.AddressSums

/-- The votes, and the uniform instructions (R27, R86, R87, R92). -/
def Obligations.VoteAndUniformResults : Prop := Spec.Votes ∧ Spec.Uniforms

/-- What NOP, EXIT and YIELD do, and what H = 1 does at the end of a clause (R33, R39, R40, R74, R93 to R95, R234, R295, R323; the model's choices in log
entries 57 and 68). -/
def Obligations.NopExitAndYield : Prop := Spec.NopDoesNothing ∧ Spec.Exits ∧ Spec.Yields ∧ Spec.HoldBit

/-- The branches, SWITCH, and the check of their targets (R33, R88, R91; the model's choices in log entry 8). -/
def Obligations.BranchesAndTargets : Prop := Spec.Branches ∧ Spec.Switches ∧ Spec.TargetCheck

/-- CALL and RET, and the loft that the first CALL reserves (R74, R89, R90, R158). -/
def Obligations.CallsAndReturns : Prop := Spec.Calls ∧ Spec.Returns ∧ Spec.LoftReserved

/-- GLEAN: which choice point it takes, what the theft does, and the fall-through (R300 to R303, R366; the model's choices in log entry 64). -/
def Obligations.GleanResults : Prop := Spec.GleanChoice ∧ Spec.GleanDone ∧ Spec.GleanFallsThrough

/-- Reading, entering and leaving search mode, and cutting (R294, R295, R298, R299; the model's choices in log entry 68). -/
def Obligations.SearchStateResults : Prop := Spec.SearchReads ∧ Spec.SearchModes ∧ Spec.Cuts

/-- The walk of the page tables, and the checks of an access in their order (R135, R137, R139, R179, R369; the model's choices in log entry 17). -/
def Obligations.TranslationAndChecks : Prop := Spec.TranslationWalk ∧ Spec.AccessChecks

/-- What a load gives, a thread's own stores included (R143, R144, R170, R171, R199; the model's choices in log entry 11). -/
def Obligations.LoadsAndOwnView : Prop := Spec.Loads ∧ Spec.OwnView

/-- Where an element lies, what it stands for, how it is checked, loaded and encoded, and the stores of elements (R103, R107, R108, R111, R112, R139,
R145 to R148, R327; the model's choices in log entries 11, 15 and 58). -/
def Obligations.ElementAccesses : Prop :=
  Spec.ElementPlace ∧ Spec.ElementValue ∧ Spec.ElementChecks ∧ Spec.ElementLoads ∧
  Spec.ElementRead ∧ Spec.BlockEncoding ∧ Spec.StoredBytes ∧ Spec.StoredValues ∧ Spec.ElementStores ∧ Spec.PartialBlocks

/-- The scratchpad of the block, of a member of its sharing group and of a cluster (R149, R151 to R153; the model's choices in log entry 16). -/
def Obligations.ScratchpadAccesses : Prop := Spec.Scratchpads ∧ Spec.SharingGroups ∧ Spec.ClusterOffsets

/-- The Silo instructions, and prefetching (R155 to R157, R161). -/
def Obligations.SiloAndPrefetch : Prop := Spec.Silos ∧ Spec.PrefetchIsSilent

/-- Staging, submitting and polling an engine command, and what EGO refuses (R162, R164, R167). -/
def Obligations.EnginePorts : Prop := Spec.Ports ∧ Spec.EngineProtocol

/-- The loft area, and the allocations of a warp's heap slice (R159, R168). -/
def Obligations.LoftAndAllocation : Prop := Spec.LoftArea ∧ Spec.Allocations

/-- Acquiring, binding and unbinding a synchronisation object (R173 to R178, R201; the model's choices in log entry 3). -/
def Obligations.SyncObjects : Prop := Spec.Acquires ∧ Spec.SyncObjectsAre ∧ Spec.Binds

/-- What a release orders, and the fences (R172, R175, R177, R181; the model's choices in log entry 11). -/
def Obligations.ReleasesAndFences : Prop := Spec.ReleaseEffect ∧ Spec.Fences

/-- What atomic and bin instructions ask of the owner of an address, how the requests of an issue merge, and what a block holds before them (R171, R182
to R184, R186, R187, R199, R200, R360; the model's choices in log entry 58). -/
def Obligations.AtomicIssues : Prop := Spec.AtomicRequests ∧ Spec.BinRequests ∧ Spec.RequestsMerge ∧ Spec.HeldOrder

/-- What a bin keeps, what it drains to, and that the order of contributions does not matter (R114 to R116). -/
def Obligations.Contributions : Prop := Spec.ContributionRule ∧ Spec.BinsCombine ∧ Spec.Drains

/-- Arriving at a barrier, and its end (R188 to R191, R201). -/
def Obligations.Barriers : Prop := Spec.BarrierArrival ∧ Spec.BarrierWaits

/-- The synchronisation words and the timelines (R192, R194; the model's choices in log entry 81). -/
def Obligations.SyncWordsAndTimelines : Prop := Spec.SyncWords ∧ Spec.Timelines

/-- The phases loaded, the arrivals in them, and the logical cores they count on (R13, R196; the model's choices in log entries 66 and 72). -/
def Obligations.PhaseWords : Prop := Spec.PhaseLoaded ∧ Spec.PhaseArrival ∧ Spec.LogicalCores

/-- What a fault does to its thread, the record it leaves and where a resume goes on (R52, R340, R341, R344; the model's choices in log entry 39). -/
def Obligations.FaultEntry : Prop := Spec.FaultTaken ∧ Spec.RecordLayout ∧ Spec.ResumePoint

/-- The decode of a clause and its checks, the privileged words, TRAP, and reads of what holds an uncorrectable error (R33 to R37, R40, R42 to R45, R51,
R54, R340, R353, R369; the model's choices in log entry 7). -/
def Obligations.FaultCauses : Prop :=
  Spec.ClauseDecode ∧ Spec.OperandChecks ∧ Spec.DecodeFaults ∧ Spec.CheckedWords ∧ Spec.PrivilegedWords ∧ Spec.TrapResults ∧ Spec.BadReads

/-- How a handler waits for, reads and resolves faults, and what a killed block leaves (R180, R239, R240, R337, R348 to R350, R391, R392; the model's
choices in log entries 32, 58 and 88). -/
def Obligations.HandlerResults : Prop :=
  Spec.FaultWait ∧ Spec.FaultReport ∧ Spec.RingEntry ∧ Spec.FaultResume ∧ Spec.FaultReplayKill ∧ Spec.BlockKilled

/-- Page-table writes and TLB invalidations (R351, R352, R369). -/
def Obligations.PageTableChanges : Prop := Spec.PageTableWrite ∧ Spec.TlbInvalidation

/-- The reads and writes of the system registers (R354, R355, R357, R370, R372; the model's choices in log entries 27, 52 and 53). -/
def Obligations.SystemRegisters : Prop := Spec.SystemReads ∧ Spec.SystemWrites

/-- CLK, pending events, commit and protection status, timers, and the error banks (R201, R356, R357, R359, R362, R369 to R372; the model's choices in
log entries 17 and 52). -/
def Obligations.ClocksEventsAndBanks : Prop := Spec.ClockAndEvents ∧ Spec.Timers ∧ Spec.ErrorBanks

/-- Completions, the vote, what a word waits for, records and held threads (R27, R36 to R38, R52, R65 to R68, R94, R140, R170, R171, R181, R184, R346,
R348, R352, R357, R391, R403; the model's choices in log entries 11, 54 and 62). -/
def Obligations.ThreadEvents : Prop :=
  Spec.Completions ∧ Spec.VoteOrder ∧ Spec.VoteIssues ∧ Spec.VoteParts ∧ Spec.SlotWaits ∧ Spec.RecordEvents ∧ Spec.HoldsEnd

/-- Commit points, signatures, rollbacks, saves and moves (R199, R358, R359, R361, R363, R364, R366 to R369, R374 to R376; the model's choices in log
entries 22, 23 and 42). -/
def Obligations.Protection : Prop := Spec.CommitPoints ∧ Spec.Signatures ∧ Spec.TwinCommits ∧ Spec.Rollbacks ∧ Spec.Moves

/-- Task records, spawning and the packing unit (R199, R200, R314, R316, R321 to R323, R336; the model's choices in log entry 44). -/
def Obligations.TasksAndItems : Prop :=
  Spec.TaskRecords ∧ Spec.RecordQueued ∧ Spec.WorkWaits ∧ Spec.SpawnResults ∧ Spec.PackingUnit ∧ Spec.SpawniResults

/-- The log of a recording launch, and what a re-run takes from it (R377 to R379; the model's choices in log entries 27, 77 and 91). -/
def Obligations.RecordingAndReruns : Prop := Spec.LogEntries ∧ Spec.LoggedClocks ∧ Spec.LoggedAtomics ∧ Spec.RecordedLaunches ∧ Spec.LoggedArrivals

/-- Launch descriptors, launching, placing blocks and their threads (R25, R28, R150, R158, R191, R316, R318 to R326, R336, R361, R366, R374, R393; the
model's choices in log entries 46, 75 and 92). -/
def Obligations.LaunchesAndBlocks : Prop :=
  Spec.LaunchDescriptors ∧ Spec.PlanResults ∧ Spec.LaunchResults ∧ Spec.NewThread ∧
  Spec.PlacementOrder ∧ Spec.CoreChoice ∧ Spec.BlockPlaced ∧ Spec.BlocksPlaced ∧ Spec.Dispatched ∧ Spec.UnitsStart ∧
  Spec.WindowWrites

/-- Units completing, the end of a phase, and the level instructions (R29, R30, R180, R196, R316, R318, R334 to R337; the model's choices in log entries
28, 45, 46 and 47). -/
def Obligations.Levels : Prop := Spec.UnitsComplete ∧ Spec.PhaseEnds ∧ Spec.LevelInstructions ∧ Spec.Cancels ∧ Spec.BlockCancels

/-- Sending, arriving and completing (R138, R193, R326 to R328, R330 to R334, R369, R394, R395; the model's choices in log entries 30, 31, 47, 58 and 78). -/
def Obligations.Messages : Prop :=
  Spec.GroupTables ∧ Spec.MsgsendResults ∧ Spec.MsgremResults ∧ Spec.MessageArrivals ∧ Spec.MessageFlits ∧ Spec.MessageCompletions

/-- Pair descriptors, candidates, PLAUNCH and PCANCEL, the pair instructions and the status record (R30, R180, R211 to R223, R228 to R233, R237; the
model's choices in log entries 49, 70, 73, 74, 83 and 89). -/
def Obligations.PairLaunches : Prop :=
  Spec.PairDescriptors ∧ Spec.PairSources ∧ Spec.PairCells ∧ Spec.PairTest ∧
  Spec.PairNumbers ∧ Spec.PlaunchResults ∧ Spec.PcancelResults ∧ Spec.PairThreadResults ∧ Spec.PairStatus

/-- How a pair launch starts, runs batches, applies entries, drains and ends (R12, R114, R133, R210, R223, R224, R226, R229, R234 to R237, R239, R240,
R346, R393; the model's choices in log entries 49 and 58). -/
def Obligations.PairLaunchEvents : Prop :=
  Spec.PairStarts ∧ Spec.PairEmits ∧ Spec.PairBatches ∧ Spec.PairEntriesApplied ∧ Spec.PairDrains ∧ Spec.PairEnds

/-- The Granary's descriptors, PKQ and PKG, and what the unit serves (R272 to R279, R281 to R285; the model's choices in log entries 17, 51, 58 and 90). -/
def Obligations.GranaryResults : Prop :=
  Spec.GranaryDescriptors ∧ Spec.GranaryIssues ∧ Spec.GranaryScores ∧ Spec.GranaryTables ∧ Spec.GranaryOperations ∧ Spec.GranaryServes

/-- FORK and the tile program, the matrix instructions and what the unit executes (R245 to R247, R249 to R251, R253, R255 to R266, R346; the model's
choices in log entries 50 and 89). -/
def Obligations.TileAndMatrixResults : Prop :=
  Spec.ForkResults ∧ Spec.TilePrograms ∧ Spec.MatIssues ∧ Spec.MatOperands ∧ Spec.MatSettings ∧ Spec.MatWaits ∧ Spec.MatExecution

/-- The commands that a cluster's copy engine runs, and their end (R145, R146, R162 to R166, R193, R369; the model's choices in log entries 15, 24, 58
and 65). -/
def Obligations.CopyEngine : Prop := Spec.CopyPlaces ∧ Spec.CopyElements ∧ Spec.CopyRuns ∧ Spec.CopyCompletes

/-- The context commands, the host's accesses, boot and attestation (R273, R347, R387 to R391, R393, R396, R398 to R401; the model's choices in log
entries 20, 36, 37, 38, 54, 76, 80 and 84). -/
def Obligations.HostAndContexts : Prop := Spec.ContextCommands ∧ Spec.HostReads ∧ Spec.HostAccesses ∧ Spec.BootAndAttestation

/-- Refresh and scrubbing, power grants, fences and links (R12, R13, R22, R137, R155, R373, R395 to R397; the model's choices in log entries 17, 33, 35,
55 and 67). -/
def Obligations.PowerMemoryAndLinks : Prop := Spec.RefreshAndScrubs ∧ Spec.PowerGrants ∧ Spec.FencesAndLinks
end

