-- ==== Sys2Proof/Laws/Tab.lean ====
section
/-!
SUPPORT. Laws of the sparse tables and of memory: a read after a write, every other place left alone, and the canonical form kept by every
memory operation.
-/

namespace Sys2Proof.Machine

variable {α : Type}

/-! ## Reading a table after a change -/

theorem Tab.find_ins_same (t : Tab α) (n : Nat) (x : α) : Tab.find (Tab.ins t n x) n = some x := by
  induction t with
  | nil => simp [Tab.ins, Tab.find]
  | cons p t ih =>
    obtain ⟨k, v⟩ := p
    simp only [Tab.ins]
    split
    · simp [Tab.find]
    · split
      · simp_all [Tab.find]
      · rename_i h1 h2
        simp [Tab.find, ih, Ne.symm h2]

theorem Tab.find_ins_other (t : Tab α) {n m : Nat} (x : α) (h : m ≠ n) : Tab.find (Tab.ins t n x) m = Tab.find t m := by
  induction t with
  | nil => simp [Tab.ins, Tab.find, h.symm]
  | cons p t ih =>
    obtain ⟨k, v⟩ := p
    simp only [Tab.ins]
    split
    · simp [Tab.find, h.symm]
    · split
      · subst_vars; simp [Tab.find, h.symm]
      · simp [Tab.find, ih]

theorem Tab.find_del_same (t : Tab α) (n : Nat) : Tab.find (Tab.del t n) n = none := by
  induction t with
  | nil => rfl
  | cons p t ih =>
    obtain ⟨k, v⟩ := p
    simp only [Tab.del]
    split
    · exact ih
    · rename_i hk; simp [Tab.find, hk, ih]

theorem Tab.find_del_other (t : Tab α) {n m : Nat} (h : m ≠ n) : Tab.find (Tab.del t n) m = Tab.find t m := by
  induction t with
  | nil => rfl
  | cons p t ih =>
    obtain ⟨k, v⟩ := p
    simp only [Tab.del]
    split
    · subst_vars; simp [Tab.find, h.symm, ih]
    · simp [Tab.find, ih]

@[simp] theorem Tab.find_upd_same (t : Tab α) (n : Nat) (f : α → α) : Tab.find (Tab.upd t n f) n = (Tab.find t n).map f := by
  induction t with
  | nil => rfl
  | cons p t ih =>
    obtain ⟨k, v⟩ := p
    simp only [Tab.upd]
    split <;> simp_all [Tab.find]

theorem Tab.find_upd_other (t : Tab α) {n m : Nat} (f : α → α) (h : m ≠ n) : Tab.find (Tab.upd t n f) m = Tab.find t m := by
  induction t with
  | nil => rfl
  | cons p t ih =>
    obtain ⟨k, v⟩ := p
    simp only [Tab.upd]
    split
    · subst_vars; simp [Tab.find, h.symm]
    · simp [Tab.find, ih]

theorem Tab.get_put_other [DecidableEq α] (d : α) (t : Tab α) {n m : Nat} (x : α) (h : m ≠ n) :
    Tab.get d (Tab.put d t n x) m = Tab.get d t m := by
  simp only [Tab.get, Tab.put]
  split
  · rw [Tab.find_del_other t h]
  · rw [Tab.find_ins_other t x h]

/-! ## The canonical form -/

theorem Tab.sorted_tail {p : Nat × α} {t : Tab α} (h : Tab.sorted (p :: t) = true) : Tab.sorted t = true := by
  cases t with
  | nil => rfl
  | cons q t => simp only [Tab.sorted, Bool.and_eq_true] at h; exact h.2

/-- Rising keys, as a list fact: the head is below every other key. -/
theorem Tab.sorted_cons {k : Nat} {v : α} {t : Tab α} :
    Tab.sorted ((k, v) :: t) = true ↔ (∀ p ∈ t, k < p.1) ∧ Tab.sorted t = true := by
  induction t generalizing k v with
  | nil => simp [Tab.sorted]
  | cons q t ih =>
    obtain ⟨j, w⟩ := q
    simp only [Tab.sorted, Bool.and_eq_true, decide_eq_true_eq]
    constructor
    · rintro ⟨hlt, hs⟩
      refine ⟨?_, hs⟩
      intro p hp
      rcases List.mem_cons.1 hp with rfl | hp
      · exact hlt
      · exact Nat.lt_trans hlt ((ih.1 hs).1 p hp)
    · rintro ⟨hall, hs⟩
      exact ⟨hall (j, w) List.mem_cons_self, hs⟩

/-- A key below all of a rising table is not listed. -/
theorem Tab.find_none_of_lt {t : Tab α} {n : Nat} (h : ∀ p ∈ t, n < p.1) : Tab.find t n = none := by
  induction t with
  | nil => rfl
  | cons p t ih =>
    obtain ⟨k, v⟩ := p
    have hk : n < k := h (k, v) List.mem_cons_self
    simp only [Tab.find]
    rw [if_neg (by omega)]
    exact ih fun p hp => h p (List.mem_cons_of_mem _ hp)

theorem Tab.get_put_same [DecidableEq α] (d : α) (t : Tab α) (n : Nat) (x : α) : Tab.get d (Tab.put d t n x) n = x := by
  simp only [Tab.get, Tab.put]
  split
  · rw [Tab.find_del_same t n]; simp_all
  · rw [Tab.find_ins_same]; rfl

theorem Tab.mem_del {t : Tab α} {n : Nat} {p : Nat × α} (h : p ∈ Tab.del t n) : p ∈ t := by
  induction t with
  | nil => exact h
  | cons q t ih =>
    obtain ⟨k, v⟩ := q
    simp only [Tab.del] at h
    split at h
    · exact List.mem_cons_of_mem _ (ih h)
    · rcases List.mem_cons.1 h with rfl | h
      · exact List.mem_cons_self
      · exact List.mem_cons_of_mem _ (ih h)

theorem Tab.mem_ins {t : Tab α} {n : Nat} {x : α} {p : Nat × α} (h : p ∈ Tab.ins t n x) : p = (n, x) ∨ p ∈ t := by
  induction t with
  | nil => simpa [Tab.ins] using h
  | cons q t ih =>
    obtain ⟨k, v⟩ := q
    simp only [Tab.ins] at h
    split at h
    · simpa using h
    · split at h
      · rename_i hk
        subst hk
        rcases List.mem_cons.1 h with rfl | h
        · exact .inl rfl
        · exact .inr (List.mem_cons_of_mem _ h)
      · rcases List.mem_cons.1 h with rfl | h
        · exact .inr List.mem_cons_self
        · exact (ih h).imp id (List.mem_cons_of_mem _)

theorem Tab.sorted_del {t : Tab α} (n : Nat) (h : Tab.sorted t = true) : Tab.sorted (Tab.del t n) = true := by
  induction t with
  | nil => rfl
  | cons p t ih =>
    obtain ⟨k, v⟩ := p
    have hs := Tab.sorted_cons.1 h
    simp only [Tab.del]
    split
    · exact ih hs.2
    · exact Tab.sorted_cons.2 ⟨fun p hp => hs.1 p (Tab.mem_del hp), ih hs.2⟩

theorem Tab.sorted_ins {t : Tab α} (n : Nat) (x : α) (h : Tab.sorted t = true) : Tab.sorted (Tab.ins t n x) = true := by
  induction t with
  | nil => rfl
  | cons p t ih =>
    obtain ⟨k, v⟩ := p
    have hs := Tab.sorted_cons.1 h
    simp only [Tab.ins]
    split
    · rename_i hlt
      exact Tab.sorted_cons.2 ⟨fun p hp => by
        rcases List.mem_cons.1 hp with rfl | hp
        · exact hlt
        · exact Nat.lt_trans hlt (hs.1 p hp), h⟩
    · split
      · exact Tab.sorted_cons.2 hs
      · refine Tab.sorted_cons.2 ⟨fun p hp => ?_, ih hs.2⟩
        rcases Tab.mem_ins hp with rfl | hp
        · simp only; omega
        · exact hs.1 p hp

theorem Tab.canonical_iff [DecidableEq α] {d : α} {t : Tab α} :
    Tab.canonical d t = true ↔ Tab.sorted t = true ∧ ∀ p ∈ t, p.2 ≠ d := by
  simp [Tab.canonical]

/-- `put` keeps the canonical form. -/
theorem Tab.canonical_put [DecidableEq α] {d : α} {t : Tab α} (n : Nat) (x : α) (h : Tab.canonical d t = true) :
    Tab.canonical d (Tab.put d t n x) = true := by
  obtain ⟨hs, hv⟩ := Tab.canonical_iff.1 h
  simp only [Tab.put]
  split
  · exact Tab.canonical_iff.2 ⟨Tab.sorted_del n hs, fun p hp => hv p (Tab.mem_del hp)⟩
  · rename_i hx
    refine Tab.canonical_iff.2 ⟨Tab.sorted_ins n x hs, fun p hp => ?_⟩
    rcases Tab.mem_ins hp with rfl | hp
    · exact hx
    · exact hv p hp

theorem Tab.sorted_filter {t : Tab α} (q : Nat × α → Bool) (h : Tab.sorted t = true) : Tab.sorted (t.filter q) = true := by
  induction t with
  | nil => rfl
  | cons p t ih =>
    obtain ⟨k, v⟩ := p
    have hs := Tab.sorted_cons.1 h
    simp only [List.filter_cons]
    split
    · exact Tab.sorted_cons.2 ⟨fun p hp => hs.1 p (List.mem_filter.1 hp).1, ih hs.2⟩
    · exact ih hs.2

/-- Leaving entries out keeps the canonical form. -/
theorem Tab.canonical_filter [DecidableEq α] {d : α} {t : Tab α} (q : Nat × α → Bool) (h : Tab.canonical d t = true) :
    Tab.canonical d (t.filter q) = true := by
  obtain ⟨hs, hv⟩ := Tab.canonical_iff.1 h
  exact Tab.canonical_iff.2 ⟨Tab.sorted_filter q hs, fun p hp => hv p (List.mem_filter.1 hp).1⟩

/-! ## Memory -/

/-- A byte written is the byte read. -/
theorem Memory.byte_set_same (m : Memory) (k : Nat) (v : Byte) : (m.set k v).byte k = v := Tab.get_put_same 0 m k v

/-- Every other byte is left alone. -/
theorem Memory.byte_set_other (m : Memory) {k j : Nat} (v : Byte) (h : j ≠ k) : (m.set k v).byte j = m.byte j :=
  Tab.get_put_other 0 m v h

theorem Memory.wf_set {m : Memory} (k : Nat) (v : Byte) (h : m.wf = true) : (m.set k v).wf = true :=
  Tab.canonical_put k v h

/-- Writing several bytes keeps the canonical form. -/
theorem Memory.wf_setAll {m : Memory} (kvs : List (Nat × Byte)) (h : m.wf = true) : (m.setAll kvs).wf = true := by
  induction kvs generalizing m with
  | nil => exact h
  | cons p kvs ih => exact ih (Memory.wf_set p.1 p.2 h)

/-- Writing several bytes leaves every byte at another key alone. -/
theorem Memory.byte_setAll_other {kvs : List (Nat × Byte)} {j : Nat} (m : Memory) (h : ∀ p ∈ kvs, p.1 ≠ j) :
    (m.setAll kvs).byte j = m.byte j := by
  induction kvs generalizing m with
  | nil => rfl
  | cons p kvs ih =>
    have hp : j ≠ p.1 := (h p List.mem_cons_self).symm
    exact (ih (m.set p.1 p.2) fun q hq => h q (List.mem_cons_of_mem _ hq)).trans (Memory.byte_set_other m p.2 hp)

theorem Memory.wf_filter {m : Memory} (q : Nat × Byte → Bool) (h : m.wf = true) : Memory.wf (m.filter q) = true :=
  Tab.canonical_filter q h

theorem State.memWrite_wf {s : State} (kvs : List (Nat × Byte)) (h : s.mem.wf = true) : (s.memWrite kvs).mem.wf = true :=
  Memory.wf_setAll kvs h

theorem State.scrWrite_wf {s : State} (kvs : List (Nat × Byte)) (h : s.scr.wf = true) : (s.scrWrite kvs).scr.wf = true :=
  Memory.wf_setAll kvs h

end Sys2Proof.Machine
end

