-- ==== Sys2Proof/Laws/State.lean ====
section
/-!
SUPPORT. What each named update of the state leaves alone, one lemma per field, and what a thread, a block or a cluster reads as after one.
-/

namespace Sys2Proof.Machine

/-! ## Fields that an update leaves alone -/

@[simp] theorem State.updBlock_agenda (s : State) (b : Nat) (f : Block → Block) : (s.updBlock b f).agenda = s.agenda := rfl
@[simp] theorem State.updBlock_pace (s : State) (b : Nat) (f : Block → Block) : (s.updBlock b f).pace = s.pace := rfl
@[simp] theorem State.updBlock_lastVote (s : State) (b : Nat) (f : Block → Block) : (s.updBlock b f).lastVote = s.lastVote := rfl
@[simp] theorem State.updBlock_tags (s : State) (b : Nat) (f : Block → Block) : (s.updBlock b f).tags = s.tags := rfl
@[simp] theorem State.updBlock_names (s : State) (b : Nat) (f : Block → Block) : (s.updBlock b f).names = s.names := rfl
@[simp] theorem State.updBlock_putOff (s : State) (b : Nat) (f : Block → Block) : (s.updBlock b f).putOff = s.putOff := rfl
@[simp] theorem State.updBlock_issues (s : State) (b : Nat) (f : Block → Block) : (s.updBlock b f).issues = s.issues := rfl
@[simp] theorem State.updBlock_clk (s : State) (b : Nat) (f : Block → Block) : (s.updBlock b f).clk = s.clk := rfl
@[simp] theorem State.updBlock_mem (s : State) (b : Nat) (f : Block → Block) : (s.updBlock b f).mem = s.mem := rfl
@[simp] theorem State.updBlock_scr (s : State) (b : Nat) (f : Block → Block) : (s.updBlock b f).scr = s.scr := rfl
@[simp] theorem State.updBlock_poison (s : State) (b : Nat) (f : Block → Block) : (s.updBlock b f).poison = s.poison := rfl
@[simp] theorem State.updBlock_clusters (s : State) (b : Nat) (f : Block → Block) : (s.updBlock b f).clusters = s.clusters := rfl
@[simp] theorem State.updBlock_tlbs (s : State) (b : Nat) (f : Block → Block) : (s.updBlock b f).tlbs = s.tlbs := rfl
@[simp] theorem State.updBlock_mats (s : State) (b : Nat) (f : Block → Block) : (s.updBlock b f).mats = s.mats := rfl
@[simp] theorem State.updBlock_grans (s : State) (b : Nat) (f : Block → Block) : (s.updBlock b f).grans = s.grans := rfl
@[simp] theorem State.updBlock_dies (s : State) (b : Nat) (f : Block → Block) : (s.updBlock b f).dies = s.dies := rfl
@[simp] theorem State.updBlock_ctxs (s : State) (b : Nat) (f : Block → Block) : (s.updBlock b f).ctxs = s.ctxs := rfl
@[simp] theorem State.updBlock_launches (s : State) (b : Nat) (f : Block → Block) : (s.updBlock b f).launches = s.launches := rfl
@[simp] theorem State.updBlock_lidNext (s : State) (b : Nat) (f : Block → Block) : (s.updBlock b f).lidNext = s.lidNext := rfl
@[simp] theorem State.updBlock_pairs (s : State) (b : Nat) (f : Block → Block) : (s.updBlock b f).pairs = s.pairs := rfl
@[simp] theorem State.updBlock_syncs (s : State) (b : Nat) (f : Block → Block) : (s.updBlock b f).syncs = s.syncs := rfl
@[simp] theorem State.updBlock_fns (s : State) (b : Nat) (f : Block → Block) : (s.updBlock b f).fns = s.fns := rfl
@[simp] theorem State.updBlock_irqs (s : State) (b : Nat) (f : Block → Block) : (s.updBlock b f).irqs = s.irqs := rfl
@[simp] theorem State.updBlock_banks (s : State) (b : Nat) (f : Block → Block) : (s.updBlock b f).banks = s.banks := rfl
@[simp] theorem State.updBlock_dev (s : State) (b : Nat) (f : Block → Block) : (s.updBlock b f).dev = s.dev := rfl
@[simp] theorem State.updBlock_fwds (s : State) (b : Nat) (f : Block → Block) : (s.updBlock b f).fwds = s.fwds := rfl
@[simp] theorem State.updBlock_switches (s : State) (b : Nat) (f : Block → Block) : (s.updBlock b f).switches = s.switches := rfl
@[simp] theorem State.updBlock_outbox (s : State) (b : Nat) (f : Block → Block) : (s.updBlock b f).outbox = s.outbox := rfl
@[simp] theorem State.updBlock_flits (s : State) (b : Nat) (f : Block → Block) : (s.updBlock b f).flits = s.flits := rfl
@[simp] theorem State.updBlock_flitSeq (s : State) (b : Nat) (f : Block → Block) : (s.updBlock b f).flitSeq = s.flitSeq := rfl

@[simp] theorem State.updThread_agenda (s : State) (t : TRef) (f : Thread → Thread) : (s.updThread t f).agenda = s.agenda := rfl
@[simp] theorem State.updThread_pace (s : State) (t : TRef) (f : Thread → Thread) : (s.updThread t f).pace = s.pace := rfl
@[simp] theorem State.updThread_lastVote (s : State) (t : TRef) (f : Thread → Thread) : (s.updThread t f).lastVote = s.lastVote := rfl
@[simp] theorem State.updThread_tags (s : State) (t : TRef) (f : Thread → Thread) : (s.updThread t f).tags = s.tags := rfl
@[simp] theorem State.updThread_names (s : State) (t : TRef) (f : Thread → Thread) : (s.updThread t f).names = s.names := rfl
@[simp] theorem State.updThread_putOff (s : State) (t : TRef) (f : Thread → Thread) : (s.updThread t f).putOff = s.putOff := rfl
@[simp] theorem State.updThread_issues (s : State) (t : TRef) (f : Thread → Thread) : (s.updThread t f).issues = s.issues := rfl
@[simp] theorem State.updThread_clk (s : State) (t : TRef) (f : Thread → Thread) : (s.updThread t f).clk = s.clk := rfl
@[simp] theorem State.updThread_mem (s : State) (t : TRef) (f : Thread → Thread) : (s.updThread t f).mem = s.mem := rfl
@[simp] theorem State.updThread_scr (s : State) (t : TRef) (f : Thread → Thread) : (s.updThread t f).scr = s.scr := rfl
@[simp] theorem State.updThread_poison (s : State) (t : TRef) (f : Thread → Thread) : (s.updThread t f).poison = s.poison := rfl
@[simp] theorem State.updThread_clusters (s : State) (t : TRef) (f : Thread → Thread) : (s.updThread t f).clusters = s.clusters := rfl
@[simp] theorem State.updThread_tlbs (s : State) (t : TRef) (f : Thread → Thread) : (s.updThread t f).tlbs = s.tlbs := rfl
@[simp] theorem State.updThread_mats (s : State) (t : TRef) (f : Thread → Thread) : (s.updThread t f).mats = s.mats := rfl
@[simp] theorem State.updThread_grans (s : State) (t : TRef) (f : Thread → Thread) : (s.updThread t f).grans = s.grans := rfl
@[simp] theorem State.updThread_dies (s : State) (t : TRef) (f : Thread → Thread) : (s.updThread t f).dies = s.dies := rfl
@[simp] theorem State.updThread_ctxs (s : State) (t : TRef) (f : Thread → Thread) : (s.updThread t f).ctxs = s.ctxs := rfl
@[simp] theorem State.updThread_launches (s : State) (t : TRef) (f : Thread → Thread) : (s.updThread t f).launches = s.launches := rfl
@[simp] theorem State.updThread_lidNext (s : State) (t : TRef) (f : Thread → Thread) : (s.updThread t f).lidNext = s.lidNext := rfl
@[simp] theorem State.updThread_pairs (s : State) (t : TRef) (f : Thread → Thread) : (s.updThread t f).pairs = s.pairs := rfl
@[simp] theorem State.updThread_syncs (s : State) (t : TRef) (f : Thread → Thread) : (s.updThread t f).syncs = s.syncs := rfl
@[simp] theorem State.updThread_fns (s : State) (t : TRef) (f : Thread → Thread) : (s.updThread t f).fns = s.fns := rfl
@[simp] theorem State.updThread_irqs (s : State) (t : TRef) (f : Thread → Thread) : (s.updThread t f).irqs = s.irqs := rfl
@[simp] theorem State.updThread_banks (s : State) (t : TRef) (f : Thread → Thread) : (s.updThread t f).banks = s.banks := rfl
@[simp] theorem State.updThread_dev (s : State) (t : TRef) (f : Thread → Thread) : (s.updThread t f).dev = s.dev := rfl
@[simp] theorem State.updThread_fwds (s : State) (t : TRef) (f : Thread → Thread) : (s.updThread t f).fwds = s.fwds := rfl
@[simp] theorem State.updThread_switches (s : State) (t : TRef) (f : Thread → Thread) : (s.updThread t f).switches = s.switches := rfl
@[simp] theorem State.updThread_outbox (s : State) (t : TRef) (f : Thread → Thread) : (s.updThread t f).outbox = s.outbox := rfl
@[simp] theorem State.updThread_flits (s : State) (t : TRef) (f : Thread → Thread) : (s.updThread t f).flits = s.flits := rfl
@[simp] theorem State.updThread_flitSeq (s : State) (t : TRef) (f : Thread → Thread) : (s.updThread t f).flitSeq = s.flitSeq := rfl

@[simp] theorem State.updUni_agenda (s : State) (t : TRef) (f : Vector Word 64 → Vector Word 64) : (s.updUni t f).agenda = s.agenda := rfl
@[simp] theorem State.updUni_pace (s : State) (t : TRef) (f : Vector Word 64 → Vector Word 64) : (s.updUni t f).pace = s.pace := rfl
@[simp] theorem State.updUni_lastVote (s : State) (t : TRef) (f : Vector Word 64 → Vector Word 64) : (s.updUni t f).lastVote = s.lastVote := rfl
@[simp] theorem State.updUni_tags (s : State) (t : TRef) (f : Vector Word 64 → Vector Word 64) : (s.updUni t f).tags = s.tags := rfl
@[simp] theorem State.updUni_names (s : State) (t : TRef) (f : Vector Word 64 → Vector Word 64) : (s.updUni t f).names = s.names := rfl
@[simp] theorem State.updUni_putOff (s : State) (t : TRef) (f : Vector Word 64 → Vector Word 64) : (s.updUni t f).putOff = s.putOff := rfl
@[simp] theorem State.updUni_issues (s : State) (t : TRef) (f : Vector Word 64 → Vector Word 64) : (s.updUni t f).issues = s.issues := rfl
@[simp] theorem State.updUni_clk (s : State) (t : TRef) (f : Vector Word 64 → Vector Word 64) : (s.updUni t f).clk = s.clk := rfl
@[simp] theorem State.updUni_mem (s : State) (t : TRef) (f : Vector Word 64 → Vector Word 64) : (s.updUni t f).mem = s.mem := rfl
@[simp] theorem State.updUni_scr (s : State) (t : TRef) (f : Vector Word 64 → Vector Word 64) : (s.updUni t f).scr = s.scr := rfl
@[simp] theorem State.updUni_poison (s : State) (t : TRef) (f : Vector Word 64 → Vector Word 64) : (s.updUni t f).poison = s.poison := rfl
@[simp] theorem State.updUni_clusters (s : State) (t : TRef) (f : Vector Word 64 → Vector Word 64) : (s.updUni t f).clusters = s.clusters := rfl
@[simp] theorem State.updUni_tlbs (s : State) (t : TRef) (f : Vector Word 64 → Vector Word 64) : (s.updUni t f).tlbs = s.tlbs := rfl
@[simp] theorem State.updUni_mats (s : State) (t : TRef) (f : Vector Word 64 → Vector Word 64) : (s.updUni t f).mats = s.mats := rfl
@[simp] theorem State.updUni_grans (s : State) (t : TRef) (f : Vector Word 64 → Vector Word 64) : (s.updUni t f).grans = s.grans := rfl
@[simp] theorem State.updUni_dies (s : State) (t : TRef) (f : Vector Word 64 → Vector Word 64) : (s.updUni t f).dies = s.dies := rfl
@[simp] theorem State.updUni_ctxs (s : State) (t : TRef) (f : Vector Word 64 → Vector Word 64) : (s.updUni t f).ctxs = s.ctxs := rfl
@[simp] theorem State.updUni_launches (s : State) (t : TRef) (f : Vector Word 64 → Vector Word 64) : (s.updUni t f).launches = s.launches := rfl
@[simp] theorem State.updUni_lidNext (s : State) (t : TRef) (f : Vector Word 64 → Vector Word 64) : (s.updUni t f).lidNext = s.lidNext := rfl
@[simp] theorem State.updUni_pairs (s : State) (t : TRef) (f : Vector Word 64 → Vector Word 64) : (s.updUni t f).pairs = s.pairs := rfl
@[simp] theorem State.updUni_syncs (s : State) (t : TRef) (f : Vector Word 64 → Vector Word 64) : (s.updUni t f).syncs = s.syncs := rfl
@[simp] theorem State.updUni_fns (s : State) (t : TRef) (f : Vector Word 64 → Vector Word 64) : (s.updUni t f).fns = s.fns := rfl
@[simp] theorem State.updUni_irqs (s : State) (t : TRef) (f : Vector Word 64 → Vector Word 64) : (s.updUni t f).irqs = s.irqs := rfl
@[simp] theorem State.updUni_banks (s : State) (t : TRef) (f : Vector Word 64 → Vector Word 64) : (s.updUni t f).banks = s.banks := rfl
@[simp] theorem State.updUni_dev (s : State) (t : TRef) (f : Vector Word 64 → Vector Word 64) : (s.updUni t f).dev = s.dev := rfl
@[simp] theorem State.updUni_fwds (s : State) (t : TRef) (f : Vector Word 64 → Vector Word 64) : (s.updUni t f).fwds = s.fwds := rfl
@[simp] theorem State.updUni_switches (s : State) (t : TRef) (f : Vector Word 64 → Vector Word 64) : (s.updUni t f).switches = s.switches := rfl
@[simp] theorem State.updUni_outbox (s : State) (t : TRef) (f : Vector Word 64 → Vector Word 64) : (s.updUni t f).outbox = s.outbox := rfl
@[simp] theorem State.updUni_flits (s : State) (t : TRef) (f : Vector Word 64 → Vector Word 64) : (s.updUni t f).flits = s.flits := rfl
@[simp] theorem State.updUni_flitSeq (s : State) (t : TRef) (f : Vector Word 64 → Vector Word 64) : (s.updUni t f).flitSeq = s.flitSeq := rfl

@[simp] theorem State.updCluster_agenda (s : State) (c : Nat) (f : Cluster → Cluster) : (s.updCluster c f).agenda = s.agenda := rfl
@[simp] theorem State.updCluster_pace (s : State) (c : Nat) (f : Cluster → Cluster) : (s.updCluster c f).pace = s.pace := rfl
@[simp] theorem State.updCluster_lastVote (s : State) (c : Nat) (f : Cluster → Cluster) : (s.updCluster c f).lastVote = s.lastVote := rfl
@[simp] theorem State.updCluster_tags (s : State) (c : Nat) (f : Cluster → Cluster) : (s.updCluster c f).tags = s.tags := rfl
@[simp] theorem State.updCluster_names (s : State) (c : Nat) (f : Cluster → Cluster) : (s.updCluster c f).names = s.names := rfl
@[simp] theorem State.updCluster_putOff (s : State) (c : Nat) (f : Cluster → Cluster) : (s.updCluster c f).putOff = s.putOff := rfl
@[simp] theorem State.updCluster_issues (s : State) (c : Nat) (f : Cluster → Cluster) : (s.updCluster c f).issues = s.issues := rfl
@[simp] theorem State.updCluster_clk (s : State) (c : Nat) (f : Cluster → Cluster) : (s.updCluster c f).clk = s.clk := rfl
@[simp] theorem State.updCluster_mem (s : State) (c : Nat) (f : Cluster → Cluster) : (s.updCluster c f).mem = s.mem := rfl
@[simp] theorem State.updCluster_scr (s : State) (c : Nat) (f : Cluster → Cluster) : (s.updCluster c f).scr = s.scr := rfl
@[simp] theorem State.updCluster_poison (s : State) (c : Nat) (f : Cluster → Cluster) : (s.updCluster c f).poison = s.poison := rfl
@[simp] theorem State.updCluster_blocks (s : State) (c : Nat) (f : Cluster → Cluster) : (s.updCluster c f).blocks = s.blocks := rfl
@[simp] theorem State.updCluster_tlbs (s : State) (c : Nat) (f : Cluster → Cluster) : (s.updCluster c f).tlbs = s.tlbs := rfl
@[simp] theorem State.updCluster_mats (s : State) (c : Nat) (f : Cluster → Cluster) : (s.updCluster c f).mats = s.mats := rfl
@[simp] theorem State.updCluster_grans (s : State) (c : Nat) (f : Cluster → Cluster) : (s.updCluster c f).grans = s.grans := rfl
@[simp] theorem State.updCluster_dies (s : State) (c : Nat) (f : Cluster → Cluster) : (s.updCluster c f).dies = s.dies := rfl
@[simp] theorem State.updCluster_ctxs (s : State) (c : Nat) (f : Cluster → Cluster) : (s.updCluster c f).ctxs = s.ctxs := rfl
@[simp] theorem State.updCluster_launches (s : State) (c : Nat) (f : Cluster → Cluster) : (s.updCluster c f).launches = s.launches := rfl
@[simp] theorem State.updCluster_lidNext (s : State) (c : Nat) (f : Cluster → Cluster) : (s.updCluster c f).lidNext = s.lidNext := rfl
@[simp] theorem State.updCluster_pairs (s : State) (c : Nat) (f : Cluster → Cluster) : (s.updCluster c f).pairs = s.pairs := rfl
@[simp] theorem State.updCluster_syncs (s : State) (c : Nat) (f : Cluster → Cluster) : (s.updCluster c f).syncs = s.syncs := rfl
@[simp] theorem State.updCluster_fns (s : State) (c : Nat) (f : Cluster → Cluster) : (s.updCluster c f).fns = s.fns := rfl
@[simp] theorem State.updCluster_irqs (s : State) (c : Nat) (f : Cluster → Cluster) : (s.updCluster c f).irqs = s.irqs := rfl
@[simp] theorem State.updCluster_banks (s : State) (c : Nat) (f : Cluster → Cluster) : (s.updCluster c f).banks = s.banks := rfl
@[simp] theorem State.updCluster_dev (s : State) (c : Nat) (f : Cluster → Cluster) : (s.updCluster c f).dev = s.dev := rfl
@[simp] theorem State.updCluster_fwds (s : State) (c : Nat) (f : Cluster → Cluster) : (s.updCluster c f).fwds = s.fwds := rfl
@[simp] theorem State.updCluster_switches (s : State) (c : Nat) (f : Cluster → Cluster) : (s.updCluster c f).switches = s.switches := rfl
@[simp] theorem State.updCluster_outbox (s : State) (c : Nat) (f : Cluster → Cluster) : (s.updCluster c f).outbox = s.outbox := rfl
@[simp] theorem State.updCluster_flits (s : State) (c : Nat) (f : Cluster → Cluster) : (s.updCluster c f).flits = s.flits := rfl
@[simp] theorem State.updCluster_flitSeq (s : State) (c : Nat) (f : Cluster → Cluster) : (s.updCluster c f).flitSeq = s.flitSeq := rfl

@[simp] theorem State.updTile_agenda (s : State) (c : Nat) (f : TileRun → TileRun) : (s.updTile c f).agenda = s.agenda := rfl
@[simp] theorem State.updTile_pace (s : State) (c : Nat) (f : TileRun → TileRun) : (s.updTile c f).pace = s.pace := rfl
@[simp] theorem State.updTile_lastVote (s : State) (c : Nat) (f : TileRun → TileRun) : (s.updTile c f).lastVote = s.lastVote := rfl
@[simp] theorem State.updTile_tags (s : State) (c : Nat) (f : TileRun → TileRun) : (s.updTile c f).tags = s.tags := rfl
@[simp] theorem State.updTile_names (s : State) (c : Nat) (f : TileRun → TileRun) : (s.updTile c f).names = s.names := rfl
@[simp] theorem State.updTile_putOff (s : State) (c : Nat) (f : TileRun → TileRun) : (s.updTile c f).putOff = s.putOff := rfl
@[simp] theorem State.updTile_issues (s : State) (c : Nat) (f : TileRun → TileRun) : (s.updTile c f).issues = s.issues := rfl
@[simp] theorem State.updTile_clk (s : State) (c : Nat) (f : TileRun → TileRun) : (s.updTile c f).clk = s.clk := rfl
@[simp] theorem State.updTile_mem (s : State) (c : Nat) (f : TileRun → TileRun) : (s.updTile c f).mem = s.mem := rfl
@[simp] theorem State.updTile_scr (s : State) (c : Nat) (f : TileRun → TileRun) : (s.updTile c f).scr = s.scr := rfl
@[simp] theorem State.updTile_poison (s : State) (c : Nat) (f : TileRun → TileRun) : (s.updTile c f).poison = s.poison := rfl
@[simp] theorem State.updTile_blocks (s : State) (c : Nat) (f : TileRun → TileRun) : (s.updTile c f).blocks = s.blocks := rfl
@[simp] theorem State.updTile_tlbs (s : State) (c : Nat) (f : TileRun → TileRun) : (s.updTile c f).tlbs = s.tlbs := rfl
@[simp] theorem State.updTile_mats (s : State) (c : Nat) (f : TileRun → TileRun) : (s.updTile c f).mats = s.mats := rfl
@[simp] theorem State.updTile_grans (s : State) (c : Nat) (f : TileRun → TileRun) : (s.updTile c f).grans = s.grans := rfl
@[simp] theorem State.updTile_dies (s : State) (c : Nat) (f : TileRun → TileRun) : (s.updTile c f).dies = s.dies := rfl
@[simp] theorem State.updTile_ctxs (s : State) (c : Nat) (f : TileRun → TileRun) : (s.updTile c f).ctxs = s.ctxs := rfl
@[simp] theorem State.updTile_launches (s : State) (c : Nat) (f : TileRun → TileRun) : (s.updTile c f).launches = s.launches := rfl
@[simp] theorem State.updTile_lidNext (s : State) (c : Nat) (f : TileRun → TileRun) : (s.updTile c f).lidNext = s.lidNext := rfl
@[simp] theorem State.updTile_pairs (s : State) (c : Nat) (f : TileRun → TileRun) : (s.updTile c f).pairs = s.pairs := rfl
@[simp] theorem State.updTile_syncs (s : State) (c : Nat) (f : TileRun → TileRun) : (s.updTile c f).syncs = s.syncs := rfl
@[simp] theorem State.updTile_fns (s : State) (c : Nat) (f : TileRun → TileRun) : (s.updTile c f).fns = s.fns := rfl
@[simp] theorem State.updTile_irqs (s : State) (c : Nat) (f : TileRun → TileRun) : (s.updTile c f).irqs = s.irqs := rfl
@[simp] theorem State.updTile_banks (s : State) (c : Nat) (f : TileRun → TileRun) : (s.updTile c f).banks = s.banks := rfl
@[simp] theorem State.updTile_dev (s : State) (c : Nat) (f : TileRun → TileRun) : (s.updTile c f).dev = s.dev := rfl
@[simp] theorem State.updTile_fwds (s : State) (c : Nat) (f : TileRun → TileRun) : (s.updTile c f).fwds = s.fwds := rfl
@[simp] theorem State.updTile_switches (s : State) (c : Nat) (f : TileRun → TileRun) : (s.updTile c f).switches = s.switches := rfl
@[simp] theorem State.updTile_outbox (s : State) (c : Nat) (f : TileRun → TileRun) : (s.updTile c f).outbox = s.outbox := rfl
@[simp] theorem State.updTile_flits (s : State) (c : Nat) (f : TileRun → TileRun) : (s.updTile c f).flits = s.flits := rfl
@[simp] theorem State.updTile_flitSeq (s : State) (c : Nat) (f : TileRun → TileRun) : (s.updTile c f).flitSeq = s.flitSeq := rfl

@[simp] theorem State.updCtx_agenda (s : State) (c : Nat) (f : Ctx → Ctx) : (s.updCtx c f).agenda = s.agenda := rfl
@[simp] theorem State.updCtx_pace (s : State) (c : Nat) (f : Ctx → Ctx) : (s.updCtx c f).pace = s.pace := rfl
@[simp] theorem State.updCtx_lastVote (s : State) (c : Nat) (f : Ctx → Ctx) : (s.updCtx c f).lastVote = s.lastVote := rfl
@[simp] theorem State.updCtx_tags (s : State) (c : Nat) (f : Ctx → Ctx) : (s.updCtx c f).tags = s.tags := rfl
@[simp] theorem State.updCtx_names (s : State) (c : Nat) (f : Ctx → Ctx) : (s.updCtx c f).names = s.names := rfl
@[simp] theorem State.updCtx_putOff (s : State) (c : Nat) (f : Ctx → Ctx) : (s.updCtx c f).putOff = s.putOff := rfl
@[simp] theorem State.updCtx_issues (s : State) (c : Nat) (f : Ctx → Ctx) : (s.updCtx c f).issues = s.issues := rfl
@[simp] theorem State.updCtx_clk (s : State) (c : Nat) (f : Ctx → Ctx) : (s.updCtx c f).clk = s.clk := rfl
@[simp] theorem State.updCtx_mem (s : State) (c : Nat) (f : Ctx → Ctx) : (s.updCtx c f).mem = s.mem := rfl
@[simp] theorem State.updCtx_scr (s : State) (c : Nat) (f : Ctx → Ctx) : (s.updCtx c f).scr = s.scr := rfl
@[simp] theorem State.updCtx_poison (s : State) (c : Nat) (f : Ctx → Ctx) : (s.updCtx c f).poison = s.poison := rfl
@[simp] theorem State.updCtx_blocks (s : State) (c : Nat) (f : Ctx → Ctx) : (s.updCtx c f).blocks = s.blocks := rfl
@[simp] theorem State.updCtx_clusters (s : State) (c : Nat) (f : Ctx → Ctx) : (s.updCtx c f).clusters = s.clusters := rfl
@[simp] theorem State.updCtx_tlbs (s : State) (c : Nat) (f : Ctx → Ctx) : (s.updCtx c f).tlbs = s.tlbs := rfl
@[simp] theorem State.updCtx_mats (s : State) (c : Nat) (f : Ctx → Ctx) : (s.updCtx c f).mats = s.mats := rfl
@[simp] theorem State.updCtx_grans (s : State) (c : Nat) (f : Ctx → Ctx) : (s.updCtx c f).grans = s.grans := rfl
@[simp] theorem State.updCtx_dies (s : State) (c : Nat) (f : Ctx → Ctx) : (s.updCtx c f).dies = s.dies := rfl
@[simp] theorem State.updCtx_launches (s : State) (c : Nat) (f : Ctx → Ctx) : (s.updCtx c f).launches = s.launches := rfl
@[simp] theorem State.updCtx_lidNext (s : State) (c : Nat) (f : Ctx → Ctx) : (s.updCtx c f).lidNext = s.lidNext := rfl
@[simp] theorem State.updCtx_pairs (s : State) (c : Nat) (f : Ctx → Ctx) : (s.updCtx c f).pairs = s.pairs := rfl
@[simp] theorem State.updCtx_syncs (s : State) (c : Nat) (f : Ctx → Ctx) : (s.updCtx c f).syncs = s.syncs := rfl
@[simp] theorem State.updCtx_fns (s : State) (c : Nat) (f : Ctx → Ctx) : (s.updCtx c f).fns = s.fns := rfl
@[simp] theorem State.updCtx_irqs (s : State) (c : Nat) (f : Ctx → Ctx) : (s.updCtx c f).irqs = s.irqs := rfl
@[simp] theorem State.updCtx_banks (s : State) (c : Nat) (f : Ctx → Ctx) : (s.updCtx c f).banks = s.banks := rfl
@[simp] theorem State.updCtx_dev (s : State) (c : Nat) (f : Ctx → Ctx) : (s.updCtx c f).dev = s.dev := rfl
@[simp] theorem State.updCtx_fwds (s : State) (c : Nat) (f : Ctx → Ctx) : (s.updCtx c f).fwds = s.fwds := rfl
@[simp] theorem State.updCtx_switches (s : State) (c : Nat) (f : Ctx → Ctx) : (s.updCtx c f).switches = s.switches := rfl
@[simp] theorem State.updCtx_outbox (s : State) (c : Nat) (f : Ctx → Ctx) : (s.updCtx c f).outbox = s.outbox := rfl
@[simp] theorem State.updCtx_flits (s : State) (c : Nat) (f : Ctx → Ctx) : (s.updCtx c f).flits = s.flits := rfl
@[simp] theorem State.updCtx_flitSeq (s : State) (c : Nat) (f : Ctx → Ctx) : (s.updCtx c f).flitSeq = s.flitSeq := rfl

@[simp] theorem State.report_agenda (s : State) (c : Nat) (r : FRec) (u : FUnit) : (s.report c r u).agenda = s.agenda := rfl
@[simp] theorem State.report_pace (s : State) (c : Nat) (r : FRec) (u : FUnit) : (s.report c r u).pace = s.pace := rfl
@[simp] theorem State.report_lastVote (s : State) (c : Nat) (r : FRec) (u : FUnit) : (s.report c r u).lastVote = s.lastVote := rfl
@[simp] theorem State.report_tags (s : State) (c : Nat) (r : FRec) (u : FUnit) : (s.report c r u).tags = s.tags := rfl
@[simp] theorem State.report_names (s : State) (c : Nat) (r : FRec) (u : FUnit) : (s.report c r u).names = s.names := rfl
@[simp] theorem State.report_putOff (s : State) (c : Nat) (r : FRec) (u : FUnit) : (s.report c r u).putOff = s.putOff := rfl
@[simp] theorem State.report_issues (s : State) (c : Nat) (r : FRec) (u : FUnit) : (s.report c r u).issues = s.issues := rfl
@[simp] theorem State.report_clk (s : State) (c : Nat) (r : FRec) (u : FUnit) : (s.report c r u).clk = s.clk := rfl
@[simp] theorem State.report_mem (s : State) (c : Nat) (r : FRec) (u : FUnit) : (s.report c r u).mem = s.mem := rfl
@[simp] theorem State.report_scr (s : State) (c : Nat) (r : FRec) (u : FUnit) : (s.report c r u).scr = s.scr := rfl
@[simp] theorem State.report_poison (s : State) (c : Nat) (r : FRec) (u : FUnit) : (s.report c r u).poison = s.poison := rfl
@[simp] theorem State.report_blocks (s : State) (c : Nat) (r : FRec) (u : FUnit) : (s.report c r u).blocks = s.blocks := rfl
@[simp] theorem State.report_clusters (s : State) (c : Nat) (r : FRec) (u : FUnit) : (s.report c r u).clusters = s.clusters := rfl
@[simp] theorem State.report_tlbs (s : State) (c : Nat) (r : FRec) (u : FUnit) : (s.report c r u).tlbs = s.tlbs := rfl
@[simp] theorem State.report_mats (s : State) (c : Nat) (r : FRec) (u : FUnit) : (s.report c r u).mats = s.mats := rfl
@[simp] theorem State.report_grans (s : State) (c : Nat) (r : FRec) (u : FUnit) : (s.report c r u).grans = s.grans := rfl
@[simp] theorem State.report_dies (s : State) (c : Nat) (r : FRec) (u : FUnit) : (s.report c r u).dies = s.dies := rfl
@[simp] theorem State.report_launches (s : State) (c : Nat) (r : FRec) (u : FUnit) : (s.report c r u).launches = s.launches := rfl
@[simp] theorem State.report_lidNext (s : State) (c : Nat) (r : FRec) (u : FUnit) : (s.report c r u).lidNext = s.lidNext := rfl
@[simp] theorem State.report_pairs (s : State) (c : Nat) (r : FRec) (u : FUnit) : (s.report c r u).pairs = s.pairs := rfl
@[simp] theorem State.report_syncs (s : State) (c : Nat) (r : FRec) (u : FUnit) : (s.report c r u).syncs = s.syncs := rfl
@[simp] theorem State.report_fns (s : State) (c : Nat) (r : FRec) (u : FUnit) : (s.report c r u).fns = s.fns := rfl
@[simp] theorem State.report_irqs (s : State) (c : Nat) (r : FRec) (u : FUnit) : (s.report c r u).irqs = s.irqs := rfl
@[simp] theorem State.report_banks (s : State) (c : Nat) (r : FRec) (u : FUnit) : (s.report c r u).banks = s.banks := rfl
@[simp] theorem State.report_dev (s : State) (c : Nat) (r : FRec) (u : FUnit) : (s.report c r u).dev = s.dev := rfl
@[simp] theorem State.report_fwds (s : State) (c : Nat) (r : FRec) (u : FUnit) : (s.report c r u).fwds = s.fwds := rfl
@[simp] theorem State.report_switches (s : State) (c : Nat) (r : FRec) (u : FUnit) : (s.report c r u).switches = s.switches := rfl
@[simp] theorem State.report_outbox (s : State) (c : Nat) (r : FRec) (u : FUnit) : (s.report c r u).outbox = s.outbox := rfl
@[simp] theorem State.report_flits (s : State) (c : Nat) (r : FRec) (u : FUnit) : (s.report c r u).flits = s.flits := rfl
@[simp] theorem State.report_flitSeq (s : State) (c : Nat) (r : FRec) (u : FUnit) : (s.report c r u).flitSeq = s.flitSeq := rfl

@[simp] theorem State.loftGive_agenda (s : State) (c d n : Nat) : (s.loftGive c d n).agenda = s.agenda := rfl
@[simp] theorem State.loftGive_pace (s : State) (c d n : Nat) : (s.loftGive c d n).pace = s.pace := rfl
@[simp] theorem State.loftGive_lastVote (s : State) (c d n : Nat) : (s.loftGive c d n).lastVote = s.lastVote := rfl
@[simp] theorem State.loftGive_tags (s : State) (c d n : Nat) : (s.loftGive c d n).tags = s.tags := rfl
@[simp] theorem State.loftGive_names (s : State) (c d n : Nat) : (s.loftGive c d n).names = s.names := rfl
@[simp] theorem State.loftGive_putOff (s : State) (c d n : Nat) : (s.loftGive c d n).putOff = s.putOff := rfl
@[simp] theorem State.loftGive_issues (s : State) (c d n : Nat) : (s.loftGive c d n).issues = s.issues := rfl
@[simp] theorem State.loftGive_clk (s : State) (c d n : Nat) : (s.loftGive c d n).clk = s.clk := rfl
@[simp] theorem State.loftGive_mem (s : State) (c d n : Nat) : (s.loftGive c d n).mem = s.mem := rfl
@[simp] theorem State.loftGive_scr (s : State) (c d n : Nat) : (s.loftGive c d n).scr = s.scr := rfl
@[simp] theorem State.loftGive_poison (s : State) (c d n : Nat) : (s.loftGive c d n).poison = s.poison := rfl
@[simp] theorem State.loftGive_blocks (s : State) (c d n : Nat) : (s.loftGive c d n).blocks = s.blocks := rfl
@[simp] theorem State.loftGive_clusters (s : State) (c d n : Nat) : (s.loftGive c d n).clusters = s.clusters := rfl
@[simp] theorem State.loftGive_tlbs (s : State) (c d n : Nat) : (s.loftGive c d n).tlbs = s.tlbs := rfl
@[simp] theorem State.loftGive_mats (s : State) (c d n : Nat) : (s.loftGive c d n).mats = s.mats := rfl
@[simp] theorem State.loftGive_grans (s : State) (c d n : Nat) : (s.loftGive c d n).grans = s.grans := rfl
@[simp] theorem State.loftGive_dies (s : State) (c d n : Nat) : (s.loftGive c d n).dies = s.dies := rfl
@[simp] theorem State.loftGive_launches (s : State) (c d n : Nat) : (s.loftGive c d n).launches = s.launches := rfl
@[simp] theorem State.loftGive_lidNext (s : State) (c d n : Nat) : (s.loftGive c d n).lidNext = s.lidNext := rfl
@[simp] theorem State.loftGive_pairs (s : State) (c d n : Nat) : (s.loftGive c d n).pairs = s.pairs := rfl
@[simp] theorem State.loftGive_syncs (s : State) (c d n : Nat) : (s.loftGive c d n).syncs = s.syncs := rfl
@[simp] theorem State.loftGive_fns (s : State) (c d n : Nat) : (s.loftGive c d n).fns = s.fns := rfl
@[simp] theorem State.loftGive_irqs (s : State) (c d n : Nat) : (s.loftGive c d n).irqs = s.irqs := rfl
@[simp] theorem State.loftGive_banks (s : State) (c d n : Nat) : (s.loftGive c d n).banks = s.banks := rfl
@[simp] theorem State.loftGive_dev (s : State) (c d n : Nat) : (s.loftGive c d n).dev = s.dev := rfl
@[simp] theorem State.loftGive_fwds (s : State) (c d n : Nat) : (s.loftGive c d n).fwds = s.fwds := rfl
@[simp] theorem State.loftGive_switches (s : State) (c d n : Nat) : (s.loftGive c d n).switches = s.switches := rfl
@[simp] theorem State.loftGive_outbox (s : State) (c d n : Nat) : (s.loftGive c d n).outbox = s.outbox := rfl
@[simp] theorem State.loftGive_flits (s : State) (c d n : Nat) : (s.loftGive c d n).flits = s.flits := rfl
@[simp] theorem State.loftGive_flitSeq (s : State) (c d n : Nat) : (s.loftGive c d n).flitSeq = s.flitSeq := rfl

@[simp] theorem State.tlbFill_agenda (s : State) (c : Nat) (e : TlbE) : (s.tlbFill c e).agenda = s.agenda := rfl
@[simp] theorem State.tlbFill_pace (s : State) (c : Nat) (e : TlbE) : (s.tlbFill c e).pace = s.pace := rfl
@[simp] theorem State.tlbFill_lastVote (s : State) (c : Nat) (e : TlbE) : (s.tlbFill c e).lastVote = s.lastVote := rfl
@[simp] theorem State.tlbFill_tags (s : State) (c : Nat) (e : TlbE) : (s.tlbFill c e).tags = s.tags := rfl
@[simp] theorem State.tlbFill_names (s : State) (c : Nat) (e : TlbE) : (s.tlbFill c e).names = s.names := rfl
@[simp] theorem State.tlbFill_putOff (s : State) (c : Nat) (e : TlbE) : (s.tlbFill c e).putOff = s.putOff := rfl
@[simp] theorem State.tlbFill_issues (s : State) (c : Nat) (e : TlbE) : (s.tlbFill c e).issues = s.issues := rfl
@[simp] theorem State.tlbFill_clk (s : State) (c : Nat) (e : TlbE) : (s.tlbFill c e).clk = s.clk := rfl
@[simp] theorem State.tlbFill_mem (s : State) (c : Nat) (e : TlbE) : (s.tlbFill c e).mem = s.mem := rfl
@[simp] theorem State.tlbFill_scr (s : State) (c : Nat) (e : TlbE) : (s.tlbFill c e).scr = s.scr := rfl
@[simp] theorem State.tlbFill_poison (s : State) (c : Nat) (e : TlbE) : (s.tlbFill c e).poison = s.poison := rfl
@[simp] theorem State.tlbFill_blocks (s : State) (c : Nat) (e : TlbE) : (s.tlbFill c e).blocks = s.blocks := rfl
@[simp] theorem State.tlbFill_clusters (s : State) (c : Nat) (e : TlbE) : (s.tlbFill c e).clusters = s.clusters := rfl
@[simp] theorem State.tlbFill_mats (s : State) (c : Nat) (e : TlbE) : (s.tlbFill c e).mats = s.mats := rfl
@[simp] theorem State.tlbFill_grans (s : State) (c : Nat) (e : TlbE) : (s.tlbFill c e).grans = s.grans := rfl
@[simp] theorem State.tlbFill_dies (s : State) (c : Nat) (e : TlbE) : (s.tlbFill c e).dies = s.dies := rfl
@[simp] theorem State.tlbFill_ctxs (s : State) (c : Nat) (e : TlbE) : (s.tlbFill c e).ctxs = s.ctxs := rfl
@[simp] theorem State.tlbFill_launches (s : State) (c : Nat) (e : TlbE) : (s.tlbFill c e).launches = s.launches := rfl
@[simp] theorem State.tlbFill_lidNext (s : State) (c : Nat) (e : TlbE) : (s.tlbFill c e).lidNext = s.lidNext := rfl
@[simp] theorem State.tlbFill_pairs (s : State) (c : Nat) (e : TlbE) : (s.tlbFill c e).pairs = s.pairs := rfl
@[simp] theorem State.tlbFill_syncs (s : State) (c : Nat) (e : TlbE) : (s.tlbFill c e).syncs = s.syncs := rfl
@[simp] theorem State.tlbFill_fns (s : State) (c : Nat) (e : TlbE) : (s.tlbFill c e).fns = s.fns := rfl
@[simp] theorem State.tlbFill_irqs (s : State) (c : Nat) (e : TlbE) : (s.tlbFill c e).irqs = s.irqs := rfl
@[simp] theorem State.tlbFill_banks (s : State) (c : Nat) (e : TlbE) : (s.tlbFill c e).banks = s.banks := rfl
@[simp] theorem State.tlbFill_dev (s : State) (c : Nat) (e : TlbE) : (s.tlbFill c e).dev = s.dev := rfl
@[simp] theorem State.tlbFill_fwds (s : State) (c : Nat) (e : TlbE) : (s.tlbFill c e).fwds = s.fwds := rfl
@[simp] theorem State.tlbFill_switches (s : State) (c : Nat) (e : TlbE) : (s.tlbFill c e).switches = s.switches := rfl
@[simp] theorem State.tlbFill_outbox (s : State) (c : Nat) (e : TlbE) : (s.tlbFill c e).outbox = s.outbox := rfl
@[simp] theorem State.tlbFill_flits (s : State) (c : Nat) (e : TlbE) : (s.tlbFill c e).flits = s.flits := rfl
@[simp] theorem State.tlbFill_flitSeq (s : State) (c : Nat) (e : TlbE) : (s.tlbFill c e).flitSeq = s.flitSeq := rfl

@[simp] theorem State.memWrite_agenda (s : State) (kvs : List (Nat × Byte)) : (s.memWrite kvs).agenda = s.agenda := rfl
@[simp] theorem State.memWrite_pace (s : State) (kvs : List (Nat × Byte)) : (s.memWrite kvs).pace = s.pace := rfl
@[simp] theorem State.memWrite_lastVote (s : State) (kvs : List (Nat × Byte)) : (s.memWrite kvs).lastVote = s.lastVote := rfl
@[simp] theorem State.memWrite_tags (s : State) (kvs : List (Nat × Byte)) : (s.memWrite kvs).tags = s.tags := rfl
@[simp] theorem State.memWrite_names (s : State) (kvs : List (Nat × Byte)) : (s.memWrite kvs).names = s.names := rfl
@[simp] theorem State.memWrite_putOff (s : State) (kvs : List (Nat × Byte)) : (s.memWrite kvs).putOff = s.putOff := rfl
@[simp] theorem State.memWrite_issues (s : State) (kvs : List (Nat × Byte)) : (s.memWrite kvs).issues = s.issues := rfl
@[simp] theorem State.memWrite_clk (s : State) (kvs : List (Nat × Byte)) : (s.memWrite kvs).clk = s.clk := rfl
@[simp] theorem State.memWrite_scr (s : State) (kvs : List (Nat × Byte)) : (s.memWrite kvs).scr = s.scr := rfl
@[simp] theorem State.memWrite_blocks (s : State) (kvs : List (Nat × Byte)) : (s.memWrite kvs).blocks = s.blocks := rfl
@[simp] theorem State.memWrite_clusters (s : State) (kvs : List (Nat × Byte)) : (s.memWrite kvs).clusters = s.clusters := rfl
@[simp] theorem State.memWrite_tlbs (s : State) (kvs : List (Nat × Byte)) : (s.memWrite kvs).tlbs = s.tlbs := rfl
@[simp] theorem State.memWrite_mats (s : State) (kvs : List (Nat × Byte)) : (s.memWrite kvs).mats = s.mats := rfl
@[simp] theorem State.memWrite_grans (s : State) (kvs : List (Nat × Byte)) : (s.memWrite kvs).grans = s.grans := rfl
@[simp] theorem State.memWrite_dies (s : State) (kvs : List (Nat × Byte)) : (s.memWrite kvs).dies = s.dies := rfl
@[simp] theorem State.memWrite_ctxs (s : State) (kvs : List (Nat × Byte)) : (s.memWrite kvs).ctxs = s.ctxs := rfl
@[simp] theorem State.memWrite_launches (s : State) (kvs : List (Nat × Byte)) : (s.memWrite kvs).launches = s.launches := rfl
@[simp] theorem State.memWrite_lidNext (s : State) (kvs : List (Nat × Byte)) : (s.memWrite kvs).lidNext = s.lidNext := rfl
@[simp] theorem State.memWrite_pairs (s : State) (kvs : List (Nat × Byte)) : (s.memWrite kvs).pairs = s.pairs := rfl
@[simp] theorem State.memWrite_syncs (s : State) (kvs : List (Nat × Byte)) : (s.memWrite kvs).syncs = s.syncs := rfl
@[simp] theorem State.memWrite_fns (s : State) (kvs : List (Nat × Byte)) : (s.memWrite kvs).fns = s.fns := rfl
@[simp] theorem State.memWrite_irqs (s : State) (kvs : List (Nat × Byte)) : (s.memWrite kvs).irqs = s.irqs := rfl
@[simp] theorem State.memWrite_banks (s : State) (kvs : List (Nat × Byte)) : (s.memWrite kvs).banks = s.banks := rfl
@[simp] theorem State.memWrite_dev (s : State) (kvs : List (Nat × Byte)) : (s.memWrite kvs).dev = s.dev := rfl
@[simp] theorem State.memWrite_fwds (s : State) (kvs : List (Nat × Byte)) : (s.memWrite kvs).fwds = s.fwds := rfl
@[simp] theorem State.memWrite_switches (s : State) (kvs : List (Nat × Byte)) : (s.memWrite kvs).switches = s.switches := rfl
@[simp] theorem State.memWrite_outbox (s : State) (kvs : List (Nat × Byte)) : (s.memWrite kvs).outbox = s.outbox := rfl
@[simp] theorem State.memWrite_flits (s : State) (kvs : List (Nat × Byte)) : (s.memWrite kvs).flits = s.flits := rfl
@[simp] theorem State.memWrite_flitSeq (s : State) (kvs : List (Nat × Byte)) : (s.memWrite kvs).flitSeq = s.flitSeq := rfl

@[simp] theorem State.scrWrite_agenda (s : State) (kvs : List (Nat × Byte)) : (s.scrWrite kvs).agenda = s.agenda := rfl
@[simp] theorem State.scrWrite_pace (s : State) (kvs : List (Nat × Byte)) : (s.scrWrite kvs).pace = s.pace := rfl
@[simp] theorem State.scrWrite_lastVote (s : State) (kvs : List (Nat × Byte)) : (s.scrWrite kvs).lastVote = s.lastVote := rfl
@[simp] theorem State.scrWrite_tags (s : State) (kvs : List (Nat × Byte)) : (s.scrWrite kvs).tags = s.tags := rfl
@[simp] theorem State.scrWrite_names (s : State) (kvs : List (Nat × Byte)) : (s.scrWrite kvs).names = s.names := rfl
@[simp] theorem State.scrWrite_putOff (s : State) (kvs : List (Nat × Byte)) : (s.scrWrite kvs).putOff = s.putOff := rfl
@[simp] theorem State.scrWrite_issues (s : State) (kvs : List (Nat × Byte)) : (s.scrWrite kvs).issues = s.issues := rfl
@[simp] theorem State.scrWrite_clk (s : State) (kvs : List (Nat × Byte)) : (s.scrWrite kvs).clk = s.clk := rfl
@[simp] theorem State.scrWrite_mem (s : State) (kvs : List (Nat × Byte)) : (s.scrWrite kvs).mem = s.mem := rfl
@[simp] theorem State.scrWrite_blocks (s : State) (kvs : List (Nat × Byte)) : (s.scrWrite kvs).blocks = s.blocks := rfl
@[simp] theorem State.scrWrite_clusters (s : State) (kvs : List (Nat × Byte)) : (s.scrWrite kvs).clusters = s.clusters := rfl
@[simp] theorem State.scrWrite_tlbs (s : State) (kvs : List (Nat × Byte)) : (s.scrWrite kvs).tlbs = s.tlbs := rfl
@[simp] theorem State.scrWrite_mats (s : State) (kvs : List (Nat × Byte)) : (s.scrWrite kvs).mats = s.mats := rfl
@[simp] theorem State.scrWrite_grans (s : State) (kvs : List (Nat × Byte)) : (s.scrWrite kvs).grans = s.grans := rfl
@[simp] theorem State.scrWrite_dies (s : State) (kvs : List (Nat × Byte)) : (s.scrWrite kvs).dies = s.dies := rfl
@[simp] theorem State.scrWrite_ctxs (s : State) (kvs : List (Nat × Byte)) : (s.scrWrite kvs).ctxs = s.ctxs := rfl
@[simp] theorem State.scrWrite_launches (s : State) (kvs : List (Nat × Byte)) : (s.scrWrite kvs).launches = s.launches := rfl
@[simp] theorem State.scrWrite_lidNext (s : State) (kvs : List (Nat × Byte)) : (s.scrWrite kvs).lidNext = s.lidNext := rfl
@[simp] theorem State.scrWrite_pairs (s : State) (kvs : List (Nat × Byte)) : (s.scrWrite kvs).pairs = s.pairs := rfl
@[simp] theorem State.scrWrite_syncs (s : State) (kvs : List (Nat × Byte)) : (s.scrWrite kvs).syncs = s.syncs := rfl
@[simp] theorem State.scrWrite_fns (s : State) (kvs : List (Nat × Byte)) : (s.scrWrite kvs).fns = s.fns := rfl
@[simp] theorem State.scrWrite_irqs (s : State) (kvs : List (Nat × Byte)) : (s.scrWrite kvs).irqs = s.irqs := rfl
@[simp] theorem State.scrWrite_banks (s : State) (kvs : List (Nat × Byte)) : (s.scrWrite kvs).banks = s.banks := rfl
@[simp] theorem State.scrWrite_dev (s : State) (kvs : List (Nat × Byte)) : (s.scrWrite kvs).dev = s.dev := rfl
@[simp] theorem State.scrWrite_fwds (s : State) (kvs : List (Nat × Byte)) : (s.scrWrite kvs).fwds = s.fwds := rfl
@[simp] theorem State.scrWrite_switches (s : State) (kvs : List (Nat × Byte)) : (s.scrWrite kvs).switches = s.switches := rfl
@[simp] theorem State.scrWrite_outbox (s : State) (kvs : List (Nat × Byte)) : (s.scrWrite kvs).outbox = s.outbox := rfl
@[simp] theorem State.scrWrite_flits (s : State) (kvs : List (Nat × Byte)) : (s.scrWrite kvs).flits = s.flits := rfl
@[simp] theorem State.scrWrite_flitSeq (s : State) (kvs : List (Nat × Byte)) : (s.scrWrite kvs).flitSeq = s.flitSeq := rfl

@[simp] theorem State.setSync_agenda (s : State) (o : Nat) (h w : List (Nat × Bool)) : (s.setSync o h w).agenda = s.agenda := rfl
@[simp] theorem State.setSync_pace (s : State) (o : Nat) (h w : List (Nat × Bool)) : (s.setSync o h w).pace = s.pace := rfl
@[simp] theorem State.setSync_lastVote (s : State) (o : Nat) (h w : List (Nat × Bool)) : (s.setSync o h w).lastVote = s.lastVote := rfl
@[simp] theorem State.setSync_tags (s : State) (o : Nat) (h w : List (Nat × Bool)) : (s.setSync o h w).tags = s.tags := rfl
@[simp] theorem State.setSync_names (s : State) (o : Nat) (h w : List (Nat × Bool)) : (s.setSync o h w).names = s.names := rfl
@[simp] theorem State.setSync_putOff (s : State) (o : Nat) (h w : List (Nat × Bool)) : (s.setSync o h w).putOff = s.putOff := rfl
@[simp] theorem State.setSync_issues (s : State) (o : Nat) (h w : List (Nat × Bool)) : (s.setSync o h w).issues = s.issues := rfl
@[simp] theorem State.setSync_clk (s : State) (o : Nat) (h w : List (Nat × Bool)) : (s.setSync o h w).clk = s.clk := rfl
@[simp] theorem State.setSync_mem (s : State) (o : Nat) (h w : List (Nat × Bool)) : (s.setSync o h w).mem = s.mem := rfl
@[simp] theorem State.setSync_scr (s : State) (o : Nat) (h w : List (Nat × Bool)) : (s.setSync o h w).scr = s.scr := rfl
@[simp] theorem State.setSync_poison (s : State) (o : Nat) (h w : List (Nat × Bool)) : (s.setSync o h w).poison = s.poison := rfl
@[simp] theorem State.setSync_blocks (s : State) (o : Nat) (h w : List (Nat × Bool)) : (s.setSync o h w).blocks = s.blocks := rfl
@[simp] theorem State.setSync_clusters (s : State) (o : Nat) (h w : List (Nat × Bool)) : (s.setSync o h w).clusters = s.clusters := rfl
@[simp] theorem State.setSync_tlbs (s : State) (o : Nat) (h w : List (Nat × Bool)) : (s.setSync o h w).tlbs = s.tlbs := rfl
@[simp] theorem State.setSync_mats (s : State) (o : Nat) (h w : List (Nat × Bool)) : (s.setSync o h w).mats = s.mats := rfl
@[simp] theorem State.setSync_grans (s : State) (o : Nat) (h w : List (Nat × Bool)) : (s.setSync o h w).grans = s.grans := rfl
@[simp] theorem State.setSync_dies (s : State) (o : Nat) (h w : List (Nat × Bool)) : (s.setSync o h w).dies = s.dies := rfl
@[simp] theorem State.setSync_ctxs (s : State) (o : Nat) (h w : List (Nat × Bool)) : (s.setSync o h w).ctxs = s.ctxs := rfl
@[simp] theorem State.setSync_launches (s : State) (o : Nat) (h w : List (Nat × Bool)) : (s.setSync o h w).launches = s.launches := rfl
@[simp] theorem State.setSync_lidNext (s : State) (o : Nat) (h w : List (Nat × Bool)) : (s.setSync o h w).lidNext = s.lidNext := rfl
@[simp] theorem State.setSync_pairs (s : State) (o : Nat) (h w : List (Nat × Bool)) : (s.setSync o h w).pairs = s.pairs := rfl
@[simp] theorem State.setSync_fns (s : State) (o : Nat) (h w : List (Nat × Bool)) : (s.setSync o h w).fns = s.fns := rfl
@[simp] theorem State.setSync_irqs (s : State) (o : Nat) (h w : List (Nat × Bool)) : (s.setSync o h w).irqs = s.irqs := rfl
@[simp] theorem State.setSync_banks (s : State) (o : Nat) (h w : List (Nat × Bool)) : (s.setSync o h w).banks = s.banks := rfl
@[simp] theorem State.setSync_dev (s : State) (o : Nat) (h w : List (Nat × Bool)) : (s.setSync o h w).dev = s.dev := rfl
@[simp] theorem State.setSync_fwds (s : State) (o : Nat) (h w : List (Nat × Bool)) : (s.setSync o h w).fwds = s.fwds := rfl
@[simp] theorem State.setSync_switches (s : State) (o : Nat) (h w : List (Nat × Bool)) : (s.setSync o h w).switches = s.switches := rfl
@[simp] theorem State.setSync_outbox (s : State) (o : Nat) (h w : List (Nat × Bool)) : (s.setSync o h w).outbox = s.outbox := rfl
@[simp] theorem State.setSync_flits (s : State) (o : Nat) (h w : List (Nat × Bool)) : (s.setSync o h w).flits = s.flits := rfl
@[simp] theorem State.setSync_flitSeq (s : State) (o : Nat) (h w : List (Nat × Bool)) : (s.setSync o h w).flitSeq = s.flitSeq := rfl

@[simp] theorem State.updLaunch_agenda (s : State) (l : Nat) (f : Launch → Launch) : (s.updLaunch l f).agenda = s.agenda := rfl
@[simp] theorem State.updLaunch_pace (s : State) (l : Nat) (f : Launch → Launch) : (s.updLaunch l f).pace = s.pace := rfl
@[simp] theorem State.updLaunch_lastVote (s : State) (l : Nat) (f : Launch → Launch) : (s.updLaunch l f).lastVote = s.lastVote := rfl
@[simp] theorem State.updLaunch_tags (s : State) (l : Nat) (f : Launch → Launch) : (s.updLaunch l f).tags = s.tags := rfl
@[simp] theorem State.updLaunch_names (s : State) (l : Nat) (f : Launch → Launch) : (s.updLaunch l f).names = s.names := rfl
@[simp] theorem State.updLaunch_putOff (s : State) (l : Nat) (f : Launch → Launch) : (s.updLaunch l f).putOff = s.putOff := rfl
@[simp] theorem State.updLaunch_issues (s : State) (l : Nat) (f : Launch → Launch) : (s.updLaunch l f).issues = s.issues := rfl
@[simp] theorem State.updLaunch_clk (s : State) (l : Nat) (f : Launch → Launch) : (s.updLaunch l f).clk = s.clk := rfl
@[simp] theorem State.updLaunch_mem (s : State) (l : Nat) (f : Launch → Launch) : (s.updLaunch l f).mem = s.mem := rfl
@[simp] theorem State.updLaunch_scr (s : State) (l : Nat) (f : Launch → Launch) : (s.updLaunch l f).scr = s.scr := rfl
@[simp] theorem State.updLaunch_poison (s : State) (l : Nat) (f : Launch → Launch) : (s.updLaunch l f).poison = s.poison := rfl
@[simp] theorem State.updLaunch_blocks (s : State) (l : Nat) (f : Launch → Launch) : (s.updLaunch l f).blocks = s.blocks := rfl
@[simp] theorem State.updLaunch_clusters (s : State) (l : Nat) (f : Launch → Launch) : (s.updLaunch l f).clusters = s.clusters := rfl
@[simp] theorem State.updLaunch_tlbs (s : State) (l : Nat) (f : Launch → Launch) : (s.updLaunch l f).tlbs = s.tlbs := rfl
@[simp] theorem State.updLaunch_mats (s : State) (l : Nat) (f : Launch → Launch) : (s.updLaunch l f).mats = s.mats := rfl
@[simp] theorem State.updLaunch_grans (s : State) (l : Nat) (f : Launch → Launch) : (s.updLaunch l f).grans = s.grans := rfl
@[simp] theorem State.updLaunch_dies (s : State) (l : Nat) (f : Launch → Launch) : (s.updLaunch l f).dies = s.dies := rfl
@[simp] theorem State.updLaunch_ctxs (s : State) (l : Nat) (f : Launch → Launch) : (s.updLaunch l f).ctxs = s.ctxs := rfl
@[simp] theorem State.updLaunch_lidNext (s : State) (l : Nat) (f : Launch → Launch) : (s.updLaunch l f).lidNext = s.lidNext := rfl
@[simp] theorem State.updLaunch_pairs (s : State) (l : Nat) (f : Launch → Launch) : (s.updLaunch l f).pairs = s.pairs := rfl
@[simp] theorem State.updLaunch_syncs (s : State) (l : Nat) (f : Launch → Launch) : (s.updLaunch l f).syncs = s.syncs := rfl
@[simp] theorem State.updLaunch_fns (s : State) (l : Nat) (f : Launch → Launch) : (s.updLaunch l f).fns = s.fns := rfl
@[simp] theorem State.updLaunch_irqs (s : State) (l : Nat) (f : Launch → Launch) : (s.updLaunch l f).irqs = s.irqs := rfl
@[simp] theorem State.updLaunch_banks (s : State) (l : Nat) (f : Launch → Launch) : (s.updLaunch l f).banks = s.banks := rfl
@[simp] theorem State.updLaunch_dev (s : State) (l : Nat) (f : Launch → Launch) : (s.updLaunch l f).dev = s.dev := rfl
@[simp] theorem State.updLaunch_fwds (s : State) (l : Nat) (f : Launch → Launch) : (s.updLaunch l f).fwds = s.fwds := rfl
@[simp] theorem State.updLaunch_switches (s : State) (l : Nat) (f : Launch → Launch) : (s.updLaunch l f).switches = s.switches := rfl
@[simp] theorem State.updLaunch_outbox (s : State) (l : Nat) (f : Launch → Launch) : (s.updLaunch l f).outbox = s.outbox := rfl
@[simp] theorem State.updLaunch_flits (s : State) (l : Nat) (f : Launch → Launch) : (s.updLaunch l f).flits = s.flits := rfl
@[simp] theorem State.updLaunch_flitSeq (s : State) (l : Nat) (f : Launch → Launch) : (s.updLaunch l f).flitSeq = s.flitSeq := rfl

@[simp] theorem State.launchDown_agenda (s : State) (l : Nat) : (s.launchDown l).agenda = s.agenda := rfl
@[simp] theorem State.launchDown_pace (s : State) (l : Nat) : (s.launchDown l).pace = s.pace := rfl
@[simp] theorem State.launchDown_lastVote (s : State) (l : Nat) : (s.launchDown l).lastVote = s.lastVote := rfl
@[simp] theorem State.launchDown_tags (s : State) (l : Nat) : (s.launchDown l).tags = s.tags := rfl
@[simp] theorem State.launchDown_names (s : State) (l : Nat) : (s.launchDown l).names = s.names := rfl
@[simp] theorem State.launchDown_putOff (s : State) (l : Nat) : (s.launchDown l).putOff = s.putOff := rfl
@[simp] theorem State.launchDown_issues (s : State) (l : Nat) : (s.launchDown l).issues = s.issues := rfl
@[simp] theorem State.launchDown_clk (s : State) (l : Nat) : (s.launchDown l).clk = s.clk := rfl
@[simp] theorem State.launchDown_mem (s : State) (l : Nat) : (s.launchDown l).mem = s.mem := rfl
@[simp] theorem State.launchDown_scr (s : State) (l : Nat) : (s.launchDown l).scr = s.scr := rfl
@[simp] theorem State.launchDown_poison (s : State) (l : Nat) : (s.launchDown l).poison = s.poison := rfl
@[simp] theorem State.launchDown_blocks (s : State) (l : Nat) : (s.launchDown l).blocks = s.blocks := rfl
@[simp] theorem State.launchDown_clusters (s : State) (l : Nat) : (s.launchDown l).clusters = s.clusters := rfl
@[simp] theorem State.launchDown_tlbs (s : State) (l : Nat) : (s.launchDown l).tlbs = s.tlbs := rfl
@[simp] theorem State.launchDown_mats (s : State) (l : Nat) : (s.launchDown l).mats = s.mats := rfl
@[simp] theorem State.launchDown_grans (s : State) (l : Nat) : (s.launchDown l).grans = s.grans := rfl
@[simp] theorem State.launchDown_dies (s : State) (l : Nat) : (s.launchDown l).dies = s.dies := rfl
@[simp] theorem State.launchDown_ctxs (s : State) (l : Nat) : (s.launchDown l).ctxs = s.ctxs := rfl
@[simp] theorem State.launchDown_lidNext (s : State) (l : Nat) : (s.launchDown l).lidNext = s.lidNext := rfl
@[simp] theorem State.launchDown_pairs (s : State) (l : Nat) : (s.launchDown l).pairs = s.pairs := rfl
@[simp] theorem State.launchDown_syncs (s : State) (l : Nat) : (s.launchDown l).syncs = s.syncs := rfl
@[simp] theorem State.launchDown_fns (s : State) (l : Nat) : (s.launchDown l).fns = s.fns := rfl
@[simp] theorem State.launchDown_irqs (s : State) (l : Nat) : (s.launchDown l).irqs = s.irqs := rfl
@[simp] theorem State.launchDown_banks (s : State) (l : Nat) : (s.launchDown l).banks = s.banks := rfl
@[simp] theorem State.launchDown_dev (s : State) (l : Nat) : (s.launchDown l).dev = s.dev := rfl
@[simp] theorem State.launchDown_fwds (s : State) (l : Nat) : (s.launchDown l).fwds = s.fwds := rfl
@[simp] theorem State.launchDown_switches (s : State) (l : Nat) : (s.launchDown l).switches = s.switches := rfl
@[simp] theorem State.launchDown_outbox (s : State) (l : Nat) : (s.launchDown l).outbox = s.outbox := rfl
@[simp] theorem State.launchDown_flits (s : State) (l : Nat) : (s.launchDown l).flits = s.flits := rfl
@[simp] theorem State.launchDown_flitSeq (s : State) (l : Nat) : (s.launchDown l).flitSeq = s.flitSeq := rfl

@[simp] theorem State.updPair_agenda (s : State) (l : Nat) (f : PairLaunch → PairLaunch) : (s.updPair l f).agenda = s.agenda := rfl
@[simp] theorem State.updPair_pace (s : State) (l : Nat) (f : PairLaunch → PairLaunch) : (s.updPair l f).pace = s.pace := rfl
@[simp] theorem State.updPair_lastVote (s : State) (l : Nat) (f : PairLaunch → PairLaunch) : (s.updPair l f).lastVote = s.lastVote := rfl
@[simp] theorem State.updPair_tags (s : State) (l : Nat) (f : PairLaunch → PairLaunch) : (s.updPair l f).tags = s.tags := rfl
@[simp] theorem State.updPair_names (s : State) (l : Nat) (f : PairLaunch → PairLaunch) : (s.updPair l f).names = s.names := rfl
@[simp] theorem State.updPair_putOff (s : State) (l : Nat) (f : PairLaunch → PairLaunch) : (s.updPair l f).putOff = s.putOff := rfl
@[simp] theorem State.updPair_issues (s : State) (l : Nat) (f : PairLaunch → PairLaunch) : (s.updPair l f).issues = s.issues := rfl
@[simp] theorem State.updPair_clk (s : State) (l : Nat) (f : PairLaunch → PairLaunch) : (s.updPair l f).clk = s.clk := rfl
@[simp] theorem State.updPair_mem (s : State) (l : Nat) (f : PairLaunch → PairLaunch) : (s.updPair l f).mem = s.mem := rfl
@[simp] theorem State.updPair_scr (s : State) (l : Nat) (f : PairLaunch → PairLaunch) : (s.updPair l f).scr = s.scr := rfl
@[simp] theorem State.updPair_poison (s : State) (l : Nat) (f : PairLaunch → PairLaunch) : (s.updPair l f).poison = s.poison := rfl
@[simp] theorem State.updPair_blocks (s : State) (l : Nat) (f : PairLaunch → PairLaunch) : (s.updPair l f).blocks = s.blocks := rfl
@[simp] theorem State.updPair_clusters (s : State) (l : Nat) (f : PairLaunch → PairLaunch) : (s.updPair l f).clusters = s.clusters := rfl
@[simp] theorem State.updPair_tlbs (s : State) (l : Nat) (f : PairLaunch → PairLaunch) : (s.updPair l f).tlbs = s.tlbs := rfl
@[simp] theorem State.updPair_mats (s : State) (l : Nat) (f : PairLaunch → PairLaunch) : (s.updPair l f).mats = s.mats := rfl
@[simp] theorem State.updPair_grans (s : State) (l : Nat) (f : PairLaunch → PairLaunch) : (s.updPair l f).grans = s.grans := rfl
@[simp] theorem State.updPair_dies (s : State) (l : Nat) (f : PairLaunch → PairLaunch) : (s.updPair l f).dies = s.dies := rfl
@[simp] theorem State.updPair_ctxs (s : State) (l : Nat) (f : PairLaunch → PairLaunch) : (s.updPair l f).ctxs = s.ctxs := rfl
@[simp] theorem State.updPair_launches (s : State) (l : Nat) (f : PairLaunch → PairLaunch) : (s.updPair l f).launches = s.launches := rfl
@[simp] theorem State.updPair_lidNext (s : State) (l : Nat) (f : PairLaunch → PairLaunch) : (s.updPair l f).lidNext = s.lidNext := rfl
@[simp] theorem State.updPair_syncs (s : State) (l : Nat) (f : PairLaunch → PairLaunch) : (s.updPair l f).syncs = s.syncs := rfl
@[simp] theorem State.updPair_fns (s : State) (l : Nat) (f : PairLaunch → PairLaunch) : (s.updPair l f).fns = s.fns := rfl
@[simp] theorem State.updPair_irqs (s : State) (l : Nat) (f : PairLaunch → PairLaunch) : (s.updPair l f).irqs = s.irqs := rfl
@[simp] theorem State.updPair_banks (s : State) (l : Nat) (f : PairLaunch → PairLaunch) : (s.updPair l f).banks = s.banks := rfl
@[simp] theorem State.updPair_dev (s : State) (l : Nat) (f : PairLaunch → PairLaunch) : (s.updPair l f).dev = s.dev := rfl
@[simp] theorem State.updPair_fwds (s : State) (l : Nat) (f : PairLaunch → PairLaunch) : (s.updPair l f).fwds = s.fwds := rfl
@[simp] theorem State.updPair_switches (s : State) (l : Nat) (f : PairLaunch → PairLaunch) : (s.updPair l f).switches = s.switches := rfl
@[simp] theorem State.updPair_outbox (s : State) (l : Nat) (f : PairLaunch → PairLaunch) : (s.updPair l f).outbox = s.outbox := rfl
@[simp] theorem State.updPair_flits (s : State) (l : Nat) (f : PairLaunch → PairLaunch) : (s.updPair l f).flits = s.flits := rfl
@[simp] theorem State.updPair_flitSeq (s : State) (l : Nat) (f : PairLaunch → PairLaunch) : (s.updPair l f).flitSeq = s.flitSeq := rfl

@[simp] theorem State.updMat_agenda (s : State) (c : Nat) (f : MatUnit → MatUnit) : (s.updMat c f).agenda = s.agenda := rfl
@[simp] theorem State.updMat_pace (s : State) (c : Nat) (f : MatUnit → MatUnit) : (s.updMat c f).pace = s.pace := rfl
@[simp] theorem State.updMat_lastVote (s : State) (c : Nat) (f : MatUnit → MatUnit) : (s.updMat c f).lastVote = s.lastVote := rfl
@[simp] theorem State.updMat_tags (s : State) (c : Nat) (f : MatUnit → MatUnit) : (s.updMat c f).tags = s.tags := rfl
@[simp] theorem State.updMat_names (s : State) (c : Nat) (f : MatUnit → MatUnit) : (s.updMat c f).names = s.names := rfl
@[simp] theorem State.updMat_putOff (s : State) (c : Nat) (f : MatUnit → MatUnit) : (s.updMat c f).putOff = s.putOff := rfl
@[simp] theorem State.updMat_issues (s : State) (c : Nat) (f : MatUnit → MatUnit) : (s.updMat c f).issues = s.issues := rfl
@[simp] theorem State.updMat_clk (s : State) (c : Nat) (f : MatUnit → MatUnit) : (s.updMat c f).clk = s.clk := rfl
@[simp] theorem State.updMat_mem (s : State) (c : Nat) (f : MatUnit → MatUnit) : (s.updMat c f).mem = s.mem := rfl
@[simp] theorem State.updMat_scr (s : State) (c : Nat) (f : MatUnit → MatUnit) : (s.updMat c f).scr = s.scr := rfl
@[simp] theorem State.updMat_poison (s : State) (c : Nat) (f : MatUnit → MatUnit) : (s.updMat c f).poison = s.poison := rfl
@[simp] theorem State.updMat_blocks (s : State) (c : Nat) (f : MatUnit → MatUnit) : (s.updMat c f).blocks = s.blocks := rfl
@[simp] theorem State.updMat_clusters (s : State) (c : Nat) (f : MatUnit → MatUnit) : (s.updMat c f).clusters = s.clusters := rfl
@[simp] theorem State.updMat_tlbs (s : State) (c : Nat) (f : MatUnit → MatUnit) : (s.updMat c f).tlbs = s.tlbs := rfl
@[simp] theorem State.updMat_grans (s : State) (c : Nat) (f : MatUnit → MatUnit) : (s.updMat c f).grans = s.grans := rfl
@[simp] theorem State.updMat_dies (s : State) (c : Nat) (f : MatUnit → MatUnit) : (s.updMat c f).dies = s.dies := rfl
@[simp] theorem State.updMat_ctxs (s : State) (c : Nat) (f : MatUnit → MatUnit) : (s.updMat c f).ctxs = s.ctxs := rfl
@[simp] theorem State.updMat_launches (s : State) (c : Nat) (f : MatUnit → MatUnit) : (s.updMat c f).launches = s.launches := rfl
@[simp] theorem State.updMat_lidNext (s : State) (c : Nat) (f : MatUnit → MatUnit) : (s.updMat c f).lidNext = s.lidNext := rfl
@[simp] theorem State.updMat_pairs (s : State) (c : Nat) (f : MatUnit → MatUnit) : (s.updMat c f).pairs = s.pairs := rfl
@[simp] theorem State.updMat_syncs (s : State) (c : Nat) (f : MatUnit → MatUnit) : (s.updMat c f).syncs = s.syncs := rfl
@[simp] theorem State.updMat_fns (s : State) (c : Nat) (f : MatUnit → MatUnit) : (s.updMat c f).fns = s.fns := rfl
@[simp] theorem State.updMat_irqs (s : State) (c : Nat) (f : MatUnit → MatUnit) : (s.updMat c f).irqs = s.irqs := rfl
@[simp] theorem State.updMat_banks (s : State) (c : Nat) (f : MatUnit → MatUnit) : (s.updMat c f).banks = s.banks := rfl
@[simp] theorem State.updMat_dev (s : State) (c : Nat) (f : MatUnit → MatUnit) : (s.updMat c f).dev = s.dev := rfl
@[simp] theorem State.updMat_fwds (s : State) (c : Nat) (f : MatUnit → MatUnit) : (s.updMat c f).fwds = s.fwds := rfl
@[simp] theorem State.updMat_switches (s : State) (c : Nat) (f : MatUnit → MatUnit) : (s.updMat c f).switches = s.switches := rfl
@[simp] theorem State.updMat_outbox (s : State) (c : Nat) (f : MatUnit → MatUnit) : (s.updMat c f).outbox = s.outbox := rfl
@[simp] theorem State.updMat_flits (s : State) (c : Nat) (f : MatUnit → MatUnit) : (s.updMat c f).flits = s.flits := rfl
@[simp] theorem State.updMat_flitSeq (s : State) (c : Nat) (f : MatUnit → MatUnit) : (s.updMat c f).flitSeq = s.flitSeq := rfl

@[simp] theorem State.updGran_agenda (s : State) (u : Nat) (f : GranUnit → GranUnit) : (s.updGran u f).agenda = s.agenda := rfl
@[simp] theorem State.updGran_pace (s : State) (u : Nat) (f : GranUnit → GranUnit) : (s.updGran u f).pace = s.pace := rfl
@[simp] theorem State.updGran_lastVote (s : State) (u : Nat) (f : GranUnit → GranUnit) : (s.updGran u f).lastVote = s.lastVote := rfl
@[simp] theorem State.updGran_tags (s : State) (u : Nat) (f : GranUnit → GranUnit) : (s.updGran u f).tags = s.tags := rfl
@[simp] theorem State.updGran_names (s : State) (u : Nat) (f : GranUnit → GranUnit) : (s.updGran u f).names = s.names := rfl
@[simp] theorem State.updGran_putOff (s : State) (u : Nat) (f : GranUnit → GranUnit) : (s.updGran u f).putOff = s.putOff := rfl
@[simp] theorem State.updGran_issues (s : State) (u : Nat) (f : GranUnit → GranUnit) : (s.updGran u f).issues = s.issues := rfl
@[simp] theorem State.updGran_clk (s : State) (u : Nat) (f : GranUnit → GranUnit) : (s.updGran u f).clk = s.clk := rfl
@[simp] theorem State.updGran_mem (s : State) (u : Nat) (f : GranUnit → GranUnit) : (s.updGran u f).mem = s.mem := rfl
@[simp] theorem State.updGran_scr (s : State) (u : Nat) (f : GranUnit → GranUnit) : (s.updGran u f).scr = s.scr := rfl
@[simp] theorem State.updGran_poison (s : State) (u : Nat) (f : GranUnit → GranUnit) : (s.updGran u f).poison = s.poison := rfl
@[simp] theorem State.updGran_blocks (s : State) (u : Nat) (f : GranUnit → GranUnit) : (s.updGran u f).blocks = s.blocks := rfl
@[simp] theorem State.updGran_clusters (s : State) (u : Nat) (f : GranUnit → GranUnit) : (s.updGran u f).clusters = s.clusters := rfl
@[simp] theorem State.updGran_tlbs (s : State) (u : Nat) (f : GranUnit → GranUnit) : (s.updGran u f).tlbs = s.tlbs := rfl
@[simp] theorem State.updGran_mats (s : State) (u : Nat) (f : GranUnit → GranUnit) : (s.updGran u f).mats = s.mats := rfl
@[simp] theorem State.updGran_dies (s : State) (u : Nat) (f : GranUnit → GranUnit) : (s.updGran u f).dies = s.dies := rfl
@[simp] theorem State.updGran_ctxs (s : State) (u : Nat) (f : GranUnit → GranUnit) : (s.updGran u f).ctxs = s.ctxs := rfl
@[simp] theorem State.updGran_launches (s : State) (u : Nat) (f : GranUnit → GranUnit) : (s.updGran u f).launches = s.launches := rfl
@[simp] theorem State.updGran_lidNext (s : State) (u : Nat) (f : GranUnit → GranUnit) : (s.updGran u f).lidNext = s.lidNext := rfl
@[simp] theorem State.updGran_pairs (s : State) (u : Nat) (f : GranUnit → GranUnit) : (s.updGran u f).pairs = s.pairs := rfl
@[simp] theorem State.updGran_syncs (s : State) (u : Nat) (f : GranUnit → GranUnit) : (s.updGran u f).syncs = s.syncs := rfl
@[simp] theorem State.updGran_fns (s : State) (u : Nat) (f : GranUnit → GranUnit) : (s.updGran u f).fns = s.fns := rfl
@[simp] theorem State.updGran_irqs (s : State) (u : Nat) (f : GranUnit → GranUnit) : (s.updGran u f).irqs = s.irqs := rfl
@[simp] theorem State.updGran_banks (s : State) (u : Nat) (f : GranUnit → GranUnit) : (s.updGran u f).banks = s.banks := rfl
@[simp] theorem State.updGran_dev (s : State) (u : Nat) (f : GranUnit → GranUnit) : (s.updGran u f).dev = s.dev := rfl
@[simp] theorem State.updGran_fwds (s : State) (u : Nat) (f : GranUnit → GranUnit) : (s.updGran u f).fwds = s.fwds := rfl
@[simp] theorem State.updGran_switches (s : State) (u : Nat) (f : GranUnit → GranUnit) : (s.updGran u f).switches = s.switches := rfl
@[simp] theorem State.updGran_outbox (s : State) (u : Nat) (f : GranUnit → GranUnit) : (s.updGran u f).outbox = s.outbox := rfl
@[simp] theorem State.updGran_flits (s : State) (u : Nat) (f : GranUnit → GranUnit) : (s.updGran u f).flits = s.flits := rfl
@[simp] theorem State.updGran_flitSeq (s : State) (u : Nat) (f : GranUnit → GranUnit) : (s.updGran u f).flitSeq = s.flitSeq := rfl

@[simp] theorem State.updDie_agenda (s : State) (d : Nat) (f : Die → Die) : (s.updDie d f).agenda = s.agenda := rfl
@[simp] theorem State.updDie_pace (s : State) (d : Nat) (f : Die → Die) : (s.updDie d f).pace = s.pace := rfl
@[simp] theorem State.updDie_lastVote (s : State) (d : Nat) (f : Die → Die) : (s.updDie d f).lastVote = s.lastVote := rfl
@[simp] theorem State.updDie_tags (s : State) (d : Nat) (f : Die → Die) : (s.updDie d f).tags = s.tags := rfl
@[simp] theorem State.updDie_names (s : State) (d : Nat) (f : Die → Die) : (s.updDie d f).names = s.names := rfl
@[simp] theorem State.updDie_putOff (s : State) (d : Nat) (f : Die → Die) : (s.updDie d f).putOff = s.putOff := rfl
@[simp] theorem State.updDie_issues (s : State) (d : Nat) (f : Die → Die) : (s.updDie d f).issues = s.issues := rfl
@[simp] theorem State.updDie_clk (s : State) (d : Nat) (f : Die → Die) : (s.updDie d f).clk = s.clk := rfl
@[simp] theorem State.updDie_mem (s : State) (d : Nat) (f : Die → Die) : (s.updDie d f).mem = s.mem := rfl
@[simp] theorem State.updDie_scr (s : State) (d : Nat) (f : Die → Die) : (s.updDie d f).scr = s.scr := rfl
@[simp] theorem State.updDie_poison (s : State) (d : Nat) (f : Die → Die) : (s.updDie d f).poison = s.poison := rfl
@[simp] theorem State.updDie_blocks (s : State) (d : Nat) (f : Die → Die) : (s.updDie d f).blocks = s.blocks := rfl
@[simp] theorem State.updDie_clusters (s : State) (d : Nat) (f : Die → Die) : (s.updDie d f).clusters = s.clusters := rfl
@[simp] theorem State.updDie_tlbs (s : State) (d : Nat) (f : Die → Die) : (s.updDie d f).tlbs = s.tlbs := rfl
@[simp] theorem State.updDie_mats (s : State) (d : Nat) (f : Die → Die) : (s.updDie d f).mats = s.mats := rfl
@[simp] theorem State.updDie_grans (s : State) (d : Nat) (f : Die → Die) : (s.updDie d f).grans = s.grans := rfl
@[simp] theorem State.updDie_ctxs (s : State) (d : Nat) (f : Die → Die) : (s.updDie d f).ctxs = s.ctxs := rfl
@[simp] theorem State.updDie_launches (s : State) (d : Nat) (f : Die → Die) : (s.updDie d f).launches = s.launches := rfl
@[simp] theorem State.updDie_lidNext (s : State) (d : Nat) (f : Die → Die) : (s.updDie d f).lidNext = s.lidNext := rfl
@[simp] theorem State.updDie_pairs (s : State) (d : Nat) (f : Die → Die) : (s.updDie d f).pairs = s.pairs := rfl
@[simp] theorem State.updDie_syncs (s : State) (d : Nat) (f : Die → Die) : (s.updDie d f).syncs = s.syncs := rfl
@[simp] theorem State.updDie_fns (s : State) (d : Nat) (f : Die → Die) : (s.updDie d f).fns = s.fns := rfl
@[simp] theorem State.updDie_irqs (s : State) (d : Nat) (f : Die → Die) : (s.updDie d f).irqs = s.irqs := rfl
@[simp] theorem State.updDie_banks (s : State) (d : Nat) (f : Die → Die) : (s.updDie d f).banks = s.banks := rfl
@[simp] theorem State.updDie_dev (s : State) (d : Nat) (f : Die → Die) : (s.updDie d f).dev = s.dev := rfl
@[simp] theorem State.updDie_fwds (s : State) (d : Nat) (f : Die → Die) : (s.updDie d f).fwds = s.fwds := rfl
@[simp] theorem State.updDie_switches (s : State) (d : Nat) (f : Die → Die) : (s.updDie d f).switches = s.switches := rfl
@[simp] theorem State.updDie_outbox (s : State) (d : Nat) (f : Die → Die) : (s.updDie d f).outbox = s.outbox := rfl
@[simp] theorem State.updDie_flits (s : State) (d : Nat) (f : Die → Die) : (s.updDie d f).flits = s.flits := rfl
@[simp] theorem State.updDie_flitSeq (s : State) (d : Nat) (f : Die → Die) : (s.updDie d f).flitSeq = s.flitSeq := rfl

@[simp] theorem State.updFn_agenda (s : State) (n : Nat) (f : FnRegs → FnRegs) : (s.updFn n f).agenda = s.agenda := rfl
@[simp] theorem State.updFn_pace (s : State) (n : Nat) (f : FnRegs → FnRegs) : (s.updFn n f).pace = s.pace := rfl
@[simp] theorem State.updFn_lastVote (s : State) (n : Nat) (f : FnRegs → FnRegs) : (s.updFn n f).lastVote = s.lastVote := rfl
@[simp] theorem State.updFn_tags (s : State) (n : Nat) (f : FnRegs → FnRegs) : (s.updFn n f).tags = s.tags := rfl
@[simp] theorem State.updFn_names (s : State) (n : Nat) (f : FnRegs → FnRegs) : (s.updFn n f).names = s.names := rfl
@[simp] theorem State.updFn_putOff (s : State) (n : Nat) (f : FnRegs → FnRegs) : (s.updFn n f).putOff = s.putOff := rfl
@[simp] theorem State.updFn_issues (s : State) (n : Nat) (f : FnRegs → FnRegs) : (s.updFn n f).issues = s.issues := rfl
@[simp] theorem State.updFn_clk (s : State) (n : Nat) (f : FnRegs → FnRegs) : (s.updFn n f).clk = s.clk := rfl
@[simp] theorem State.updFn_mem (s : State) (n : Nat) (f : FnRegs → FnRegs) : (s.updFn n f).mem = s.mem := rfl
@[simp] theorem State.updFn_scr (s : State) (n : Nat) (f : FnRegs → FnRegs) : (s.updFn n f).scr = s.scr := rfl
@[simp] theorem State.updFn_poison (s : State) (n : Nat) (f : FnRegs → FnRegs) : (s.updFn n f).poison = s.poison := rfl
@[simp] theorem State.updFn_blocks (s : State) (n : Nat) (f : FnRegs → FnRegs) : (s.updFn n f).blocks = s.blocks := rfl
@[simp] theorem State.updFn_clusters (s : State) (n : Nat) (f : FnRegs → FnRegs) : (s.updFn n f).clusters = s.clusters := rfl
@[simp] theorem State.updFn_tlbs (s : State) (n : Nat) (f : FnRegs → FnRegs) : (s.updFn n f).tlbs = s.tlbs := rfl
@[simp] theorem State.updFn_mats (s : State) (n : Nat) (f : FnRegs → FnRegs) : (s.updFn n f).mats = s.mats := rfl
@[simp] theorem State.updFn_grans (s : State) (n : Nat) (f : FnRegs → FnRegs) : (s.updFn n f).grans = s.grans := rfl
@[simp] theorem State.updFn_dies (s : State) (n : Nat) (f : FnRegs → FnRegs) : (s.updFn n f).dies = s.dies := rfl
@[simp] theorem State.updFn_ctxs (s : State) (n : Nat) (f : FnRegs → FnRegs) : (s.updFn n f).ctxs = s.ctxs := rfl
@[simp] theorem State.updFn_launches (s : State) (n : Nat) (f : FnRegs → FnRegs) : (s.updFn n f).launches = s.launches := rfl
@[simp] theorem State.updFn_lidNext (s : State) (n : Nat) (f : FnRegs → FnRegs) : (s.updFn n f).lidNext = s.lidNext := rfl
@[simp] theorem State.updFn_pairs (s : State) (n : Nat) (f : FnRegs → FnRegs) : (s.updFn n f).pairs = s.pairs := rfl
@[simp] theorem State.updFn_syncs (s : State) (n : Nat) (f : FnRegs → FnRegs) : (s.updFn n f).syncs = s.syncs := rfl
@[simp] theorem State.updFn_irqs (s : State) (n : Nat) (f : FnRegs → FnRegs) : (s.updFn n f).irqs = s.irqs := rfl
@[simp] theorem State.updFn_banks (s : State) (n : Nat) (f : FnRegs → FnRegs) : (s.updFn n f).banks = s.banks := rfl
@[simp] theorem State.updFn_dev (s : State) (n : Nat) (f : FnRegs → FnRegs) : (s.updFn n f).dev = s.dev := rfl
@[simp] theorem State.updFn_fwds (s : State) (n : Nat) (f : FnRegs → FnRegs) : (s.updFn n f).fwds = s.fwds := rfl
@[simp] theorem State.updFn_switches (s : State) (n : Nat) (f : FnRegs → FnRegs) : (s.updFn n f).switches = s.switches := rfl
@[simp] theorem State.updFn_outbox (s : State) (n : Nat) (f : FnRegs → FnRegs) : (s.updFn n f).outbox = s.outbox := rfl
@[simp] theorem State.updFn_flits (s : State) (n : Nat) (f : FnRegs → FnRegs) : (s.updFn n f).flits = s.flits := rfl
@[simp] theorem State.updFn_flitSeq (s : State) (n : Nat) (f : FnRegs → FnRegs) : (s.updFn n f).flitSeq = s.flitSeq := rfl

@[simp] theorem State.addPoison_agenda (s : State) (gs : List Nat) : (s.addPoison gs).agenda = s.agenda := rfl
@[simp] theorem State.addPoison_pace (s : State) (gs : List Nat) : (s.addPoison gs).pace = s.pace := rfl
@[simp] theorem State.addPoison_lastVote (s : State) (gs : List Nat) : (s.addPoison gs).lastVote = s.lastVote := rfl
@[simp] theorem State.addPoison_tags (s : State) (gs : List Nat) : (s.addPoison gs).tags = s.tags := rfl
@[simp] theorem State.addPoison_names (s : State) (gs : List Nat) : (s.addPoison gs).names = s.names := rfl
@[simp] theorem State.addPoison_putOff (s : State) (gs : List Nat) : (s.addPoison gs).putOff = s.putOff := rfl
@[simp] theorem State.addPoison_issues (s : State) (gs : List Nat) : (s.addPoison gs).issues = s.issues := rfl
@[simp] theorem State.addPoison_clk (s : State) (gs : List Nat) : (s.addPoison gs).clk = s.clk := rfl
@[simp] theorem State.addPoison_mem (s : State) (gs : List Nat) : (s.addPoison gs).mem = s.mem := rfl
@[simp] theorem State.addPoison_scr (s : State) (gs : List Nat) : (s.addPoison gs).scr = s.scr := rfl
@[simp] theorem State.addPoison_blocks (s : State) (gs : List Nat) : (s.addPoison gs).blocks = s.blocks := rfl
@[simp] theorem State.addPoison_clusters (s : State) (gs : List Nat) : (s.addPoison gs).clusters = s.clusters := rfl
@[simp] theorem State.addPoison_tlbs (s : State) (gs : List Nat) : (s.addPoison gs).tlbs = s.tlbs := rfl
@[simp] theorem State.addPoison_mats (s : State) (gs : List Nat) : (s.addPoison gs).mats = s.mats := rfl
@[simp] theorem State.addPoison_grans (s : State) (gs : List Nat) : (s.addPoison gs).grans = s.grans := rfl
@[simp] theorem State.addPoison_dies (s : State) (gs : List Nat) : (s.addPoison gs).dies = s.dies := rfl
@[simp] theorem State.addPoison_ctxs (s : State) (gs : List Nat) : (s.addPoison gs).ctxs = s.ctxs := rfl
@[simp] theorem State.addPoison_launches (s : State) (gs : List Nat) : (s.addPoison gs).launches = s.launches := rfl
@[simp] theorem State.addPoison_lidNext (s : State) (gs : List Nat) : (s.addPoison gs).lidNext = s.lidNext := rfl
@[simp] theorem State.addPoison_pairs (s : State) (gs : List Nat) : (s.addPoison gs).pairs = s.pairs := rfl
@[simp] theorem State.addPoison_syncs (s : State) (gs : List Nat) : (s.addPoison gs).syncs = s.syncs := rfl
@[simp] theorem State.addPoison_fns (s : State) (gs : List Nat) : (s.addPoison gs).fns = s.fns := rfl
@[simp] theorem State.addPoison_irqs (s : State) (gs : List Nat) : (s.addPoison gs).irqs = s.irqs := rfl
@[simp] theorem State.addPoison_banks (s : State) (gs : List Nat) : (s.addPoison gs).banks = s.banks := rfl
@[simp] theorem State.addPoison_dev (s : State) (gs : List Nat) : (s.addPoison gs).dev = s.dev := rfl
@[simp] theorem State.addPoison_fwds (s : State) (gs : List Nat) : (s.addPoison gs).fwds = s.fwds := rfl
@[simp] theorem State.addPoison_switches (s : State) (gs : List Nat) : (s.addPoison gs).switches = s.switches := rfl
@[simp] theorem State.addPoison_outbox (s : State) (gs : List Nat) : (s.addPoison gs).outbox = s.outbox := rfl
@[simp] theorem State.addPoison_flits (s : State) (gs : List Nat) : (s.addPoison gs).flits = s.flits := rfl
@[simp] theorem State.addPoison_flitSeq (s : State) (gs : List Nat) : (s.addPoison gs).flitSeq = s.flitSeq := rfl

@[simp] theorem State.front_agenda (s : State) (k : Nat) (i : Issue) : (s.front k i).agenda = s.agenda := rfl
@[simp] theorem State.front_pace (s : State) (k : Nat) (i : Issue) : (s.front k i).pace = s.pace := rfl
@[simp] theorem State.front_lastVote (s : State) (k : Nat) (i : Issue) : (s.front k i).lastVote = s.lastVote := rfl
@[simp] theorem State.front_tags (s : State) (k : Nat) (i : Issue) : (s.front k i).tags = s.tags := rfl
@[simp] theorem State.front_names (s : State) (k : Nat) (i : Issue) : (s.front k i).names = s.names := rfl
@[simp] theorem State.front_putOff (s : State) (k : Nat) (i : Issue) : (s.front k i).putOff = s.putOff := rfl
@[simp] theorem State.front_clk (s : State) (k : Nat) (i : Issue) : (s.front k i).clk = s.clk := rfl
@[simp] theorem State.front_mem (s : State) (k : Nat) (i : Issue) : (s.front k i).mem = s.mem := rfl
@[simp] theorem State.front_scr (s : State) (k : Nat) (i : Issue) : (s.front k i).scr = s.scr := rfl
@[simp] theorem State.front_poison (s : State) (k : Nat) (i : Issue) : (s.front k i).poison = s.poison := rfl
@[simp] theorem State.front_blocks (s : State) (k : Nat) (i : Issue) : (s.front k i).blocks = s.blocks := rfl
@[simp] theorem State.front_clusters (s : State) (k : Nat) (i : Issue) : (s.front k i).clusters = s.clusters := rfl
@[simp] theorem State.front_tlbs (s : State) (k : Nat) (i : Issue) : (s.front k i).tlbs = s.tlbs := rfl
@[simp] theorem State.front_mats (s : State) (k : Nat) (i : Issue) : (s.front k i).mats = s.mats := rfl
@[simp] theorem State.front_grans (s : State) (k : Nat) (i : Issue) : (s.front k i).grans = s.grans := rfl
@[simp] theorem State.front_dies (s : State) (k : Nat) (i : Issue) : (s.front k i).dies = s.dies := rfl
@[simp] theorem State.front_ctxs (s : State) (k : Nat) (i : Issue) : (s.front k i).ctxs = s.ctxs := rfl
@[simp] theorem State.front_launches (s : State) (k : Nat) (i : Issue) : (s.front k i).launches = s.launches := rfl
@[simp] theorem State.front_lidNext (s : State) (k : Nat) (i : Issue) : (s.front k i).lidNext = s.lidNext := rfl
@[simp] theorem State.front_pairs (s : State) (k : Nat) (i : Issue) : (s.front k i).pairs = s.pairs := rfl
@[simp] theorem State.front_syncs (s : State) (k : Nat) (i : Issue) : (s.front k i).syncs = s.syncs := rfl
@[simp] theorem State.front_fns (s : State) (k : Nat) (i : Issue) : (s.front k i).fns = s.fns := rfl
@[simp] theorem State.front_irqs (s : State) (k : Nat) (i : Issue) : (s.front k i).irqs = s.irqs := rfl
@[simp] theorem State.front_banks (s : State) (k : Nat) (i : Issue) : (s.front k i).banks = s.banks := rfl
@[simp] theorem State.front_dev (s : State) (k : Nat) (i : Issue) : (s.front k i).dev = s.dev := rfl
@[simp] theorem State.front_fwds (s : State) (k : Nat) (i : Issue) : (s.front k i).fwds = s.fwds := rfl
@[simp] theorem State.front_switches (s : State) (k : Nat) (i : Issue) : (s.front k i).switches = s.switches := rfl
@[simp] theorem State.front_outbox (s : State) (k : Nat) (i : Issue) : (s.front k i).outbox = s.outbox := rfl
@[simp] theorem State.front_flits (s : State) (k : Nat) (i : Issue) : (s.front k i).flits = s.flits := rfl
@[simp] theorem State.front_flitSeq (s : State) (k : Nat) (i : Issue) : (s.front k i).flitSeq = s.flitSeq := rfl

@[simp] theorem State.updLane_agenda (s : State) (l : Lane) (f : Thread → Thread) : (s.updLane l f).agenda = s.agenda := by cases l <;> rfl
@[simp] theorem State.updLane_pace (s : State) (l : Lane) (f : Thread → Thread) : (s.updLane l f).pace = s.pace := by cases l <;> rfl
@[simp] theorem State.updLane_lastVote (s : State) (l : Lane) (f : Thread → Thread) : (s.updLane l f).lastVote = s.lastVote := by cases l <;> rfl
@[simp] theorem State.updLane_tags (s : State) (l : Lane) (f : Thread → Thread) : (s.updLane l f).tags = s.tags := by cases l <;> rfl
@[simp] theorem State.updLane_names (s : State) (l : Lane) (f : Thread → Thread) : (s.updLane l f).names = s.names := by cases l <;> rfl
@[simp] theorem State.updLane_putOff (s : State) (l : Lane) (f : Thread → Thread) : (s.updLane l f).putOff = s.putOff := by cases l <;> rfl
@[simp] theorem State.updLane_issues (s : State) (l : Lane) (f : Thread → Thread) : (s.updLane l f).issues = s.issues := by cases l <;> rfl
@[simp] theorem State.updLane_clk (s : State) (l : Lane) (f : Thread → Thread) : (s.updLane l f).clk = s.clk := by cases l <;> rfl
@[simp] theorem State.updLane_mem (s : State) (l : Lane) (f : Thread → Thread) : (s.updLane l f).mem = s.mem := by cases l <;> rfl
@[simp] theorem State.updLane_scr (s : State) (l : Lane) (f : Thread → Thread) : (s.updLane l f).scr = s.scr := by cases l <;> rfl
@[simp] theorem State.updLane_poison (s : State) (l : Lane) (f : Thread → Thread) : (s.updLane l f).poison = s.poison := by cases l <;> rfl
@[simp] theorem State.updLane_tlbs (s : State) (l : Lane) (f : Thread → Thread) : (s.updLane l f).tlbs = s.tlbs := by cases l <;> rfl
@[simp] theorem State.updLane_mats (s : State) (l : Lane) (f : Thread → Thread) : (s.updLane l f).mats = s.mats := by cases l <;> rfl
@[simp] theorem State.updLane_grans (s : State) (l : Lane) (f : Thread → Thread) : (s.updLane l f).grans = s.grans := by cases l <;> rfl
@[simp] theorem State.updLane_dies (s : State) (l : Lane) (f : Thread → Thread) : (s.updLane l f).dies = s.dies := by cases l <;> rfl
@[simp] theorem State.updLane_ctxs (s : State) (l : Lane) (f : Thread → Thread) : (s.updLane l f).ctxs = s.ctxs := by cases l <;> rfl
@[simp] theorem State.updLane_launches (s : State) (l : Lane) (f : Thread → Thread) : (s.updLane l f).launches = s.launches := by cases l <;> rfl
@[simp] theorem State.updLane_lidNext (s : State) (l : Lane) (f : Thread → Thread) : (s.updLane l f).lidNext = s.lidNext := by cases l <;> rfl
@[simp] theorem State.updLane_pairs (s : State) (l : Lane) (f : Thread → Thread) : (s.updLane l f).pairs = s.pairs := by cases l <;> rfl
@[simp] theorem State.updLane_syncs (s : State) (l : Lane) (f : Thread → Thread) : (s.updLane l f).syncs = s.syncs := by cases l <;> rfl
@[simp] theorem State.updLane_fns (s : State) (l : Lane) (f : Thread → Thread) : (s.updLane l f).fns = s.fns := by cases l <;> rfl
@[simp] theorem State.updLane_irqs (s : State) (l : Lane) (f : Thread → Thread) : (s.updLane l f).irqs = s.irqs := by cases l <;> rfl
@[simp] theorem State.updLane_banks (s : State) (l : Lane) (f : Thread → Thread) : (s.updLane l f).banks = s.banks := by cases l <;> rfl
@[simp] theorem State.updLane_dev (s : State) (l : Lane) (f : Thread → Thread) : (s.updLane l f).dev = s.dev := by cases l <;> rfl
@[simp] theorem State.updLane_fwds (s : State) (l : Lane) (f : Thread → Thread) : (s.updLane l f).fwds = s.fwds := by cases l <;> rfl
@[simp] theorem State.updLane_switches (s : State) (l : Lane) (f : Thread → Thread) : (s.updLane l f).switches = s.switches := by cases l <;> rfl
@[simp] theorem State.updLane_outbox (s : State) (l : Lane) (f : Thread → Thread) : (s.updLane l f).outbox = s.outbox := by cases l <;> rfl
@[simp] theorem State.updLane_flits (s : State) (l : Lane) (f : Thread → Thread) : (s.updLane l f).flits = s.flits := by cases l <;> rfl
@[simp] theorem State.updLane_flitSeq (s : State) (l : Lane) (f : Thread → Thread) : (s.updLane l f).flitSeq = s.flitSeq := by cases l <;> rfl
@[simp] theorem State.setLane_agenda (s : State) (l : Lane) (th : Thread) : (s.setLane l th).agenda = s.agenda := by cases l <;> rfl
@[simp] theorem State.setLane_pace (s : State) (l : Lane) (th : Thread) : (s.setLane l th).pace = s.pace := by cases l <;> rfl
@[simp] theorem State.setLane_lastVote (s : State) (l : Lane) (th : Thread) : (s.setLane l th).lastVote = s.lastVote := by cases l <;> rfl
@[simp] theorem State.setLane_tags (s : State) (l : Lane) (th : Thread) : (s.setLane l th).tags = s.tags := by cases l <;> rfl
@[simp] theorem State.setLane_names (s : State) (l : Lane) (th : Thread) : (s.setLane l th).names = s.names := by cases l <;> rfl
@[simp] theorem State.setLane_putOff (s : State) (l : Lane) (th : Thread) : (s.setLane l th).putOff = s.putOff := by cases l <;> rfl
@[simp] theorem State.setLane_issues (s : State) (l : Lane) (th : Thread) : (s.setLane l th).issues = s.issues := by cases l <;> rfl
@[simp] theorem State.setLane_clk (s : State) (l : Lane) (th : Thread) : (s.setLane l th).clk = s.clk := by cases l <;> rfl
@[simp] theorem State.setLane_mem (s : State) (l : Lane) (th : Thread) : (s.setLane l th).mem = s.mem := by cases l <;> rfl
@[simp] theorem State.setLane_scr (s : State) (l : Lane) (th : Thread) : (s.setLane l th).scr = s.scr := by cases l <;> rfl
@[simp] theorem State.setLane_poison (s : State) (l : Lane) (th : Thread) : (s.setLane l th).poison = s.poison := by cases l <;> rfl
@[simp] theorem State.setLane_tlbs (s : State) (l : Lane) (th : Thread) : (s.setLane l th).tlbs = s.tlbs := by cases l <;> rfl
@[simp] theorem State.setLane_mats (s : State) (l : Lane) (th : Thread) : (s.setLane l th).mats = s.mats := by cases l <;> rfl
@[simp] theorem State.setLane_grans (s : State) (l : Lane) (th : Thread) : (s.setLane l th).grans = s.grans := by cases l <;> rfl
@[simp] theorem State.setLane_dies (s : State) (l : Lane) (th : Thread) : (s.setLane l th).dies = s.dies := by cases l <;> rfl
@[simp] theorem State.setLane_ctxs (s : State) (l : Lane) (th : Thread) : (s.setLane l th).ctxs = s.ctxs := by cases l <;> rfl
@[simp] theorem State.setLane_launches (s : State) (l : Lane) (th : Thread) : (s.setLane l th).launches = s.launches := by cases l <;> rfl
@[simp] theorem State.setLane_lidNext (s : State) (l : Lane) (th : Thread) : (s.setLane l th).lidNext = s.lidNext := by cases l <;> rfl
@[simp] theorem State.setLane_pairs (s : State) (l : Lane) (th : Thread) : (s.setLane l th).pairs = s.pairs := by cases l <;> rfl
@[simp] theorem State.setLane_syncs (s : State) (l : Lane) (th : Thread) : (s.setLane l th).syncs = s.syncs := by cases l <;> rfl
@[simp] theorem State.setLane_fns (s : State) (l : Lane) (th : Thread) : (s.setLane l th).fns = s.fns := by cases l <;> rfl
@[simp] theorem State.setLane_irqs (s : State) (l : Lane) (th : Thread) : (s.setLane l th).irqs = s.irqs := by cases l <;> rfl
@[simp] theorem State.setLane_banks (s : State) (l : Lane) (th : Thread) : (s.setLane l th).banks = s.banks := by cases l <;> rfl
@[simp] theorem State.setLane_dev (s : State) (l : Lane) (th : Thread) : (s.setLane l th).dev = s.dev := by cases l <;> rfl
@[simp] theorem State.setLane_fwds (s : State) (l : Lane) (th : Thread) : (s.setLane l th).fwds = s.fwds := by cases l <;> rfl
@[simp] theorem State.setLane_switches (s : State) (l : Lane) (th : Thread) : (s.setLane l th).switches = s.switches := by cases l <;> rfl
@[simp] theorem State.setLane_outbox (s : State) (l : Lane) (th : Thread) : (s.setLane l th).outbox = s.outbox := by cases l <;> rfl
@[simp] theorem State.setLane_flits (s : State) (l : Lane) (th : Thread) : (s.setLane l th).flits = s.flits := by cases l <;> rfl
@[simp] theorem State.setLane_flitSeq (s : State) (l : Lane) (th : Thread) : (s.setLane l th).flitSeq = s.flitSeq := by cases l <;> rfl

/-! ## Threads: one lemma per field per update -/

@[simp] theorem Thread.pushY_live (t : Thread) (v : Word) : (t.pushY v).live = t.live := rfl
@[simp] theorem Thread.pushY_pc (t : Thread) (v : Word) : (t.pushY v).pc = t.pc := rfl
@[simp] theorem Thread.pushY_cont (t : Thread) (v : Word) : (t.pushY v).cont = t.cont := rfl
@[simp] theorem Thread.pushY_line (t : Thread) (v : Word) : (t.pushY v).line = t.line := rfl
@[simp] theorem Thread.pushY_w (t : Thread) (v : Word) : (t.pushY v).w = t.w := rfl
@[simp] theorem Thread.pushY_p (t : Thread) (v : Word) : (t.pushY v).p = t.p := rfl
@[simp] theorem Thread.pushY_x (t : Thread) (v : Word) : (t.pushY v).x = t.x := rfl
@[simp] theorem Thread.pushY_q (t : Thread) (v : Word) : (t.pushY v).q = t.q := rfl
@[simp] theorem Thread.pushY_stack (t : Thread) (v : Word) : (t.pushY v).stack = t.stack := rfl
@[simp] theorem Thread.pushY_loftRs (t : Thread) (v : Word) : (t.pushY v).loftRs = t.loftRs := rfl
@[simp] theorem Thread.pushY_stage (t : Thread) (v : Word) : (t.pushY v).stage = t.stage := rfl
@[simp] theorem Thread.pushY_search (t : Thread) (v : Word) : (t.pushY v).search = t.search := rfl
@[simp] theorem Thread.pushY_owed (t : Thread) (v : Word) : (t.pushY v).owed = t.owed := rfl
@[simp] theorem Thread.pushY_stq (t : Thread) (v : Word) : (t.pushY v).stq = t.stq := rfl
@[simp] theorem Thread.pushY_stop (t : Thread) (v : Word) : (t.pushY v).stop = t.stop := rfl
@[simp] theorem Thread.pushY_hold (t : Thread) (v : Word) : (t.pushY v).hold = t.hold := rfl
@[simp] theorem Thread.pushY_yieldAt (t : Thread) (v : Word) : (t.pushY v).yieldAt = t.yieldAt := rfl
@[simp] theorem Thread.pushY_age (t : Thread) (v : Word) : (t.pushY v).age = t.age := rfl
@[simp] theorem Thread.pushY_gbars (t : Thread) (v : Word) : (t.pushY v).gbars = t.gbars := rfl
@[simp] theorem Thread.pushY_item (t : Thread) (v : Word) : (t.pushY v).item = t.item := rfl
@[simp] theorem Thread.pushY_staged (t : Thread) (v : Word) : (t.pushY v).staged = t.staged := rfl
@[simp] theorem Thread.pushY_latch (t : Thread) (v : Word) : (t.pushY v).latch = t.latch := rfl
@[simp] theorem Thread.pushY_fixed (t : Thread) (v : Word) : (t.pushY v).fixed = t.fixed := rfl
@[simp] theorem Thread.pushY_atoms (t : Thread) (v : Word) : (t.pushY v).atoms = t.atoms := rfl
@[simp] theorem Thread.pushY_clks (t : Thread) (v : Word) : (t.pushY v).clks = t.clks := rfl
@[simp] theorem Thread.pushY_badW (t : Thread) (v : Word) : (t.pushY v).badW = t.badW := rfl
@[simp] theorem Thread.pushY_badRet (t : Thread) (v : Word) : (t.pushY v).badRet = t.badRet := rfl
@[simp] theorem Thread.moveTo_live (t : Thread) (pc : DWord) (k : Bool) : (t.moveTo pc k).live = t.live := rfl
@[simp] theorem Thread.moveTo_w (t : Thread) (pc : DWord) (k : Bool) : (t.moveTo pc k).w = t.w := rfl
@[simp] theorem Thread.moveTo_p (t : Thread) (pc : DWord) (k : Bool) : (t.moveTo pc k).p = t.p := rfl
@[simp] theorem Thread.moveTo_x (t : Thread) (pc : DWord) (k : Bool) : (t.moveTo pc k).x = t.x := rfl
@[simp] theorem Thread.moveTo_q (t : Thread) (pc : DWord) (k : Bool) : (t.moveTo pc k).q = t.q := rfl
@[simp] theorem Thread.moveTo_y (t : Thread) (pc : DWord) (k : Bool) : (t.moveTo pc k).y = t.y := rfl
@[simp] theorem Thread.moveTo_stack (t : Thread) (pc : DWord) (k : Bool) : (t.moveTo pc k).stack = t.stack := rfl
@[simp] theorem Thread.moveTo_loftRs (t : Thread) (pc : DWord) (k : Bool) : (t.moveTo pc k).loftRs = t.loftRs := rfl
@[simp] theorem Thread.moveTo_stage (t : Thread) (pc : DWord) (k : Bool) : (t.moveTo pc k).stage = t.stage := rfl
@[simp] theorem Thread.moveTo_search (t : Thread) (pc : DWord) (k : Bool) : (t.moveTo pc k).search = t.search := rfl
@[simp] theorem Thread.moveTo_owed (t : Thread) (pc : DWord) (k : Bool) : (t.moveTo pc k).owed = t.owed := rfl
@[simp] theorem Thread.moveTo_stq (t : Thread) (pc : DWord) (k : Bool) : (t.moveTo pc k).stq = t.stq := rfl
@[simp] theorem Thread.moveTo_stop (t : Thread) (pc : DWord) (k : Bool) : (t.moveTo pc k).stop = t.stop := rfl
@[simp] theorem Thread.moveTo_hold (t : Thread) (pc : DWord) (k : Bool) : (t.moveTo pc k).hold = t.hold := rfl
@[simp] theorem Thread.moveTo_yieldAt (t : Thread) (pc : DWord) (k : Bool) : (t.moveTo pc k).yieldAt = t.yieldAt := rfl
@[simp] theorem Thread.moveTo_age (t : Thread) (pc : DWord) (k : Bool) : (t.moveTo pc k).age = t.age := rfl
@[simp] theorem Thread.moveTo_gbars (t : Thread) (pc : DWord) (k : Bool) : (t.moveTo pc k).gbars = t.gbars := rfl
@[simp] theorem Thread.moveTo_item (t : Thread) (pc : DWord) (k : Bool) : (t.moveTo pc k).item = t.item := rfl
@[simp] theorem Thread.moveTo_staged (t : Thread) (pc : DWord) (k : Bool) : (t.moveTo pc k).staged = t.staged := rfl
@[simp] theorem Thread.moveTo_latch (t : Thread) (pc : DWord) (k : Bool) : (t.moveTo pc k).latch = t.latch := rfl
@[simp] theorem Thread.moveTo_fixed (t : Thread) (pc : DWord) (k : Bool) : (t.moveTo pc k).fixed = t.fixed := rfl
@[simp] theorem Thread.moveTo_atoms (t : Thread) (pc : DWord) (k : Bool) : (t.moveTo pc k).atoms = t.atoms := rfl
@[simp] theorem Thread.moveTo_clks (t : Thread) (pc : DWord) (k : Bool) : (t.moveTo pc k).clks = t.clks := rfl
@[simp] theorem Thread.moveTo_badW (t : Thread) (pc : DWord) (k : Bool) : (t.moveTo pc k).badW = t.badW := rfl
@[simp] theorem Thread.moveTo_badRet (t : Thread) (pc : DWord) (k : Bool) : (t.moveTo pc k).badRet = t.badRet := rfl
@[simp] theorem Thread.put_live (t : Thread) (r : RegVal) : (t.put r).live = t.live := by
  cases r <;> simp only [Thread.put]; split <;> rfl
@[simp] theorem Thread.puts_live (t : Thread) (rs : List RegVal) : (t.puts rs).live = t.live := by
  induction rs generalizing t with
  | nil => rfl
  | cons r rs ih => exact (ih (t.put r)).trans (t.put_live r)
@[simp] theorem Thread.put_pc (t : Thread) (r : RegVal) : (t.put r).pc = t.pc := by
  cases r <;> simp only [Thread.put]; split <;> rfl
@[simp] theorem Thread.puts_pc (t : Thread) (rs : List RegVal) : (t.puts rs).pc = t.pc := by
  induction rs generalizing t with
  | nil => rfl
  | cons r rs ih => exact (ih (t.put r)).trans (t.put_pc r)
@[simp] theorem Thread.put_cont (t : Thread) (r : RegVal) : (t.put r).cont = t.cont := by
  cases r <;> simp only [Thread.put]; split <;> rfl
@[simp] theorem Thread.puts_cont (t : Thread) (rs : List RegVal) : (t.puts rs).cont = t.cont := by
  induction rs generalizing t with
  | nil => rfl
  | cons r rs ih => exact (ih (t.put r)).trans (t.put_cont r)
@[simp] theorem Thread.put_line (t : Thread) (r : RegVal) : (t.put r).line = t.line := by
  cases r <;> simp only [Thread.put]; split <;> rfl
@[simp] theorem Thread.puts_line (t : Thread) (rs : List RegVal) : (t.puts rs).line = t.line := by
  induction rs generalizing t with
  | nil => rfl
  | cons r rs ih => exact (ih (t.put r)).trans (t.put_line r)
@[simp] theorem Thread.put_x (t : Thread) (r : RegVal) : (t.put r).x = t.x := by
  cases r <;> simp only [Thread.put]; split <;> rfl
@[simp] theorem Thread.puts_x (t : Thread) (rs : List RegVal) : (t.puts rs).x = t.x := by
  induction rs generalizing t with
  | nil => rfl
  | cons r rs ih => exact (ih (t.put r)).trans (t.put_x r)
@[simp] theorem Thread.put_y (t : Thread) (r : RegVal) : (t.put r).y = t.y := by
  cases r <;> simp only [Thread.put]; split <;> rfl
@[simp] theorem Thread.puts_y (t : Thread) (rs : List RegVal) : (t.puts rs).y = t.y := by
  induction rs generalizing t with
  | nil => rfl
  | cons r rs ih => exact (ih (t.put r)).trans (t.put_y r)
@[simp] theorem Thread.put_yn (t : Thread) (r : RegVal) : (t.put r).yn = t.yn := by
  cases r <;> simp only [Thread.put]; split <;> rfl
@[simp] theorem Thread.puts_yn (t : Thread) (rs : List RegVal) : (t.puts rs).yn = t.yn := by
  induction rs generalizing t with
  | nil => rfl
  | cons r rs ih => exact (ih (t.put r)).trans (t.put_yn r)
@[simp] theorem Thread.put_stack (t : Thread) (r : RegVal) : (t.put r).stack = t.stack := by
  cases r <;> simp only [Thread.put]; split <;> rfl
@[simp] theorem Thread.puts_stack (t : Thread) (rs : List RegVal) : (t.puts rs).stack = t.stack := by
  induction rs generalizing t with
  | nil => rfl
  | cons r rs ih => exact (ih (t.put r)).trans (t.put_stack r)
@[simp] theorem Thread.put_loftRs (t : Thread) (r : RegVal) : (t.put r).loftRs = t.loftRs := by
  cases r <;> simp only [Thread.put]; split <;> rfl
@[simp] theorem Thread.puts_loftRs (t : Thread) (rs : List RegVal) : (t.puts rs).loftRs = t.loftRs := by
  induction rs generalizing t with
  | nil => rfl
  | cons r rs ih => exact (ih (t.put r)).trans (t.put_loftRs r)
@[simp] theorem Thread.put_stage (t : Thread) (r : RegVal) : (t.put r).stage = t.stage := by
  cases r <;> simp only [Thread.put]; split <;> rfl
@[simp] theorem Thread.puts_stage (t : Thread) (rs : List RegVal) : (t.puts rs).stage = t.stage := by
  induction rs generalizing t with
  | nil => rfl
  | cons r rs ih => exact (ih (t.put r)).trans (t.put_stage r)
@[simp] theorem Thread.put_search (t : Thread) (r : RegVal) : (t.put r).search = t.search := by
  cases r <;> simp only [Thread.put]; split <;> rfl
@[simp] theorem Thread.puts_search (t : Thread) (rs : List RegVal) : (t.puts rs).search = t.search := by
  induction rs generalizing t with
  | nil => rfl
  | cons r rs ih => exact (ih (t.put r)).trans (t.put_search r)
@[simp] theorem Thread.put_owed (t : Thread) (r : RegVal) : (t.put r).owed = t.owed := by
  cases r <;> simp only [Thread.put]; split <;> rfl
@[simp] theorem Thread.puts_owed (t : Thread) (rs : List RegVal) : (t.puts rs).owed = t.owed := by
  induction rs generalizing t with
  | nil => rfl
  | cons r rs ih => exact (ih (t.put r)).trans (t.put_owed r)
@[simp] theorem Thread.put_stq (t : Thread) (r : RegVal) : (t.put r).stq = t.stq := by
  cases r <;> simp only [Thread.put]; split <;> rfl
@[simp] theorem Thread.puts_stq (t : Thread) (rs : List RegVal) : (t.puts rs).stq = t.stq := by
  induction rs generalizing t with
  | nil => rfl
  | cons r rs ih => exact (ih (t.put r)).trans (t.put_stq r)
@[simp] theorem Thread.put_stop (t : Thread) (r : RegVal) : (t.put r).stop = t.stop := by
  cases r <;> simp only [Thread.put]; split <;> rfl
@[simp] theorem Thread.puts_stop (t : Thread) (rs : List RegVal) : (t.puts rs).stop = t.stop := by
  induction rs generalizing t with
  | nil => rfl
  | cons r rs ih => exact (ih (t.put r)).trans (t.put_stop r)
@[simp] theorem Thread.put_hold (t : Thread) (r : RegVal) : (t.put r).hold = t.hold := by
  cases r <;> simp only [Thread.put]; split <;> rfl
@[simp] theorem Thread.puts_hold (t : Thread) (rs : List RegVal) : (t.puts rs).hold = t.hold := by
  induction rs generalizing t with
  | nil => rfl
  | cons r rs ih => exact (ih (t.put r)).trans (t.put_hold r)
@[simp] theorem Thread.put_yieldAt (t : Thread) (r : RegVal) : (t.put r).yieldAt = t.yieldAt := by
  cases r <;> simp only [Thread.put]; split <;> rfl
@[simp] theorem Thread.puts_yieldAt (t : Thread) (rs : List RegVal) : (t.puts rs).yieldAt = t.yieldAt := by
  induction rs generalizing t with
  | nil => rfl
  | cons r rs ih => exact (ih (t.put r)).trans (t.put_yieldAt r)
@[simp] theorem Thread.put_age (t : Thread) (r : RegVal) : (t.put r).age = t.age := by
  cases r <;> simp only [Thread.put]; split <;> rfl
@[simp] theorem Thread.puts_age (t : Thread) (rs : List RegVal) : (t.puts rs).age = t.age := by
  induction rs generalizing t with
  | nil => rfl
  | cons r rs ih => exact (ih (t.put r)).trans (t.put_age r)
@[simp] theorem Thread.put_gbars (t : Thread) (r : RegVal) : (t.put r).gbars = t.gbars := by
  cases r <;> simp only [Thread.put]; split <;> rfl
@[simp] theorem Thread.puts_gbars (t : Thread) (rs : List RegVal) : (t.puts rs).gbars = t.gbars := by
  induction rs generalizing t with
  | nil => rfl
  | cons r rs ih => exact (ih (t.put r)).trans (t.put_gbars r)
@[simp] theorem Thread.put_item (t : Thread) (r : RegVal) : (t.put r).item = t.item := by
  cases r <;> simp only [Thread.put]; split <;> rfl
@[simp] theorem Thread.puts_item (t : Thread) (rs : List RegVal) : (t.puts rs).item = t.item := by
  induction rs generalizing t with
  | nil => rfl
  | cons r rs ih => exact (ih (t.put r)).trans (t.put_item r)
@[simp] theorem Thread.put_staged (t : Thread) (r : RegVal) : (t.put r).staged = t.staged := by
  cases r <;> simp only [Thread.put]; split <;> rfl
@[simp] theorem Thread.puts_staged (t : Thread) (rs : List RegVal) : (t.puts rs).staged = t.staged := by
  induction rs generalizing t with
  | nil => rfl
  | cons r rs ih => exact (ih (t.put r)).trans (t.put_staged r)
@[simp] theorem Thread.put_latch (t : Thread) (r : RegVal) : (t.put r).latch = t.latch := by
  cases r <;> simp only [Thread.put]; split <;> rfl
@[simp] theorem Thread.puts_latch (t : Thread) (rs : List RegVal) : (t.puts rs).latch = t.latch := by
  induction rs generalizing t with
  | nil => rfl
  | cons r rs ih => exact (ih (t.put r)).trans (t.put_latch r)
@[simp] theorem Thread.put_fixed (t : Thread) (r : RegVal) : (t.put r).fixed = t.fixed := by
  cases r <;> simp only [Thread.put]; split <;> rfl
@[simp] theorem Thread.puts_fixed (t : Thread) (rs : List RegVal) : (t.puts rs).fixed = t.fixed := by
  induction rs generalizing t with
  | nil => rfl
  | cons r rs ih => exact (ih (t.put r)).trans (t.put_fixed r)
@[simp] theorem Thread.put_atoms (t : Thread) (r : RegVal) : (t.put r).atoms = t.atoms := by
  cases r <;> simp only [Thread.put]; split <;> rfl
@[simp] theorem Thread.puts_atoms (t : Thread) (rs : List RegVal) : (t.puts rs).atoms = t.atoms := by
  induction rs generalizing t with
  | nil => rfl
  | cons r rs ih => exact (ih (t.put r)).trans (t.put_atoms r)
@[simp] theorem Thread.put_clks (t : Thread) (r : RegVal) : (t.put r).clks = t.clks := by
  cases r <;> simp only [Thread.put]; split <;> rfl
@[simp] theorem Thread.puts_clks (t : Thread) (rs : List RegVal) : (t.puts rs).clks = t.clks := by
  induction rs generalizing t with
  | nil => rfl
  | cons r rs ih => exact (ih (t.put r)).trans (t.put_clks r)
@[simp] theorem Thread.put_badRet (t : Thread) (r : RegVal) : (t.put r).badRet = t.badRet := by
  cases r <;> simp only [Thread.put]; split <;> rfl
@[simp] theorem Thread.puts_badRet (t : Thread) (rs : List RegVal) : (t.puts rs).badRet = t.badRet := by
  induction rs generalizing t with
  | nil => rfl
  | cons r rs ih => exact (ih (t.put r)).trans (t.put_badRet r)

/-! ## Blocks, threads and clusters after an update -/

@[simp] theorem State.block?_updBlock_same (s : State) (b : Nat) (f : Block → Block) : (s.updBlock b f).block? b = (s.block? b).map f :=
  Tab.find_upd_same s.blocks b f

theorem State.block?_updBlock_other (s : State) {b k : Nat} (f : Block → Block) (h : k ≠ b) : (s.updBlock b f).block? k = s.block? k :=
  Tab.find_upd_other s.blocks f h

/-- A block after an update of a block. -/
theorem State.block?_updBlock (s : State) (b k : Nat) (f : Block → Block) :
    (s.updBlock b f).block? k = if k = b then (s.block? k).map f else s.block? k := by
  split
  · subst_vars; simp
  · exact s.block?_updBlock_other f ‹_›

/-- A thread of a block after an update of one of its threads. -/
theorem Block.thread?_updThread (b : Block) (wp m wp' m' : Nat) (f : Thread → Thread) :
    (b.updThread wp m f).thread? wp' m' = if wp' = wp ∧ m' = m then (b.thread? wp' m').map f else b.thread? wp' m' := by
  simp only [Block.thread?, Block.updThread, Block.updWarp, List.getElem?_modify]
  by_cases hw : wp = wp'
  · subst hw
    by_cases hm : m = m'
    · subst hm; cases b.warps[wp]? <;> simp
    · cases b.warps[wp]? <;> simp [hm, Ne.symm hm]
  · simp [hw, Ne.symm hw]

/-- A thread after an update of a thread. -/
theorem State.thread?_updThread (s : State) (t u : TRef) (f : Thread → Thread) :
    (s.updThread t f).thread? u = if u = t then (s.thread? u).map f else s.thread? u := by
  obtain ⟨tb, tw, tm⟩ := t
  obtain ⟨ub, uw, um⟩ := u
  simp only [State.thread?, State.updThread, State.block?_updBlock, TRef.mk.injEq]
  by_cases hb : ub = tb
  · subst hb
    cases s.block? ub <;> simp [Block.thread?_updThread]
  · simp [hb]

@[simp] theorem State.thread?_updThread_same (s : State) (t : TRef) (f : Thread → Thread) : (s.updThread t f).thread? t = (s.thread? t).map f := by
  simp [State.thread?_updThread]

theorem State.thread?_updThread_other (s : State) {t u : TRef} (f : Thread → Thread) (h : u ≠ t) :
    (s.updThread t f).thread? u = s.thread? u := by
  simp [State.thread?_updThread, h]

theorem State.cluster_updCluster_other (s : State) {c k : Nat} (f : Cluster → Cluster) (h : k ≠ c) :
    (s.updCluster c f).cluster k = s.cluster k :=
  Tab.get_put_other Cluster.new s.clusters _ h

/-- A cluster after an update of it. -/
theorem State.cluster_updCluster_same (s : State) (c : Nat) (f : Cluster → Cluster) :
    (s.updCluster c f).cluster c = f (s.cluster c) :=
  Tab.get_put_same Cluster.new s.clusters c _

end Sys2Proof.Machine
end

