-- ==== Sys2Proof/Laws/Lane.lean ====
section
/-!
SUPPORT. What one pass of a word does when the word is ready: the shared lemmas that say once everything `laneStep` can do for an instruction that
touches only the thread that executes it.
-/

namespace Sys2Proof.Machine

/-! ## Leaving everything but some threads alone -/

theorem OnlyLanes.refl (s : State) (ls : List Lane) : OnlyLanes s s ls :=
  ⟨rfl, fun _ => rfl, fun _ => rfl, fun _ _ => rfl⟩

theorem OnlyLanes.trans {s t u : State} {ls ks : List Lane} (h : OnlyLanes s t ls) (k : OnlyLanes t u ks) :
    OnlyLanes s u (ls ++ ks) := by
  refine ⟨?_, fun b => (k.blocks b).trans (h.blocks b), fun c => (k.clusters c).trans (h.clusters c), fun l hl => ?_⟩
  · rw [k.rest, h.rest]
  · rw [List.mem_append, not_or] at hl
    rw [k.lanes l hl.2, h.lanes l hl.1]

theorem OnlyLanes.mono {s t : State} {ls ks : List Lane} (h : OnlyLanes s t ls) (hk : ∀ l ∈ ls, l ∈ ks) : OnlyLanes s t ks :=
  ⟨h.rest, h.blocks, h.clusters, fun l hl => h.lanes l fun hm => hl (hk l hm)⟩

theorem OnlyLanes.mem {s t : State} {ls : List Lane} (h : OnlyLanes s t ls) : t.mem = s.mem := by rw [h.rest]
theorem OnlyLanes.scr {s t : State} {ls : List Lane} (h : OnlyLanes s t ls) : t.scr = s.scr := by rw [h.rest]

/-- Other clauses in execution, or other tags, are no difference that counts. -/
theorem OnlyLanes.issues (s : State) (is : List Issue) : OnlyLanes s { s with issues := is } [] :=
  ⟨rfl, fun _ => rfl, fun _ => rfl, fun l _ => by cases l <;> rfl⟩

theorem OnlyLanes.tags (s : State) (n : Nat) : OnlyLanes s { s with tags := n } [] :=
  ⟨rfl, fun _ => rfl, fun _ => rfl, fun l _ => by cases l <;> rfl⟩

theorem OnlyLanes.withIssues {s t : State} {ls : List Lane} (h : OnlyLanes s t ls) (is : List Issue) :
    OnlyLanes s { t with issues := is } ls :=
  (h.trans (OnlyLanes.issues t is)).mono (by simp)

@[simp] theorem State.lane?_withIssues (s : State) (is : List Issue) (l : Lane) : ({ s with issues := is } : State).lane? l = s.lane? l := by
  cases l <;> rfl

@[simp] theorem Block.shell_updThread (b : Block) (wp m : Nat) (f : Thread → Thread) : (b.updThread wp m f).shell = b.shell := by
  simp only [Block.shell, Block.updThread, Block.updWarp]
  congr 1
  apply List.ext_getElem?
  intro i
  simp only [List.getElem?_map, List.getElem?_modify]
  split
  · cases b.warps[i]? <;> simp
  · simp

/-- A lane's thread after its update. -/
theorem State.lane?_updLane_same (s : State) (l : Lane) (f : Thread → Thread) {th : Thread} (h : s.lane? l = some th) :
    (s.updLane l f).lane? l = some (f th) := by
  cases l with
  | thr t => simp_all [State.updLane, State.lane?]
  | tile c =>
    simp only [State.lane?, Option.map_eq_some_iff] at h
    obtain ⟨r, hr, rfl⟩ := h
    have hne : ({ s.cluster c with tile := some { r with th := f r.th } } : Cluster) ≠ Cluster.new := by
      intro hc; have := congrArg Cluster.tile hc; simp [Cluster.new] at this
    simp [State.updLane, State.lane?, State.updTile, State.updCluster, State.cluster, Tab.get, Tab.put] at hr ⊢
    simp only [State.cluster, Tab.get] at hne
    simp [hr, hne, Tab.find_ins_same]

theorem State.onlyLanes_updLane (s : State) (l : Lane) (f : Thread → Thread) {th : Thread} (h : s.lane? l = some th) :
    OnlyLanes s (s.updLane l f) [l] := by
  cases l with
  | thr t =>
    refine ⟨rfl, fun k => ?_, fun _ => rfl, fun l hl => ?_⟩
    · simp only [State.updLane, State.updThread, State.block?_updBlock]
      split
      · cases s.block? k <;> simp
      · rfl
    · cases l with
      | thr u => simp only [List.mem_singleton, Lane.thr.injEq] at hl; simp [State.lane?, State.updLane, State.thread?_updThread, hl]
      | tile c => rfl
  | tile c =>
    simp only [State.lane?, Option.map_eq_some_iff] at h
    obtain ⟨r, hr, rfl⟩ := h
    have hsame : (s.updLane (.tile c) f).cluster c = { s.cluster c with tile := some { r with th := f r.th } } := by
      have hne : ({ s.cluster c with tile := some { r with th := f r.th } } : Cluster) ≠ Cluster.new := by
        intro hc; have := congrArg Cluster.tile hc; simp [Cluster.new] at this
      simp only [State.updLane, State.updTile, State.updCluster, hr, Option.map_some]
      simp only [State.cluster, Tab.get, Tab.put] at hne ⊢
      simp [hne, Tab.find_ins_same]
    refine ⟨rfl, fun _ => rfl, fun k => ?_, fun l hl => ?_⟩
    · by_cases hk : k = c
      · subst hk; rw [hsame]; simp [Cluster.shell, hr]
      · rw [show (s.updLane (.tile c) f).cluster k = s.cluster k from s.cluster_updCluster_other _ hk]
    · cases l with
      | thr u => rfl
      | tile k =>
        simp only [List.mem_singleton, Lane.tile.injEq] at hl
        simp only [State.lane?]
        rw [show (s.updLane (.tile c) f).cluster k = s.cluster k from s.cluster_updCluster_other _ hl]

/-! ## What a participant sees -/

theorem State.env?_lane {s : State} {l : Lane} {n i : Nat} {pc : DWord} {e : Env} (h : s.env? l n pc i = some e) : e.lane = l := by
  cases l with
  | thr t =>
    simp only [State.env?, Option.bind_eq_some_iff, Option.map_eq_some_iff] at h
    obtain ⟨b, -, w, -, th, -, rfl⟩ := h
    rfl
  | tile c =>
    simp only [State.env?, Option.bind_eq_some_iff, Option.map_eq_some_iff] at h
    obtain ⟨r, -, b, -, rfl⟩ := h
    rfl

theorem State.env?_th {s : State} {l : Lane} {n i : Nat} {pc : DWord} {e : Env} (h : s.env? l n pc i = some e) : s.lane? l = some e.th := by
  cases l with
  | thr t =>
    simp only [State.env?, Option.bind_eq_some_iff, Option.map_eq_some_iff] at h
    obtain ⟨b, hb, w, hw, th, hth, rfl⟩ := h
    simp [State.lane?, State.thread?, Block.thread?, hb, hw, hth, envOf]
  | tile c =>
    simp only [State.env?, Option.bind_eq_some_iff, Option.map_eq_some_iff] at h
    obtain ⟨r, hr, b, -, rfl⟩ := h
    simp [State.lane?, hr]

/-- The shell of a block gives everything a participant sees of it but threads. -/
theorem Block.shell_warps {b b' : Block} (h : b'.shell = b.shell) (wp : Nat) : (b'.warps[wp]?).map Warp.s = (b.warps[wp]?).map Warp.s := by
  have := congrArg (fun k => (k.warps[wp]?).map Warp.s) h
  simpa [Block.shell, Function.comp_def] using this

theorem Block.shell_fields {b b' : Block} (h : b'.shell = b.shell) : { b' with warps := b.warps } = b := by
  cases b; cases b'
  simp only [Block.shell, Block.mk.injEq] at h ⊢
  simp_all

/-- A participant whose thread is as before sees what it saw before. -/
theorem OnlyLanes.env? {s t : State} {ls : List Lane} (h : OnlyLanes s t ls) {l : Lane} (hl : t.lane? l = s.lane? l)
    {n i : Nat} {pc : DWord} {e : Env} (he : s.env? l n pc i = some e) : t.env? l n pc i = some e := by
  cases l with
  | thr u =>
    simp only [State.env?, Option.bind_eq_some_iff, Option.map_eq_some_iff] at he ⊢
    obtain ⟨b, hb, w, hw, th, hth, rfl⟩ := he
    have hsh := h.blocks u.blk
    rw [hb] at hsh
    obtain ⟨b', hb', hs'⟩ := Option.map_eq_some_iff.1 hsh
    have hf := Block.shell_fields hs'
    have hwp := Block.shell_warps hs' u.wp
    rw [hw] at hwp
    obtain ⟨w', hw', hws⟩ := Option.map_eq_some_iff.1 hwp
    simp only [State.lane?, State.thread?, Block.thread?, hb, hb', Option.bind_some, hw, hw', hth] at hl
    refine ⟨b', hb', w', hw', th, hl, ?_⟩
    rw [← hf]
    simp [envOf, hws]
  | tile c =>
    simp only [State.env?, Option.bind_eq_some_iff, Option.map_eq_some_iff] at he ⊢
    obtain ⟨r, hr, b, hb, rfl⟩ := he
    have hc := congrArg Cluster.tile (h.clusters c)
    simp only [Cluster.shell, hr, Option.map_some] at hc
    obtain ⟨r', hr', hrr⟩ := Option.map_eq_some_iff.1 hc
    simp only [State.lane?, hr, hr', Option.map_some, Option.some.injEq] at hl
    have hreq : r' = r := by
      cases r; cases r'
      simp only [TileRun.mk.injEq] at hrr ⊢
      simp_all
    subst hreq
    have hsh := h.blocks r'.t.blk
    rw [hb] at hsh
    obtain ⟨b', hb', hs'⟩ := Option.map_eq_some_iff.1 hsh
    refine ⟨r', hr', b', hb', ?_⟩
    rw [← Block.shell_fields hs']

theorem OnlyLanes.block {s t : State} {ls : List Lane} (h : OnlyLanes s t ls) {k : Nat} {b : Block} (hb : s.block? k = some b) :
    ∃ b', t.block? k = some b' ∧ { b' with warps := b.warps } = b := by
  have hsh := h.blocks k
  rw [hb] at hsh
  obtain ⟨b', hb', hs'⟩ := Option.map_eq_some_iff.1 hsh
  exact ⟨b', hb', Block.shell_fields hs'⟩

theorem OnlyLanes.block_none {s t : State} {ls : List Lane} (h : OnlyLanes s t ls) {k : Nat} (hb : s.block? k = none) : t.block? k = none := by
  have hsh := h.blocks k
  rw [hb] at hsh
  simpa using hsh

theorem OnlyLanes.stopDue {s t : State} {ls : List Lane} (h : OnlyLanes s t ls) (e : Env) : t.stopDue e = s.stopDue e := by
  simp only [State.stopDue]
  cases e.lane with
  | tile c => rfl
  | thr u =>
    cases hb : s.block? e.blk with
    | none => simp [h.block_none hb]
    | some b =>
      obtain ⟨b', hb', hf⟩ := h.block hb
      simp only [hb', Option.bind_some]
      rw [← hf]

theorem OnlyLanes.isTwin {s t : State} {ls : List Lane} (h : OnlyLanes s t ls) (k : Nat) : t.isTwin k = s.isTwin k := by
  simp only [State.isTwin]
  cases hb : s.block? k with
  | none => simp [h.block_none hb]
  | some b =>
    obtain ⟨b', hb', hf⟩ := h.block hb
    rw [hb', ← hf]

theorem OnlyLanes.trailOf {s t : State} {ls : List Lane} (h : OnlyLanes s t ls) (e : Env) (op : Op) (sh : Shape) :
    t.trailOf e op sh = s.trailOf e op sh := by
  simp only [State.trailOf, State.scrWord, h.scr]

theorem Thread.trailAdd_live (th : Thread) (es : List TrailE) : (th.trailAdd es).live = th.live := by
  unfold Thread.trailAdd; split <;> rfl

/-! ## One participant -/

/-- A participant that stays in the clause, through a word that nothing turns it away from. -/
theorem passOne_stay {op : Op} {sh : Shape} {act : Act} {iss : Issue} {o : PassOut} {p : Nat × Lane} {e : Env} {s' : State}
    (he : o.s.env? p.2 (hdrSS iss.hdr) iss.pc iss.idx = some e) (hs : o.s.stopDue e = none) (hc : checkWord e.dec op.info sh = none)
    (hp : op.info.is .priv = true → e.sys = true) (hb : e.badRead op sh = false)
    (hr : e.th.search.trail.length + (o.s.trailOf e op sh).length ≤ trailMax) (ha : act o.s e = (s', .stay)) (hf : fixes op sh = false) :
    passOne op sh act iss o p = { o with s := s'.updLane e.lane (fun th => th.trailAdd (o.s.trailOf e op sh)), stay := o.stay ++ [p.1] } := by
  have hpr : (op.info.is .priv && !e.sys) = false := by
    cases h : op.info.is .priv
    · rfl
    · simp [hp h]
  have hr' : ¬ trailMax < e.th.search.trail.length + (o.s.trailOf e op sh).length := Nat.not_lt.2 hr
  simp only [passOne, he, hs, hc, hpr, hb, Bool.false_eq_true, if_false, trailed, ha, hf, hr', Bool.false_and]

/-! ## All participants of a word whose instruction touches only the thread that executes it -/

/-- The participants from some place on go through the word one after another. -/
theorem foldl_passOne_local {op : Op} {sh : Shape} {act : Act} {iss : Issue} {s : State} {R : Env → Thread → Prop}
    (hf : fixes op sh = false) (ps : List (Nat × Lane)) :
    ∀ (o : PassOut) (done : List Lane), OnlyLanes s o.s done → (done ++ ps.map (fun p => p.2)).Nodup →
    (∀ p ∈ ps, ∃ e, Sees s iss p.2 e ∧ Free s op sh e ∧ TrailRoom s op sh e) →
    (∀ s' e, (∃ l, Sees s iss l e) → (∃ ks, OnlyLanes s s' ks) → s'.lane? e.lane = some e.th →
      ∃ s'', act s' e = (s'', .stay) ∧ OnlyLanes s' s'' [e.lane] ∧ ∃ th, s''.lane? e.lane = some th ∧ R e th) →
    let r := ps.foldl (passOne op sh act iss) o
    OnlyLanes s r.s (done ++ ps.map (fun p => p.2)) ∧ r.stay = o.stay ++ ps.map (fun p => p.1) ∧ r.moved = o.moved ∧ r.waited = o.waited ∧
      (∀ l ∈ done, r.s.lane? l = o.s.lane? l) ∧
      ∀ p ∈ ps, ∀ e, Sees s iss p.2 e → ∃ th, R e th ∧ r.s.lane? p.2 = some (th.trailAdd (s.trailOf e op sh)) := by
  induction ps with
  | nil => intro o done h _ _ _; simpa using h
  | cons p ps ih =>
    intro o done h hnd hfree hact
    obtain ⟨e, hsee, hfr, hroom⟩ := hfree p List.mem_cons_self
    have hpl : e.lane = p.2 := State.env?_lane hsee
    have hpd : p.2 ∉ done := by
      intro hm
      exact (List.nodup_append.1 hnd).2.2 _ hm p.2 (by simp) rfl
    have hlane : o.s.lane? p.2 = s.lane? p.2 := h.lanes _ hpd
    have henv := h.env? hlane hsee
    have hth : o.s.lane? e.lane = some e.th := by rw [hpl, hlane]; exact State.env?_th hsee
    obtain ⟨s'', ha, hol, th, hth', hR⟩ := hact o.s e ⟨_, hsee⟩ ⟨_, h⟩ hth
    have hpass : passOne op sh act iss o p = { o with s := s''.updLane e.lane (fun th => th.trailAdd (s.trailOf e op sh)), stay := o.stay ++ [p.1] } := by
      rw [passOne_stay henv (by rw [h.stopDue]; exact hfr.noStop) hfr.decodes hfr.allowed hfr.clean
        (by rw [h.trailOf]; exact hroom) ha hf, h.trailOf]
    have hol2 := hol.trans (s''.onlyLanes_updLane e.lane (fun th => th.trailAdd (s.trailOf e op sh)) hth')
    have hlane2 := s''.lane?_updLane_same e.lane (fun th => th.trailAdd (s.trailOf e op sh)) hth'
    have hnew : OnlyLanes s (s''.updLane e.lane (fun th => th.trailAdd (s.trailOf e op sh))) (done ++ [p.2]) := by
      refine (h.trans hol2).mono fun l hl => ?_
      simp only [List.mem_append, List.mem_singleton, hpl, or_self] at hl ⊢
      exact hl
    have hnd2 : ((done ++ [p.2]) ++ ps.map (fun p => p.2)).Nodup := by simpa using hnd
    have := ih { o with s := s''.updLane e.lane (fun th => th.trailAdd (s.trailOf e op sh)), stay := o.stay ++ [p.1] } (done ++ [p.2]) hnew hnd2
      (fun q hq => hfree q (List.mem_cons_of_mem _ hq)) hact
    simp only [List.foldl_cons, hpass]
    obtain ⟨h1, h2, h3, h4, h5, h6⟩ := this
    refine ⟨by simpa using h1, by simpa using h2, h3, h4, fun l hl => ?_, fun q hq e' he' => ?_⟩
    · rw [h5 l (by simp [hl]), hol2.lanes l]
      intro hm
      simp only [hpl, List.mem_append, List.mem_singleton, or_self] at hm
      exact hpd (hm ▸ hl)
    · rcases List.mem_cons.1 hq with rfl | hq
      · have hee : e' = e := by simp only [Sees] at he' hsee; rw [hsee] at he'; exact (Option.some.inj he').symm
        subst hee
        exact ⟨th, hR, by rw [h5 q.2 (by simp), ← hpl]; exact hlane2⟩
      · exact h6 q hq e' he'

/-- The lane that a number of a pass stands for. -/
theorem Issue.parts_lane {iss : Issue} {p : Nat × Lane} (h : p ∈ iss.who.parts) :
    iss.who.lane p.1 = p.2 := by
  cases hw : iss.who with
  | lanes b w ms =>
    simp only [hw, Agent.parts, List.mem_map] at h
    obtain ⟨m, -, rfl⟩ := h
    rfl
  | tile c =>
    simp only [hw, Agent.parts, List.mem_singleton] at h
    subst h; rfl

/-- Threads that stand elsewhere, and nothing else. -/
theorem foldl_moveTo {s : State} {lane : Nat → Lane} {pc : DWord} {keep : Bool} (ms : List Nat) (hnd : (ms.map lane).Nodup)
    (hall : ∀ m ∈ ms, ∃ th, s.lane? (lane m) = some th) :
    let t := ms.foldl (fun s m => s.updLane (lane m) (fun th => th.moveTo pc keep)) s
    OnlyLanes s t (ms.map lane) ∧ ∀ m ∈ ms, ∀ th, s.lane? (lane m) = some th → t.lane? (lane m) = some (th.moveTo pc keep) := by
  induction ms generalizing s with
  | nil => exact ⟨OnlyLanes.refl s _, fun m hm => by simp at hm⟩
  | cons m ms ih =>
    obtain ⟨th, hth⟩ := hall m List.mem_cons_self
    have hnd' := (List.nodup_cons.1 (by simpa using hnd : (lane m :: ms.map lane).Nodup))
    have hol := s.onlyLanes_updLane (lane m) (fun th => th.moveTo pc keep) hth
    have hne : ∀ k ∈ ms, lane k ∉ [lane m] := fun k hk h => hnd'.1 (List.mem_map.2 ⟨k, hk, by simpa using h⟩)
    have := ih (s := s.updLane (lane m) (fun th => th.moveTo pc keep)) hnd'.2 fun k hk => by
      rw [hol.lanes _ (hne k hk)]; exact hall k (List.mem_cons_of_mem _ hk)
    obtain ⟨h1, h2⟩ := this
    refine ⟨(hol.trans h1).mono (by simp), fun k hk th' hth' => ?_⟩
    simp only [List.foldl_cons]
    by_cases hkm : lane k = lane m
    · rw [hkm] at hth' ⊢
      rw [h1.lanes _ hnd'.1, s.lane?_updLane_same _ _ hth']
    · rcases List.mem_cons.1 hk with rfl | hk
      · exact absurd rfl hkm
      · exact h2 k hk th' (by rw [hol.lanes _ (by simpa using hkm)]; exact hth')

/-- THE SPEC OF A PASS. A ready word whose instruction touches only the thread that executes it, and stays in the clause: the step answers a next
state in which nothing but the participants' threads differs, each as the instruction leaves it, with its trail entries, standing at the next
word or at the clause that follows. -/
theorem laneStep_local {s : State} {i : Instr} {op : Op} {sh : Shape} {iss : Issue} {rest : List Issue} {act : Act} {R : Env → Thread → Prop}
    (hr : Ready s i op sh iss rest) (hq : Quiet iss op sh) (hf : fixes op sh = false) (hlive : ∀ e th, R e th → th.live = e.th.live)
    (hact : ∀ s' e, (∃ l, Sees s iss l e) → (∃ ks, OnlyLanes s s' ks) → s'.lane? e.lane = some e.th →
      ∃ s'', act s' e = (s'', .stay) ∧ OnlyLanes s' s'' [e.lane] ∧ ∃ th, s''.lane? e.lane = some th ∧ R e th) :
    ∃ t, laneStep op sh act s = .next t ∧ OnlyLanes s t iss.lanes ∧
      ∀ l ∈ iss.lanes, ∀ e, Sees s iss l e → ∃ th, R e th ∧ t.lane? l = some (stands iss op sh (th.trailAdd (s.trailOf e op sh))) := by
  obtain ⟨-, hfront, hany, hnd, hgo, hfree⟩ := hr
  have hfold := foldl_passOne_local (s := s) (R := R) (act := act) (iss := iss) hf iss.who.parts ⟨s, [], [], false⟩ [] (OnlyLanes.refl s []) (by simpa [Issue.lanes] using hnd)
    (fun p hp => hfree p.2 (List.mem_map.2 ⟨p, hp, rfl⟩)) hact
  simp only [List.nil_append] at hfold
  obtain ⟨h1, h2, h3, h4, -, h6⟩ := hfold
  generalize ho : iss.who.parts.foldl (passOne op sh act iss) ⟨s, [], [], false⟩ = o at *
  have hw : laneStep op sh act s = .next (finishPass iss rest op sh o) := by
    simp [laneStep, hfront, hgo, ho, h4]
  rw [hw]
  refine ⟨_, rfl, ?_⟩
  have hlane : ∀ p ∈ iss.who.parts, iss.who.lane p.1 = p.2 :=
    fun p hp => Issue.parts_lane hp
  have hstay : o.staying iss.who = iss.who.parts.map (fun p => p.1) := by
    unfold PassOut.staying
    rw [h2]
    apply List.filter_eq_self.2
    intro m hm
    obtain ⟨p, hp, rfl⟩ := List.mem_map.1 hm
    obtain ⟨e, hsee, hfr, -⟩ := hfree p.2 (List.mem_map.2 ⟨p, hp, rfl⟩)
    obtain ⟨th, hR, hth⟩ := h6 p hp e hsee
    rw [hlane p hp, hth]
    simp only [Thread.trailAdd_live, hlive e th hR]
    exact hfr.live
  have hne : iss.who.parts.map (fun p => p.1) ≠ [] := by
    intro hnil
    apply hany
    simpa [Issue.lanes] using hnil
  simp only [finishPass, hstay]
  by_cases hl : (iss.after op sh).last = true
  · have hh : (iss.after op sh).hold = false := hq hl
    simp only [hl, hh, Bool.not_true, Bool.false_and, Bool.false_eq_true, if_false]
    have hmap : (iss.who.parts.map (fun p => p.1)).map iss.who.lane = iss.lanes := by
      simp only [List.map_map, Issue.lanes]
      exact List.map_congr_left fun p hp => hlane p hp
    have hmv := foldl_moveTo (s := o.s) (pc := (iss.after op sh).follow) (keep := false) (iss.who.parts.map (fun p => p.1))
      (lane := iss.who.lane) (by rw [hmap]; exact hnd)
      (fun m hm => by
        obtain ⟨p, hp, rfl⟩ := List.mem_map.1 hm
        obtain ⟨e, hsee, -, -⟩ := hfree p.2 (List.mem_map.2 ⟨p, hp, rfl⟩)
        obtain ⟨th, -, hth⟩ := h6 p hp e hsee
        simp only [hlane p hp]
        exact ⟨_, hth⟩)
    rw [hmap] at hmv
    have hol : OnlyLanes s _ iss.lanes := (h1.trans hmv.1).mono (by simp [Issue.lanes])
    refine ⟨hol.withIssues _, fun l hlm e hsee => ?_⟩
    obtain ⟨p, hp, rfl⟩ := List.mem_map.1 hlm
    obtain ⟨th, hR, hth⟩ := h6 p hp e hsee
    refine ⟨th, hR, ?_⟩
    have := hmv.2 p.1 (List.mem_map.2 ⟨p, hp, rfl⟩) _ (by rw [hlane p hp]; exact hth)
    rw [hlane p hp] at this
    rw [State.lane?_withIssues, this]
    simp only [stands, hl, if_true, Thread.moveTo, Bool.false_eq_true, if_false]
    rfl
  · have hl' : (iss.after op sh).last = false := by simpa using hl
    have hb : (iss.who.parts.map (fun p => p.1) != []) = true := by simpa using hne
    simp only [hl', hb, Bool.not_false, Bool.and_true, if_true]
    refine ⟨h1.withIssues _, fun l hlm e hsee => ?_⟩
    obtain ⟨p, hp, rfl⟩ := List.mem_map.1 hlm
    obtain ⟨th, hR, hth⟩ := h6 p hp e hsee
    refine ⟨th, hR, ?_⟩
    rw [State.lane?_withIssues, hth]
    simp [stands, hl']

end Sys2Proof.Machine
end

