-- ==== Sys2Proof/Laws/Gen.lean ====
section
/-!
SUPPORT. The spec of a word whose result goes to the executing thread alone: a GEN result in w or p, and a long-latency result that is known at
its issue.
-/

namespace Sys2Proof.Machine

@[simp] theorem Thread.result_live (th : Thread) (v : Word) (rs : List RegVal) : (th.result v rs).live = th.live := by
  simp [Thread.result, Thread.pushY]

/-- A step that gives the executing lane a new thread touches that lane only. -/
theorem State.setLane_local {s : State} {l : Lane} {th th' : Thread} (h : s.lane? l = some th) :
    OnlyLanes s (s.setLane l th') [l] ∧ (s.setLane l th').lane? l = some th' :=
  ⟨s.onlyLanes_updLane l _ h, s.lane?_updLane_same l _ h⟩

/-- A GEN instruction with a w result completes in every participant: the result is pushed, and written to D unless WBS is set. -/
theorem genW_does {i : Instr} {op : Op} {sh : Shape} {f : FmtA} {v : Env → Word} (hp : i.parts = some (op, sh)) (hf : fixes op sh = false)
    (hx : ∀ s, exec i s = laneStep op sh (genW f v) s) :
    Does i (fun _ => True) (fun _ e th => th = e.th.result (v e) (toW f.wbs f.d [v e])) := by
  intro s op' sh' iss rest es hr hq _ _
  obtain ⟨rfl, rfl⟩ : op = op' ∧ sh = sh' := by simpa [hp] using hr.word
  rw [hx]
  exact laneStep_local hr hq hf (fun e th h => by rw [h]; simp) fun s' e _ _ hl =>
    ⟨_, rfl, (State.setLane_local hl).1, _, (State.setLane_local hl).2, rfl⟩

/-- A GEN instruction with a predicate result completes in every participant. -/
theorem genP_does {i : Instr} {op : Op} {sh : Shape} {f : FmtA} {v : Env → Bool} (hp : i.parts = some (op, sh)) (hf : fixes op sh = false)
    (hx : ∀ s, exec i s = laneStep op sh (genP f v) s) :
    Does i (fun _ => True) (fun _ e th => th = e.th.result (boolWord (v e)) (toP f.wbs f.d (v e))) := by
  intro s op' sh' iss rest es hr hq _ _
  obtain ⟨rfl, rfl⟩ : op = op' ∧ sh = sh' := by simpa [hp] using hr.word
  rw [hx]
  exact laneStep_local hr hq hf (fun e th h => by rw [h]; simp) fun s' e _ _ hl =>
    ⟨_, rfl, (State.setLane_local hl).1, _, (State.setLane_local hl).2, rfl⟩

/-- What is owed to the executing lane touches that lane only: a thread is owed the result under the clause's slot, tile code has it at once. -/
theorem State.owe_local {s : State} {e : Env} {th : Thread} (wr : List RegVal) (h : s.lane? e.lane = some th) :
    OnlyLanes s (s.owe e true wr) [e.lane] ∧ ∃ th', (s.owe e true wr).lane? e.lane = some th' ∧
      (match e.lane with
       | .tile _ => th' = th.puts wr
       | .thr _ => if e.slot = 7 ∧ wr = [] then th' = th else ∃ tag, th' = { th with owed := th.owed ++ [⟨e.slot, tag, true, wr⟩] }) := by
  unfold State.owe
  cases hl : e.lane with
  | tile c =>
    rw [hl] at h
    exact ⟨s.onlyLanes_updLane _ _ h, _, s.lane?_updLane_same _ _ h, rfl⟩
  | thr t =>
    rw [hl] at h
    simp only [State.oweTo]
    split
    · exact ⟨OnlyLanes.refl s _, th, h, rfl⟩
    · have h1 : OnlyLanes s (s.updThread t (fun th => { th with owed := th.owed ++ [⟨e.slot, s.tags + 1, true, wr⟩] })) [.thr t] :=
        s.onlyLanes_updLane (.thr t) _ h
      exact ⟨(h1.trans (OnlyLanes.tags _ (s.tags + 1))).mono (by simp), _, s.lane?_updLane_same (.thr t) _ h, _, rfl⟩

/-- A long-latency instruction whose result is known at its issue completes in every participant. -/
theorem longRegs_does {i : Instr} {op : Op} {sh : Shape} {v : State → Env → List RegVal} {w : Env → List RegVal} (hp : i.parts = some (op, sh))
    (hf : fixes op sh = false) (hx : ∀ s, exec i s = laneStep op sh (longRegs v) s) (hv : ∀ s e, v s e = w e) :
    Does i (fun _ => True) (fun _ e th => match e.lane with
      | .tile _ => th = e.th.puts (w e)
      | .thr _ => if e.slot = 7 ∧ w e = [] then th = e.th else ∃ tag, th = { e.th with owed := e.th.owed ++ [⟨e.slot, tag, true, w e⟩] }) := by
  intro s op' sh' iss rest es hr hq _ _
  obtain ⟨rfl, rfl⟩ : op = op' ∧ sh = sh' := by simpa [hp] using hr.word
  rw [hx]
  refine laneStep_local hr hq hf (fun e th h => ?_) fun s' e _ _ hl => ?_
  · simp only at h
    split at h
    · rw [h]; simp
    · split at h
      · rw [h]
      · obtain ⟨tag, rfl⟩ := h; rfl
  · obtain ⟨h1, th, h2, h3⟩ := State.owe_local (w e) hl
    exact ⟨_, by simp [longRegs, hv], h1, th, h2, h3⟩

end Sys2Proof.Machine
end

