-- ==== Sys2Proof/Laws/PerInstr.lean ====
section
/-!
SUPPORT. Each instruction has one cell of the opcode map, and its operation and fields make it again: what decoding an encoded instruction rests
on.
-/

namespace Sys2Proof.Laws

/-- The instruction that an operation and the fields of its format make. -/
noncomputable def rebuilt (op : Op) (sh : Shape) : Option Instr :=
  match op.maker, sh with
  | .a mk, .a f => some (mk f)
  | .m mk, .m f => some (mk f)
  | .c mk, .c f => some (mk f)
  | .t mk, .t f => some (mk f)
  | .w mk, .w f => some (mk f)
  | .sw mk, .sw f => some (mk f)
  | .sb mk, .sb f => some (mk f)
  | _, _ => none

/-- The cell of the map at an instruction's class and key holds its operation, which with its fields makes it again; an event row has no class. -/
def OwnCell.Statement (i : Instr) : Prop :=
  match i.parts with
  | none => i.cls = none
  | some (op, sh) => opOf op.info.cls op.info.key.toNat = some op ∧ rebuilt op sh = some i

theorem OwnCell.iadd (f : FmtA) : OwnCell.Statement (.iadd f) := ⟨rfl, rfl⟩
theorem OwnCell.iaddSatI (f : FmtA) : OwnCell.Statement (.iaddSatI f) := ⟨rfl, rfl⟩
theorem OwnCell.iaddSatN (f : FmtA) : OwnCell.Statement (.iaddSatN f) := ⟨rfl, rfl⟩
theorem OwnCell.isub (f : FmtA) : OwnCell.Statement (.isub f) := ⟨rfl, rfl⟩
theorem OwnCell.isubSatI (f : FmtA) : OwnCell.Statement (.isubSatI f) := ⟨rfl, rfl⟩
theorem OwnCell.isubSatN (f : FmtA) : OwnCell.Statement (.isubSatN f) := ⟨rfl, rfl⟩
theorem OwnCell.imul (f : FmtA) : OwnCell.Statement (.imul f) := ⟨rfl, rfl⟩
theorem OwnCell.imulHiI (f : FmtA) : OwnCell.Statement (.imulHiI f) := ⟨rfl, rfl⟩
theorem OwnCell.imulHiN (f : FmtA) : OwnCell.Statement (.imulHiN f) := ⟨rfl, rfl⟩
theorem OwnCell.imad (f : FmtA) : OwnCell.Statement (.imad f) := ⟨rfl, rfl⟩
theorem OwnCell.iminI (f : FmtA) : OwnCell.Statement (.iminI f) := ⟨rfl, rfl⟩
theorem OwnCell.iminN (f : FmtA) : OwnCell.Statement (.iminN f) := ⟨rfl, rfl⟩
theorem OwnCell.imaxI (f : FmtA) : OwnCell.Statement (.imaxI f) := ⟨rfl, rfl⟩
theorem OwnCell.imaxN (f : FmtA) : OwnCell.Statement (.imaxN f) := ⟨rfl, rfl⟩
theorem OwnCell.and (f : FmtA) : OwnCell.Statement (.and f) := ⟨rfl, rfl⟩
theorem OwnCell.or (f : FmtA) : OwnCell.Statement (.or f) := ⟨rfl, rfl⟩
theorem OwnCell.xor (f : FmtA) : OwnCell.Statement (.xor f) := ⟨rfl, rfl⟩
theorem OwnCell.andn (f : FmtA) : OwnCell.Statement (.andn f) := ⟨rfl, rfl⟩
theorem OwnCell.shl (f : FmtA) : OwnCell.Statement (.shl f) := ⟨rfl, rfl⟩
theorem OwnCell.shr (f : FmtA) : OwnCell.Statement (.shr f) := ⟨rfl, rfl⟩
theorem OwnCell.sar (f : FmtA) : OwnCell.Statement (.sar f) := ⟨rfl, rfl⟩
theorem OwnCell.rol (f : FmtA) : OwnCell.Statement (.rol f) := ⟨rfl, rfl⟩
theorem OwnCell.popc (f : FmtA) : OwnCell.Statement (.popc f) := ⟨rfl, rfl⟩
theorem OwnCell.clz (f : FmtA) : OwnCell.Statement (.clz f) := ⟨rfl, rfl⟩
theorem OwnCell.brev (f : FmtA) : OwnCell.Statement (.brev f) := ⟨rfl, rfl⟩
theorem OwnCell.ctz (f : FmtA) : OwnCell.Statement (.ctz f) := ⟨rfl, rfl⟩
theorem OwnCell.bfxN (f : FmtA) : OwnCell.Statement (.bfxN f) := ⟨rfl, rfl⟩
theorem OwnCell.bfxI (f : FmtA) : OwnCell.Statement (.bfxI f) := ⟨rfl, rfl⟩
theorem OwnCell.bfi (f : FmtA) : OwnCell.Statement (.bfi f) := ⟨rfl, rfl⟩
theorem OwnCell.icmpEq (f : FmtA) : OwnCell.Statement (.icmpEq f) := ⟨rfl, rfl⟩
theorem OwnCell.icmpNe (f : FmtA) : OwnCell.Statement (.icmpNe f) := ⟨rfl, rfl⟩
theorem OwnCell.icmpLtI (f : FmtA) : OwnCell.Statement (.icmpLtI f) := ⟨rfl, rfl⟩
theorem OwnCell.icmpLtN (f : FmtA) : OwnCell.Statement (.icmpLtN f) := ⟨rfl, rfl⟩
theorem OwnCell.icmpLeI (f : FmtA) : OwnCell.Statement (.icmpLeI f) := ⟨rfl, rfl⟩
theorem OwnCell.icmpLeN (f : FmtA) : OwnCell.Statement (.icmpLeN f) := ⟨rfl, rfl⟩
theorem OwnCell.icmpTst (f : FmtA) : OwnCell.Statement (.icmpTst f) := ⟨rfl, rfl⟩
theorem OwnCell.sel (fn : BitVec 2) (f : FmtA) : OwnCell.Statement (.sel fn f) := by
  have h : fn = 0 ∨ fn = 1 ∨ fn = 2 ∨ fn = 3 := by bv_omega
  rcases h with rfl | rfl | rfl | rfl <;> exact ⟨rfl, rfl⟩
theorem OwnCell.mov (f : FmtA) : OwnCell.Statement (.mov f) := ⟨rfl, rfl⟩
theorem OwnCell.xrd (f : FmtA) : OwnCell.Statement (.xrd f) := ⟨rfl, rfl⟩
theorem OwnCell.xwr (f : FmtA) : OwnCell.Statement (.xwr f) := ⟨rfl, rfl⟩
theorem OwnCell.xset (f : FmtA) : OwnCell.Statement (.xset f) := ⟨rfl, rfl⟩
theorem OwnCell.pand (f : FmtA) : OwnCell.Statement (.pand f) := ⟨rfl, rfl⟩
theorem OwnCell.por (f : FmtA) : OwnCell.Statement (.por f) := ⟨rfl, rfl⟩
theorem OwnCell.pxor (f : FmtA) : OwnCell.Statement (.pxor f) := ⟨rfl, rfl⟩
theorem OwnCell.pnot (f : FmtA) : OwnCell.Statement (.pnot f) := ⟨rfl, rfl⟩
theorem OwnCell.smov (f : FmtA) : OwnCell.Statement (.smov f) := ⟨rfl, rfl⟩
theorem OwnCell.sadd (f : FmtA) : OwnCell.Statement (.sadd f) := ⟨rfl, rfl⟩
theorem OwnCell.sand (f : FmtA) : OwnCell.Statement (.sand f) := ⟨rfl, rfl⟩
theorem OwnCell.sshl (f : FmtA) : OwnCell.Statement (.sshl f) := ⟨rfl, rfl⟩
theorem OwnCell.adda (f : FmtA) : OwnCell.Statement (.adda f) := ⟨rfl, rfl⟩
theorem OwnCell.addaX4 (f : FmtA) : OwnCell.Statement (.addaX4 f) := ⟨rfl, rfl⟩
theorem OwnCell.addaX16 (f : FmtA) : OwnCell.Statement (.addaX16 f) := ⟨rfl, rfl⟩
theorem OwnCell.suba (f : FmtA) : OwnCell.Statement (.suba f) := ⟨rfl, rfl⟩
theorem OwnCell.rdl (f : FmtA) : OwnCell.Statement (.rdl f) := ⟨rfl, rfl⟩
theorem OwnCell.br (f : FmtC) : OwnCell.Statement (.br f) := ⟨rfl, rfl⟩
theorem OwnCell.brIfP (f : FmtC) : OwnCell.Statement (.brIfP f) := ⟨rfl, rfl⟩
theorem OwnCell.brIfNotP (f : FmtC) : OwnCell.Statement (.brIfNotP f) := ⟨rfl, rfl⟩
theorem OwnCell.call (f : FmtC) : OwnCell.Statement (.call f) := ⟨rfl, rfl⟩
theorem OwnCell.callIndirect (f : FmtA) : OwnCell.Statement (.callIndirect f) := ⟨rfl, rfl⟩
theorem OwnCell.ret (f : FmtA) : OwnCell.Statement (.ret f) := ⟨rfl, rfl⟩
theorem OwnCell.switch (f : FmtSwitch) : OwnCell.Statement (.switch f) := ⟨rfl, rfl⟩
theorem OwnCell.voteAny (f : FmtA) : OwnCell.Statement (.voteAny f) := ⟨rfl, rfl⟩
theorem OwnCell.voteAll (f : FmtA) : OwnCell.Statement (.voteAll f) := ⟨rfl, rfl⟩
theorem OwnCell.voteBallot (f : FmtA) : OwnCell.Statement (.voteBallot f) := ⟨rfl, rfl⟩
theorem OwnCell.voteCnt (f : FmtA) : OwnCell.Statement (.voteCnt f) := ⟨rfl, rfl⟩
theorem OwnCell.exit (f : FmtA) : OwnCell.Statement (.exit f) := ⟨rfl, rfl⟩
theorem OwnCell.yield (f : FmtA) : OwnCell.Statement (.yield f) := ⟨rfl, rfl⟩
theorem OwnCell.nop (f : FmtA) : OwnCell.Statement (.nop f) := ⟨rfl, rfl⟩
theorem OwnCell.tryMark (f : FmtT) : OwnCell.Statement (.tryMark f) := ⟨rfl, rfl⟩
theorem OwnCell.fail (f : FmtC) : OwnCell.Statement (.fail f) := ⟨rfl, rfl⟩
theorem OwnCell.failIfP (f : FmtC) : OwnCell.Statement (.failIfP f) := ⟨rfl, rfl⟩
theorem OwnCell.failIfNotP (f : FmtC) : OwnCell.Statement (.failIfNotP f) := ⟨rfl, rfl⟩
theorem OwnCell.cut (f : FmtA) : OwnCell.Statement (.cut f) := ⟨rfl, rfl⟩
theorem OwnCell.cutall (f : FmtA) : OwnCell.Statement (.cutall f) := ⟨rfl, rfl⟩
theorem OwnCell.depth (f : FmtA) : OwnCell.Statement (.depth f) := ⟨rfl, rfl⟩
theorem OwnCell.alts (f : FmtA) : OwnCell.Statement (.alts f) := ⟨rfl, rfl⟩
theorem OwnCell.sbegin (f : FmtSbegin) : OwnCell.Statement (.sbegin f) := ⟨rfl, rfl⟩
theorem OwnCell.send (f : FmtA) : OwnCell.Statement (.send f) := ⟨rfl, rfl⟩
theorem OwnCell.glean (f : FmtC) : OwnCell.Statement (.glean f) := ⟨rfl, rfl⟩
theorem OwnCell.fadd (f : FmtA) : OwnCell.Statement (.fadd f) := ⟨rfl, rfl⟩
theorem OwnCell.faddRz (f : FmtA) : OwnCell.Statement (.faddRz f) := ⟨rfl, rfl⟩
theorem OwnCell.faddRu (f : FmtA) : OwnCell.Statement (.faddRu f) := ⟨rfl, rfl⟩
theorem OwnCell.faddRd (f : FmtA) : OwnCell.Statement (.faddRd f) := ⟨rfl, rfl⟩
theorem OwnCell.fsub (f : FmtA) : OwnCell.Statement (.fsub f) := ⟨rfl, rfl⟩
theorem OwnCell.fsubRz (f : FmtA) : OwnCell.Statement (.fsubRz f) := ⟨rfl, rfl⟩
theorem OwnCell.fsubRu (f : FmtA) : OwnCell.Statement (.fsubRu f) := ⟨rfl, rfl⟩
theorem OwnCell.fsubRd (f : FmtA) : OwnCell.Statement (.fsubRd f) := ⟨rfl, rfl⟩
theorem OwnCell.fmul (f : FmtA) : OwnCell.Statement (.fmul f) := ⟨rfl, rfl⟩
theorem OwnCell.fmulRz (f : FmtA) : OwnCell.Statement (.fmulRz f) := ⟨rfl, rfl⟩
theorem OwnCell.fmulRu (f : FmtA) : OwnCell.Statement (.fmulRu f) := ⟨rfl, rfl⟩
theorem OwnCell.fmulRd (f : FmtA) : OwnCell.Statement (.fmulRd f) := ⟨rfl, rfl⟩
theorem OwnCell.ffma (f : FmtA) : OwnCell.Statement (.ffma f) := ⟨rfl, rfl⟩
theorem OwnCell.ffmaRz (f : FmtA) : OwnCell.Statement (.ffmaRz f) := ⟨rfl, rfl⟩
theorem OwnCell.ffmaRu (f : FmtA) : OwnCell.Statement (.ffmaRu f) := ⟨rfl, rfl⟩
theorem OwnCell.ffmaRd (f : FmtA) : OwnCell.Statement (.ffmaRd f) := ⟨rfl, rfl⟩
theorem OwnCell.fmin (f : FmtA) : OwnCell.Statement (.fmin f) := ⟨rfl, rfl⟩
theorem OwnCell.fmax (f : FmtA) : OwnCell.Statement (.fmax f) := ⟨rfl, rfl⟩
theorem OwnCell.fminnum (f : FmtA) : OwnCell.Statement (.fminnum f) := ⟨rfl, rfl⟩
theorem OwnCell.fmaxnum (f : FmtA) : OwnCell.Statement (.fmaxnum f) := ⟨rfl, rfl⟩
theorem OwnCell.fcmpEq (f : FmtA) : OwnCell.Statement (.fcmpEq f) := ⟨rfl, rfl⟩
theorem OwnCell.fcmpLt (f : FmtA) : OwnCell.Statement (.fcmpLt f) := ⟨rfl, rfl⟩
theorem OwnCell.fcmpLe (f : FmtA) : OwnCell.Statement (.fcmpLe f) := ⟨rfl, rfl⟩
theorem OwnCell.fcmpUn (f : FmtA) : OwnCell.Statement (.fcmpUn f) := ⟨rfl, rfl⟩
theorem OwnCell.hadd2 (f : FmtA) : OwnCell.Statement (.hadd2 f) := ⟨rfl, rfl⟩
theorem OwnCell.hsub2 (f : FmtA) : OwnCell.Statement (.hsub2 f) := ⟨rfl, rfl⟩
theorem OwnCell.hmul2 (f : FmtA) : OwnCell.Statement (.hmul2 f) := ⟨rfl, rfl⟩
theorem OwnCell.hfma2 (f : FmtA) : OwnCell.Statement (.hfma2 f) := ⟨rfl, rfl⟩
theorem OwnCell.fabs (f : FmtA) : OwnCell.Statement (.fabs f) := ⟨rfl, rfl⟩
theorem OwnCell.fneg (f : FmtA) : OwnCell.Statement (.fneg f) := ⟨rfl, rfl⟩
theorem OwnCell.fcpsgn (f : FmtA) : OwnCell.Statement (.fcpsgn f) := ⟨rfl, rfl⟩
theorem OwnCell.fclass (f : FmtA) : OwnCell.Statement (.fclass f) := ⟨rfl, rfl⟩
theorem OwnCell.cvtBf16F32 (f : FmtA) : OwnCell.Statement (.cvtBf16F32 f) := ⟨rfl, rfl⟩
theorem OwnCell.cvtBf16F32Sr (f : FmtA) : OwnCell.Statement (.cvtBf16F32Sr f) := ⟨rfl, rfl⟩
theorem OwnCell.cvtF32Bf16 (f : FmtA) : OwnCell.Statement (.cvtF32Bf16 f) := ⟨rfl, rfl⟩
theorem OwnCell.cvtF32I32 (f : FmtA) : OwnCell.Statement (.cvtF32I32 f) := ⟨rfl, rfl⟩
theorem OwnCell.cvtI32F32RzSat (f : FmtA) : OwnCell.Statement (.cvtI32F32RzSat f) := ⟨rfl, rfl⟩
theorem OwnCell.cvtI32F32Sat (f : FmtA) : OwnCell.Statement (.cvtI32F32Sat f) := ⟨rfl, rfl⟩
theorem OwnCell.cvtF32N32 (f : FmtA) : OwnCell.Statement (.cvtF32N32 f) := ⟨rfl, rfl⟩
theorem OwnCell.cvtN32F32RzSat (f : FmtA) : OwnCell.Statement (.cvtN32F32RzSat f) := ⟨rfl, rfl⟩
theorem OwnCell.cvtE4m3 (f : FmtA) : OwnCell.Statement (.cvtE4m3 f) := ⟨rfl, rfl⟩
theorem OwnCell.cvtE4m3Sr (f : FmtA) : OwnCell.Statement (.cvtE4m3Sr f) := ⟨rfl, rfl⟩
theorem OwnCell.cvtE5m2 (f : FmtA) : OwnCell.Statement (.cvtE5m2 f) := ⟨rfl, rfl⟩
theorem OwnCell.cvtE5m2Sr (f : FmtA) : OwnCell.Statement (.cvtE5m2Sr f) := ⟨rfl, rfl⟩
theorem OwnCell.cvtF32E4m3 (f : FmtA) : OwnCell.Statement (.cvtF32E4m3 f) := ⟨rfl, rfl⟩
theorem OwnCell.cvtF32E5m2 (f : FmtA) : OwnCell.Statement (.cvtF32E5m2 f) := ⟨rfl, rfl⟩
theorem OwnCell.pack2 (f : FmtA) : OwnCell.Statement (.pack2 f) := ⟨rfl, rfl⟩
theorem OwnCell.ld16 (f : FmtM) : OwnCell.Statement (.ld16 f) := ⟨rfl, rfl⟩
theorem OwnCell.ld32 (f : FmtM) : OwnCell.Statement (.ld32 f) := ⟨rfl, rfl⟩
theorem OwnCell.ld64 (f : FmtM) : OwnCell.Statement (.ld64 f) := ⟨rfl, rfl⟩
theorem OwnCell.ld128 (f : FmtM) : OwnCell.Statement (.ld128 f) := ⟨rfl, rfl⟩
theorem OwnCell.ld16S (f : FmtM) : OwnCell.Statement (.ld16S f) := ⟨rfl, rfl⟩
theorem OwnCell.ldb (f : FmtM) : OwnCell.Statement (.ldb f) := ⟨rfl, rfl⟩
theorem OwnCell.ldbs (f : FmtM) : OwnCell.Statement (.ldbs f) := ⟨rfl, rfl⟩
theorem OwnCell.st8 (f : FmtM) : OwnCell.Statement (.st8 f) := ⟨rfl, rfl⟩
theorem OwnCell.st16 (f : FmtM) : OwnCell.Statement (.st16 f) := ⟨rfl, rfl⟩
theorem OwnCell.st32 (f : FmtM) : OwnCell.Statement (.st32 f) := ⟨rfl, rfl⟩
theorem OwnCell.st64 (f : FmtM) : OwnCell.Statement (.st64 f) := ⟨rfl, rfl⟩
theorem OwnCell.st128 (f : FmtM) : OwnCell.Statement (.st128 f) := ⟨rfl, rfl⟩
theorem OwnCell.ldeF32 (f : FmtA) : OwnCell.Statement (.ldeF32 f) := ⟨rfl, rfl⟩
theorem OwnCell.ldeBf16x2 (f : FmtA) : OwnCell.Statement (.ldeBf16x2 f) := ⟨rfl, rfl⟩
theorem OwnCell.ldexp (f : FmtA) : OwnCell.Statement (.ldexp f) := ⟨rfl, rfl⟩
theorem OwnCell.steF32 (f : FmtA) : OwnCell.Statement (.steF32 f) := ⟨rfl, rfl⟩
theorem OwnCell.steBf16x2 (f : FmtA) : OwnCell.Statement (.steBf16x2 f) := ⟨rfl, rfl⟩
theorem OwnCell.lds32 (f : FmtM) : OwnCell.Statement (.lds32 f) := ⟨rfl, rfl⟩
theorem OwnCell.lds64 (f : FmtM) : OwnCell.Statement (.lds64 f) := ⟨rfl, rfl⟩
theorem OwnCell.lds128 (f : FmtM) : OwnCell.Statement (.lds128 f) := ⟨rfl, rfl⟩
theorem OwnCell.lds16 (f : FmtM) : OwnCell.Statement (.lds16 f) := ⟨rfl, rfl⟩
theorem OwnCell.sts32 (f : FmtM) : OwnCell.Statement (.sts32 f) := ⟨rfl, rfl⟩
theorem OwnCell.sts64 (f : FmtM) : OwnCell.Statement (.sts64 f) := ⟨rfl, rfl⟩
theorem OwnCell.sts128 (f : FmtM) : OwnCell.Statement (.sts128 f) := ⟨rfl, rfl⟩
theorem OwnCell.sts16 (f : FmtM) : OwnCell.Statement (.sts16 f) := ⟨rfl, rfl⟩
theorem OwnCell.ldc32 (f : FmtM) : OwnCell.Statement (.ldc32 f) := ⟨rfl, rfl⟩
theorem OwnCell.stc32 (f : FmtM) : OwnCell.Statement (.stc32 f) := ⟨rfl, rfl⟩
theorem OwnCell.gjoin (f : FmtA) : OwnCell.Statement (.gjoin f) := ⟨rfl, rfl⟩
theorem OwnCell.gleave (f : FmtA) : OwnCell.Statement (.gleave f) := ⟨rfl, rfl⟩
theorem OwnCell.silowait (f : FmtA) : OwnCell.Statement (.silowait f) := ⟨rfl, rfl⟩
theorem OwnCell.silost (f : FmtA) : OwnCell.Statement (.silost f) := ⟨rfl, rfl⟩
theorem OwnCell.pref (f : FmtM) : OwnCell.Statement (.pref f) := ⟨rfl, rfl⟩
theorem OwnCell.spill (f : FmtM) : OwnCell.Statement (.spill f) := ⟨rfl, rfl⟩
theorem OwnCell.fill (f : FmtM) : OwnCell.Statement (.fill f) := ⟨rfl, rfl⟩
theorem OwnCell.eput (f : FmtA) : OwnCell.Statement (.eput f) := ⟨rfl, rfl⟩
theorem OwnCell.ego (f : FmtA) : OwnCell.Statement (.ego f) := ⟨rfl, rfl⟩
theorem OwnCell.epoll (f : FmtA) : OwnCell.Statement (.epoll f) := ⟨rfl, rfl⟩
theorem OwnCell.alloc (f : FmtA) : OwnCell.Statement (.alloc f) := ⟨rfl, rfl⟩
theorem OwnCell.free (f : FmtA) : OwnCell.Statement (.free f) := ⟨rfl, rfl⟩
theorem OwnCell.atomAdd (f : FmtM) : OwnCell.Statement (.atomAdd f) := ⟨rfl, rfl⟩
theorem OwnCell.atomMaxI (f : FmtM) : OwnCell.Statement (.atomMaxI f) := ⟨rfl, rfl⟩
theorem OwnCell.atomMinI (f : FmtM) : OwnCell.Statement (.atomMinI f) := ⟨rfl, rfl⟩
theorem OwnCell.atomExch (f : FmtM) : OwnCell.Statement (.atomExch f) := ⟨rfl, rfl⟩
theorem OwnCell.atomCas (f : FmtM) : OwnCell.Statement (.atomCas f) := ⟨rfl, rfl⟩
theorem OwnCell.atomOr (f : FmtM) : OwnCell.Statement (.atomOr f) := ⟨rfl, rfl⟩
theorem OwnCell.atomAnd (f : FmtM) : OwnCell.Statement (.atomAnd f) := ⟨rfl, rfl⟩
theorem OwnCell.atomFadd2 (f : FmtM) : OwnCell.Statement (.atomFadd2 f) := ⟨rfl, rfl⟩
theorem OwnCell.atomAdd64 (f : FmtM) : OwnCell.Statement (.atomAdd64 f) := ⟨rfl, rfl⟩
theorem OwnCell.atomCas64 (f : FmtM) : OwnCell.Statement (.atomCas64 f) := ⟨rfl, rfl⟩
theorem OwnCell.atomExch64 (f : FmtM) : OwnCell.Statement (.atomExch64 f) := ⟨rfl, rfl⟩
theorem OwnCell.redxF (f : FmtM) : OwnCell.Statement (.redxF f) := ⟨rfl, rfl⟩
theorem OwnCell.redxI (f : FmtM) : OwnCell.Statement (.redxI f) := ⟨rfl, rfl⟩
theorem OwnCell.binrd (f : FmtM) : OwnCell.Statement (.binrd f) := ⟨rfl, rfl⟩
theorem OwnCell.binclr (f : FmtM) : OwnCell.Statement (.binclr f) := ⟨rfl, rfl⟩
theorem OwnCell.bind (f : FmtA) : OwnCell.Statement (.bind f) := ⟨rfl, rfl⟩
theorem OwnCell.acqX (f : FmtA) : OwnCell.Statement (.acqX f) := ⟨rfl, rfl⟩
theorem OwnCell.acqS (f : FmtA) : OwnCell.Statement (.acqS f) := ⟨rfl, rfl⟩
theorem OwnCell.rel (f : FmtA) : OwnCell.Statement (.rel f) := ⟨rfl, rfl⟩
theorem OwnCell.acqtryX (f : FmtA) : OwnCell.Statement (.acqtryX f) := ⟨rfl, rfl⟩
theorem OwnCell.unbind (f : FmtA) : OwnCell.Statement (.unbind f) := ⟨rfl, rfl⟩
theorem OwnCell.fence (f : FmtA) : OwnCell.Statement (.fence f) := ⟨rfl, rfl⟩
theorem OwnCell.bar (f : FmtA) : OwnCell.Statement (.bar f) := ⟨rfl, rfl⟩
theorem OwnCell.arrive (f : FmtA) : OwnCell.Statement (.arrive f) := ⟨rfl, rfl⟩
theorem OwnCell.arriveDrop (f : FmtA) : OwnCell.Statement (.arriveDrop f) := ⟨rfl, rfl⟩
theorem OwnCell.arriveJoin (f : FmtA) : OwnCell.Statement (.arriveJoin f) := ⟨rfl, rfl⟩
theorem OwnCell.barwait (f : FmtA) : OwnCell.Statement (.barwait f) := ⟨rfl, rfl⟩
theorem OwnCell.bartest (f : FmtA) : OwnCell.Statement (.bartest f) := ⟨rfl, rfl⟩
theorem OwnCell.gbar (f : FmtA) : OwnCell.Statement (.gbar f) := ⟨rfl, rfl⟩
theorem OwnCell.swarm (f : FmtA) : OwnCell.Statement (.swarm f) := ⟨rfl, rfl⟩
theorem OwnCell.swwait (f : FmtA) : OwnCell.Statement (.swwait f) := ⟨rfl, rfl⟩
theorem OwnCell.swtest (f : FmtA) : OwnCell.Statement (.swtest f) := ⟨rfl, rfl⟩
theorem OwnCell.tlwait (f : FmtA) : OwnCell.Statement (.tlwait f) := ⟨rfl, rfl⟩
theorem OwnCell.tlread (f : FmtA) : OwnCell.Statement (.tlread f) := ⟨rfl, rfl⟩
theorem OwnCell.tltest (f : FmtA) : OwnCell.Statement (.tltest f) := ⟨rfl, rfl⟩
theorem OwnCell.pharr (f : FmtA) : OwnCell.Statement (.pharr f) := ⟨rfl, rfl⟩
theorem OwnCell.phwait (f : FmtA) : OwnCell.Statement (.phwait f) := ⟨rfl, rfl⟩
theorem OwnCell.phset (f : FmtA) : OwnCell.Statement (.phset f) := ⟨rfl, rfl⟩
theorem OwnCell.phstat (f : FmtA) : OwnCell.Statement (.phstat f) := ⟨rfl, rfl⟩
theorem OwnCell.plaunch (f : FmtA) : OwnCell.Statement (.plaunch f) := ⟨rfl, rfl⟩
theorem OwnCell.pcancel (f : FmtA) : OwnCell.Statement (.pcancel f) := ⟨rfl, rfl⟩
theorem OwnCell.pi (f : FmtA) : OwnCell.Statement (.pi f) := ⟨rfl, rfl⟩
theorem OwnCell.pj (f : FmtA) : OwnCell.Statement (.pj f) := ⟨rfl, rfl⟩
theorem OwnCell.ptag (f : FmtA) : OwnCell.Statement (.ptag f) := ⟨rfl, rfl⟩
theorem OwnCell.pcell (f : FmtA) : OwnCell.Statement (.pcell f) := ⟨rfl, rfl⟩
theorem OwnCell.pdx (f : FmtA) : OwnCell.Statement (.pdx f) := ⟨rfl, rfl⟩
theorem OwnCell.pdy (f : FmtA) : OwnCell.Statement (.pdy f) := ⟨rfl, rfl⟩
theorem OwnCell.pdz (f : FmtA) : OwnCell.Statement (.pdz f) := ⟨rfl, rfl⟩
theorem OwnCell.pdsq (f : FmtA) : OwnCell.Statement (.pdsq f) := ⟨rfl, rfl⟩
theorem OwnCell.preci (f : FmtA) : OwnCell.Statement (.preci f) := ⟨rfl, rfl⟩
theorem OwnCell.precj (f : FmtA) : OwnCell.Statement (.precj f) := ⟨rfl, rfl⟩
theorem OwnCell.preci2 (f : FmtA) : OwnCell.Statement (.preci2 f) := ⟨rfl, rfl⟩
theorem OwnCell.precj2 (f : FmtA) : OwnCell.Statement (.precj2 f) := ⟨rfl, rfl⟩
theorem OwnCell.pconOpp (f : FmtA) : OwnCell.Statement (.pconOpp f) := ⟨rfl, rfl⟩
theorem OwnCell.pconSym (f : FmtA) : OwnCell.Statement (.pconSym f) := ⟨rfl, rfl⟩
theorem OwnCell.pconI (f : FmtA) : OwnCell.Statement (.pconI f) := ⟨rfl, rfl⟩
theorem OwnCell.pconJ (f : FmtA) : OwnCell.Statement (.pconJ f) := ⟨rfl, rfl⟩
theorem OwnCell.pdrop (f : FmtA) : OwnCell.Statement (.pdrop f) := ⟨rfl, rfl⟩
theorem OwnCell.pkq (f : FmtA) : OwnCell.Statement (.pkq f) := ⟨rfl, rfl⟩
theorem OwnCell.pkg (f : FmtA) : OwnCell.Statement (.pkg f) := ⟨rfl, rfl⟩
theorem OwnCell.pkstat (f : FmtA) : OwnCell.Statement (.pkstat f) := ⟨rfl, rfl⟩
theorem OwnCell.frcp (f : FmtA) : OwnCell.Statement (.frcp f) := ⟨rfl, rfl⟩
theorem OwnCell.frsq (f : FmtA) : OwnCell.Statement (.frsq f) := ⟨rfl, rfl⟩
theorem OwnCell.fsqrt (f : FmtA) : OwnCell.Statement (.fsqrt f) := ⟨rfl, rfl⟩
theorem OwnCell.fdiv (f : FmtA) : OwnCell.Statement (.fdiv f) := ⟨rfl, rfl⟩
theorem OwnCell.fexp2 (f : FmtA) : OwnCell.Statement (.fexp2 f) := ⟨rfl, rfl⟩
theorem OwnCell.flog2 (f : FmtA) : OwnCell.Statement (.flog2 f) := ⟨rfl, rfl⟩
theorem OwnCell.fexp (f : FmtA) : OwnCell.Statement (.fexp f) := ⟨rfl, rfl⟩
theorem OwnCell.ftanh (f : FmtA) : OwnCell.Statement (.ftanh f) := ⟨rfl, rfl⟩
theorem OwnCell.fsin (f : FmtA) : OwnCell.Statement (.fsin f) := ⟨rfl, rfl⟩
theorem OwnCell.fcos (f : FmtA) : OwnCell.Statement (.fcos f) := ⟨rfl, rfl⟩
theorem OwnCell.fsincos (f : FmtA) : OwnCell.Statement (.fsincos f) := ⟨rfl, rfl⟩
theorem OwnCell.qclr (f : FmtA) : OwnCell.Statement (.qclr f) := ⟨rfl, rfl⟩
theorem OwnCell.qaddf (f : FmtA) : OwnCell.Statement (.qaddf f) := ⟨rfl, rfl⟩
theorem OwnCell.qdot2 (f : FmtA) : OwnCell.Statement (.qdot2 f) := ⟨rfl, rfl⟩
theorem OwnCell.qsubf (f : FmtA) : OwnCell.Statement (.qsubf f) := ⟨rfl, rfl⟩
theorem OwnCell.qrnd (f : FmtA) : OwnCell.Statement (.qrnd f) := ⟨rfl, rfl⟩
theorem OwnCell.qrndh (f : FmtA) : OwnCell.Statement (.qrndh f) := ⟨rfl, rfl⟩
theorem OwnCell.qwin (f : FmtA) : OwnCell.Statement (.qwin f) := ⟨rfl, rfl⟩
theorem OwnCell.qred (f : FmtA) : OwnCell.Statement (.qred f) := ⟨rfl, rfl⟩
theorem OwnCell.swap1 (f : FmtA) : OwnCell.Statement (.swap1 f) := ⟨rfl, rfl⟩
theorem OwnCell.shfl (f : FmtA) : OwnCell.Statement (.shfl f) := ⟨rfl, rfl⟩
theorem OwnCell.shflx (f : FmtA) : OwnCell.Statement (.shflx f) := ⟨rfl, rfl⟩
theorem OwnCell.scan (f : FmtA) : OwnCell.Statement (.scan f) := ⟨rfl, rfl⟩
theorem OwnCell.rankf (f : FmtA) : OwnCell.Statement (.rankf f) := ⟨rfl, rfl⟩
theorem OwnCell.ranki (f : FmtA) : OwnCell.Statement (.ranki f) := ⟨rfl, rfl⟩
theorem OwnCell.maxw (f : FmtA) : OwnCell.Statement (.maxw f) := ⟨rfl, rfl⟩
theorem OwnCell.minw (f : FmtA) : OwnCell.Statement (.minw f) := ⟨rfl, rfl⟩
theorem OwnCell.rnd32 (f : FmtA) : OwnCell.Statement (.rnd32 f) := ⟨rfl, rfl⟩
theorem OwnCell.rndf (f : FmtA) : OwnCell.Statement (.rndf f) := ⟨rfl, rfl⟩
theorem OwnCell.qsave (f : FmtA) : OwnCell.Statement (.qsave f) := ⟨rfl, rfl⟩
theorem OwnCell.qload (f : FmtA) : OwnCell.Statement (.qload f) := ⟨rfl, rfl⟩
theorem OwnCell.qscan (f : FmtA) : OwnCell.Statement (.qscan f) := ⟨rfl, rfl⟩
theorem OwnCell.trap (imm : BitVec 24) : OwnCell.Statement (.trap imm) := ⟨rfl, rfl⟩
theorem OwnCell.fwait (f : FmtA) : OwnCell.Statement (.fwait f) := ⟨rfl, rfl⟩
theorem OwnCell.sysr (f : FmtA) : OwnCell.Statement (.sysr f) := ⟨rfl, rfl⟩
theorem OwnCell.sysw (f : FmtA) : OwnCell.Statement (.sysw f) := ⟨rfl, rfl⟩
theorem OwnCell.sysset (f : FmtA) : OwnCell.Statement (.sysset f) := ⟨rfl, rfl⟩
theorem OwnCell.sysclr (f : FmtA) : OwnCell.Statement (.sysclr f) := ⟨rfl, rfl⟩
theorem OwnCell.commit (f : FmtA) : OwnCell.Statement (.commit f) := ⟨rfl, rfl⟩
theorem OwnCell.prot (f : FmtA) : OwnCell.Statement (.prot f) := ⟨rfl, rfl⟩
theorem OwnCell.fork (f : FmtA) : OwnCell.Statement (.fork f) := ⟨rfl, rfl⟩
theorem OwnCell.rdv (f : FmtA) : OwnCell.Statement (.rdv f) := ⟨rfl, rfl⟩
theorem OwnCell.forkstat (f : FmtA) : OwnCell.Statement (.forkstat f) := ⟨rfl, rfl⟩
theorem OwnCell.spawn (f : FmtA) : OwnCell.Statement (.spawn f) := ⟨rfl, rfl⟩
theorem OwnCell.spawni (f : FmtA) : OwnCell.Statement (.spawni f) := ⟨rfl, rfl⟩
theorem OwnCell.launch (f : FmtA) : OwnCell.Statement (.launch f) := ⟨rfl, rfl⟩
theorem OwnCell.msgsend (f : FmtA) : OwnCell.Statement (.msgsend f) := ⟨rfl, rfl⟩
theorem OwnCell.msgrem (f : FmtA) : OwnCell.Statement (.msgrem f) := ⟨rfl, rfl⟩
theorem OwnCell.clk (f : FmtA) : OwnCell.Statement (.clk f) := ⟨rfl, rfl⟩
theorem OwnCell.waitev (f : FmtA) : OwnCell.Statement (.waitev f) := ⟨rfl, rfl⟩
theorem OwnCell.brk (f : FmtA) : OwnCell.Statement (.brk f) := ⟨rfl, rfl⟩
theorem OwnCell.cancel (f : FmtA) : OwnCell.Statement (.cancel f) := ⟨rfl, rfl⟩
theorem OwnCell.countr (f : FmtA) : OwnCell.Statement (.countr f) := ⟨rfl, rfl⟩
theorem OwnCell.frpt (f : FmtA) : OwnCell.Statement (.frpt f) := ⟨rfl, rfl⟩
theorem OwnCell.freplay (f : FmtA) : OwnCell.Statement (.freplay f) := ⟨rfl, rfl⟩
theorem OwnCell.fresume (f : FmtA) : OwnCell.Statement (.fresume f) := ⟨rfl, rfl⟩
theorem OwnCell.fkill (f : FmtA) : OwnCell.Statement (.fkill f) := ⟨rfl, rfl⟩
theorem OwnCell.ptew (f : FmtA) : OwnCell.Statement (.ptew f) := ⟨rfl, rfl⟩
theorem OwnCell.tlbinv (f : FmtA) : OwnCell.Statement (.tlbinv f) := ⟨rfl, rfl⟩
theorem OwnCell.mwin (f : FmtA) : OwnCell.Statement (.mwin f) := ⟨rfl, rfl⟩
theorem OwnCell.mzero (f : FmtA) : OwnCell.Statement (.mzero f) := ⟨rfl, rfl⟩
theorem OwnCell.msave (f : FmtA) : OwnCell.Statement (.msave f) := ⟨rfl, rfl⟩
theorem OwnCell.mrst (f : FmtA) : OwnCell.Statement (.mrst f) := ⟨rfl, rfl⟩
theorem OwnCell.mma (f : FmtA) : OwnCell.Statement (.mma f) := ⟨rfl, rfl⟩
theorem OwnCell.mmaTri (f : FmtA) : OwnCell.Statement (.mmaTri f) := ⟨rfl, rfl⟩
theorem OwnCell.medge (f : FmtA) : OwnCell.Statement (.medge f) := ⟨rfl, rfl⟩
theorem OwnCell.mfmt (f : FmtA) : OwnCell.Statement (.mfmt f) := ⟨rfl, rfl⟩
theorem OwnCell.mdrain (f : FmtA) : OwnCell.Statement (.mdrain f) := ⟨rfl, rfl⟩
theorem OwnCell.mdrainh (f : FmtA) : OwnCell.Statement (.mdrainh f) := ⟨rfl, rfl⟩
theorem OwnCell.mdrainb (f : FmtA) : OwnCell.Statement (.mdrainb f) := ⟨rfl, rfl⟩
theorem OwnCell.msync (f : FmtA) : OwnCell.Statement (.msync f) := ⟨rfl, rfl⟩
theorem OwnCell.mbar (f : FmtA) : OwnCell.Statement (.mbar f) := ⟨rfl, rfl⟩
theorem OwnCell.mwaitb (f : FmtA) : OwnCell.Statement (.mwaitb f) := ⟨rfl, rfl⟩
theorem OwnCell.issueVote (blk : Nat) (wp : Nat) : OwnCell.Statement (.issueVote blk wp) := rfl
theorem OwnCell.loadComplete (t : TRef) (k : Nat) : OwnCell.Statement (.loadComplete t k) := rfl
theorem OwnCell.pageWalkComplete (core : Nat) (ctx : Nat) (va : DWord) : OwnCell.Statement (.pageWalkComplete core ctx va) := rfl
theorem OwnCell.atomicService (c : Nat) : OwnCell.Statement (.atomicService c) := rfl
theorem OwnCell.yieldTimeout (t : TRef) : OwnCell.Statement (.yieldTimeout t) := rfl
theorem OwnCell.copyCommandExecute (c : Nat) : OwnCell.Statement (.copyCommandExecute c) := rfl
theorem OwnCell.copyCommandComplete (c : Nat) : OwnCell.Statement (.copyCommandComplete c) := rfl
theorem OwnCell.pairLaunchStart (l : Nat) : OwnCell.Statement (.pairLaunchStart l) := rfl
theorem OwnCell.pairTestingComplete (l : Nat) : OwnCell.Statement (.pairTestingComplete l) := rfl
theorem OwnCell.pairBatchStart (l : Nat) (c : Nat) (core : Nat) : OwnCell.Statement (.pairBatchStart l c core) := rfl
theorem OwnCell.pairEntryApply (l : Nat) : OwnCell.Statement (.pairEntryApply l) := rfl
theorem OwnCell.pairLaunchSuspend (l : Nat) : OwnCell.Statement (.pairLaunchSuspend l) := rfl
theorem OwnCell.pairLaunchDrain (l : Nat) : OwnCell.Statement (.pairLaunchDrain l) := rfl
theorem OwnCell.pairLaunchComplete (l : Nat) : OwnCell.Statement (.pairLaunchComplete l) := rfl
theorem OwnCell.tileProgramStart (c : Nat) : OwnCell.Statement (.tileProgramStart c) := rfl
theorem OwnCell.matrixUnitOperation (core : Nat) : OwnCell.Statement (.matrixUnitOperation core) := rfl
theorem OwnCell.tileProgramEnd (c : Nat) : OwnCell.Statement (.tileProgramEnd c) := rfl
theorem OwnCell.granaryOperation (u : Nat) : OwnCell.Statement (.granaryOperation u) := rfl
theorem OwnCell.granaryOperationDone (u : Nat) : OwnCell.Statement (.granaryOperationDone u) := rfl
theorem OwnCell.itemGatherTimeout (c : Nat) (entry : DWord) : OwnCell.Statement (.itemGatherTimeout c entry) := rfl
theorem OwnCell.dispatch (core : Nat) : OwnCell.Statement (.dispatch core) := rfl
theorem OwnCell.blockPlacement (l : Nat) : OwnCell.Statement (.blockPlacement l) := rfl
theorem OwnCell.unitCompletion (ctx : Nat) (code : Nat) (id : Nat) : OwnCell.Statement (.unitCompletion ctx code id) := rfl
theorem OwnCell.phaseEnd (ctx : Nat) : OwnCell.Statement (.phaseEnd ctx) := rfl
theorem OwnCell.entryWindowWrite (slot : Nat) (off : Nat) (data : List Byte) : OwnCell.Statement (.entryWindowWrite slot off data) := rfl
theorem OwnCell.m0Arrival (slot : Nat) (data : List Byte) (head : MsgHead) : OwnCell.Statement (.m0Arrival slot data head) := rfl
theorem OwnCell.m1Arrival (slot : Nat) (va : DWord) (data : List Byte) (head : MsgHead) : OwnCell.Statement (.m1Arrival slot va data head) := rfl
theorem OwnCell.m1Acknowledgement (c : Nat) (num : Nat) (cause : Nat) (va : DWord) : OwnCell.Statement (.m1Acknowledgement c num cause va) := rfl
theorem OwnCell.phaseCompletionMessage (ctx : Nat) (id : Nat) (rank : Nat) : OwnCell.Statement (.phaseCompletionMessage ctx id rank) := rfl
theorem OwnCell.m3Contribution (gid : Nat) (seq : Nat) (rank : Nat) (bins : List BinBits) (win : Int) (nrank : Nat) : OwnCell.Statement (.m3Contribution gid seq rank bins win nrank) := rfl
theorem OwnCell.reductionWindowExpiry (gid : Nat) (seq : Nat) : OwnCell.Statement (.reductionWindowExpiry gid seq) := rfl
theorem OwnCell.reductionIncomplete (gid : Nat) (seq : Nat) : OwnCell.Statement (.reductionIncomplete gid seq) := rfl
theorem OwnCell.reductionRoundComplete (gid : Nat) (seq : Nat) : OwnCell.Statement (.reductionRoundComplete gid seq) := rfl
theorem OwnCell.faultRecordPost (p : Posting) : OwnCell.Statement (.faultRecordPost p) := rfl
theorem OwnCell.eventRingDeferredWrite (fn : Nat) : OwnCell.Statement (.eventRingDeferredWrite fn) := rfl
theorem OwnCell.fwaitTimeout (t : TRef) : OwnCell.Statement (.fwaitTimeout t) := rfl
theorem OwnCell.commitPoint (blk : Nat) : OwnCell.Statement (.commitPoint blk) := rfl
theorem OwnCell.rollback (blk : Nat) (cause : Nat) : OwnCell.Statement (.rollback blk cause) := rfl
theorem OwnCell.preemptionSave (blk : Nat) : OwnCell.Statement (.preemptionSave blk) := rfl
theorem OwnCell.blockMove (blk : Nat) (core : Nat) : OwnCell.Statement (.blockMove blk core) := rfl
theorem OwnCell.forwardingExpiry (blk : Nat) : OwnCell.Statement (.forwardingExpiry blk) := rfl
theorem OwnCell.timerEvent (blk : Nat) : OwnCell.Statement (.timerEvent blk) := rfl
theorem OwnCell.timerDeadlineWrite (blk : Nat) (high : Bool) (v : Word) : OwnCell.Statement (.timerDeadlineWrite blk high v) := rfl
theorem OwnCell.errorBankLatch (t : TRef) (u : Nat) : OwnCell.Statement (.errorBankLatch t u) := rfl
theorem OwnCell.errorBankClear (t : TRef) (u : Nat) : OwnCell.Statement (.errorBankClear t u) := rfl
theorem OwnCell.correctedError (u : Nat) (loc : Nat) : OwnCell.Statement (.correctedError u loc) := rfl
theorem OwnCell.uncorrectableError (u : Nat) (loc : Nat) (cells : List Nat) : OwnCell.Statement (.uncorrectableError u loc cells) := rfl
theorem OwnCell.siloRefreshWindow (die : Nat) (group : Nat) (enter : Bool) : OwnCell.Statement (.siloRefreshWindow die group enter) := rfl
theorem OwnCell.hbmScrubPass (stack : Nat) (count : Nat) (rows : List Nat) : OwnCell.Statement (.hbmScrubPass stack count rows) := rfl
theorem OwnCell.arrayScrubPass (u : Nat) (corrected : List Nat) (bad : List Nat) : OwnCell.Statement (.arrayScrubPass u corrected bad) := rfl
theorem OwnCell.grantPeriod (demand : List Nat) (demandUp : List Nat) (temp : List Nat) (hot : List Nat) (draw : Nat) (budget : Nat) : OwnCell.Statement (.grantPeriod demand demandUp temp hot draw budget) := rfl
theorem OwnCell.linkFailure (link : Nat) : OwnCell.Statement (.linkFailure link) := rfl
theorem OwnCell.contextCreate (fn : Nat) (slot : Nat) : OwnCell.Statement (.contextCreate fn slot) := rfl
theorem OwnCell.contextDestroy (fn : Nat) (slot : Nat) : OwnCell.Statement (.contextDestroy fn slot) := rfl
theorem OwnCell.contextDestroyDone (slot : Nat) : OwnCell.Statement (.contextDestroyDone slot) := rfl
theorem OwnCell.startHandler (fn : Nat) (slot : Nat) : OwnCell.Statement (.startHandler fn slot) := rfl
theorem OwnCell.signalHost (fn : Nat) (slot : Nat) : OwnCell.Statement (.signalHost fn slot) := rfl
theorem OwnCell.silogo : OwnCell.Statement (.silogo ) := rfl
theorem OwnCell.siloLoadDone : OwnCell.Statement (.siloLoadDone ) := rfl
theorem OwnCell.attgo (fn : Nat) : OwnCell.Statement (.attgo fn) := rfl
theorem OwnCell.rbcommit : OwnCell.Statement (.rbcommit ) := rfl
theorem OwnCell.clusterFence (die : Nat) (mask : DWord) : OwnCell.Statement (.clusterFence die mask) := rfl
theorem OwnCell.hostRegisterWrite (fn : Nat) (off : Nat) (size : Nat) (v : DWord) : OwnCell.Statement (.hostRegisterWrite fn off size v) := rfl
theorem OwnCell.bar4Access (off : Nat) (write : Bool) (data : List Byte) : OwnCell.Statement (.bar4Access off write data) := rfl
theorem OwnCell.pcieAtomicRequest (fn : Nat) : OwnCell.Statement (.pcieAtomicRequest fn) := rfl
theorem OwnCell.configurationRequest (fn : Nat) : OwnCell.Statement (.configurationRequest fn) := rfl
theorem OwnCell.deviceReset : OwnCell.Statement (.deviceReset ) := rfl
theorem OwnCell.memoryOperationPerformed (m : StoreMove) : OwnCell.Statement (.memoryOperationPerformed m) := rfl
theorem OwnCell.evtailWrite (fn : Nat) (v : DWord) : OwnCell.Statement (.evtailWrite fn v) := rfl
theorem OwnCell.failingClusterFence (c : Nat) : OwnCell.Statement (.failingClusterFence c) := rfl

end Sys2Proof.Laws
end

