-- ==== Sys2Proof/Tests/Slice0.lean ====
section
/-!
SUPPORT. Tests: words of the spec's encoding tables decode to their instructions, ill-formed terms are refused, single results the spec works
out, and for every statement a state and operands that meet its hypotheses, clause by clause.
-/

open Sys2Proof Sys2Proof.Machine Sys2Proof.Spec

namespace Sys2Proof.Tests

-- Each theorem is checked before the next one is read: hundreds of them at once would take a thread each.
set_option Elab.async false

/-! ## Small states -/

/-- Cells in ascending order as a memory. -/
def tMem (cells : List (Nat × Byte)) : Memory := cells.filter (fun p => p.2 != 0)

/-- Memory with page tables that map the first 512 MiB, a clause at 0x20000, and one context. -/
def tBase (c : Cls) (i : Instr) : State :=
  { State.reset with mem := tMem (placedTables ++ atKeys placedAt (wordsToBytes (placedLine c (encode i)))), ctxs := [(0, placedCtx)] }

/-- The instruction's class; GEN for an event row. -/
def tCls (i : Instr) : Cls := i.cls.getD .gen

/-- A block of one kind with one thread, in which the instruction's word is next. -/
def tKind (k : BlockKind) (i : Instr) : State :=
  let s := ((tBase (tCls i) i).placeThread k).1
  { s with issues := [⟨.lanes 1 0 [0], BitVec.ofNat 64 placedAt, placedLine (tCls i) (encode i), 1, 1⟩] }

/-- A thread of a kernel block. -/
def tRun (i : Instr) : State := tKind .kernel i

/-- Some of what the threads of block 1 hold. -/
def tThread (s : State) (f : Thread → Thread) : State :=
  s.updBlock 1 (fun b => { b with warps := b.warps.map (fun w => { w with threads := w.threads.map f }) })

/-- A context's registers. -/
def tCtx (s : State) (f : Ctx → Ctx) : State := { s with ctxs := Tab.upd s.ctxs 0 f }

/-- Two threads of one warp. -/
def tTwo (i : Instr) : State :=
  let s := tRun i
  let s := s.updBlock 1 (fun b => { b with nthr := 2, warps := b.warps.map (fun w => { w with threads := w.threads ++ w.threads }) })
  { s with issues := [⟨.lanes 1 0 [0, 1], BitVec.ofNat 64 placedAt, placedLine (tCls i) (encode i), 1, 1⟩] }

/-- The same word in tile code on cluster 0. -/
def tTile (i : Instr) : State :=
  let s := tRun i
  let r : TileReq := ⟨1, ⟨1, 0, 0⟩, BitVec.ofNat 64 placedAt, 0⟩
  let s := match s.block? 1 with
    | some b => s.updCluster 0 (fun k => { k with tile := some ⟨1, r.t, tileThread b r, false, false⟩ })
    | none => s
  { s with issues := [⟨.tile 0, BitVec.ofNat 64 placedAt, placedLine (tCls i) (encode i), 1, 1⟩] }

/-- The word's clause header has another slot, or other fields: bits added to the header. -/
def tHdr (s : State) (h : Word) : State :=
  { s with issues := s.issues.map (fun i => { i with line := i.line.set 0 (i.line.getD 0 0 ||| h) }) }

/-- Two words of the clause remain after the one that is next, so that it is not the last. -/
def tMore (s : State) : State :=
  { s with issues := s.issues.map (fun i => { i with line := i.line.set 0 (i.line.getD 0 0 + 2) }) }

/-- A format A word: D, A and B. -/
def fA (d : BitVec 7) (a b : BitVec 8) (litA : Word := 0) (litB : Word := 0) : FmtA := ⟨false, d, b, a, litA, litB⟩
/-- A format M word: D, the base and the offset. -/
def fM (d : BitVec 7) (base : BitVec 8) (off : BitVec 8 := 0) (lit : Word := 0) : FmtM := ⟨false, d, off, base, lit⟩

/-! ## Hypotheses that a state meets -/

/-- What a lane of a ready word must show. -/
def tLane (s : State) (iss : Issue) (op : Op) (sh : Shape) (l : Lane) : Bool :=
  match s.env? l (hdrSS iss.hdr) iss.pc iss.idx with
  | none => false
  | some e => (s.stopDue e).isNone && (checkWord e.dec op.info sh).isNone && (!op.info.is .priv || e.sys) && !(fixes op sh && s.isTwin e.blk) && !e.badRead op sh &&
      e.th.live && decide (e.th.search.trail.length + (s.trailOf e op sh).length ≤ trailMax)

/-- The word is ready, and its clause carries no H where the word closes it. -/
def tReady (s : State) (i : Instr) (op : Op) (sh : Shape) (iss : Issue) : Bool :=
  decide (i.parts = some (op, sh)) && iss.lanes != [] && decide iss.lanes.Nodup && !s.passWaits iss op sh && iss.lanes.all (tLane s iss op sh) &&
    (!(iss.after op sh).last || !hdrH iss.hdr)

theorem lane_of {s : State} {iss : Issue} {op : Op} {sh : Shape} {l : Lane} (h : tLane s iss op sh l = true) :
    ∃ e, Sees s iss l e ∧ Free s op sh e ∧ TrailRoom s op sh e := by
  unfold tLane at h
  split at h
  · simp at h
  · rename_i e he
    simp only [Bool.and_eq_true, Bool.not_eq_true', Option.isNone_iff_eq_none, decide_eq_true_eq, Bool.or_eq_true] at h
    obtain ⟨⟨⟨⟨⟨⟨h1, h2⟩, h3⟩, h4⟩, h5⟩, h6⟩, h7⟩ := h
    exact ⟨e, he, ⟨h1, h2, fun hp => h3.resolve_left (by simp [hp]), h4, h5, h6⟩, h7⟩

theorem ready_of {s : State} {i : Instr} {op : Op} {sh : Shape} {iss : Issue} {rest : List Issue} (hi : s.issues = iss :: rest)
    (h : tReady s i op sh iss = true) : Ready s i op sh iss rest ∧ Quiet iss op sh := by
  simp only [tReady, Bool.and_eq_true, decide_eq_true_eq, List.all_eq_true, bne_iff_ne, Bool.not_eq_true', Bool.or_eq_true] at h
  obtain ⟨⟨⟨⟨⟨h1, h2⟩, h3⟩, h4⟩, h5⟩, h6⟩ := h
  refine ⟨⟨h1, hi, h2, h3, h4, fun l hl => lane_of (h5 l hl)⟩, fun hl => ?_⟩
  rcases h6 with h6 | h6
  · simp [hl] at h6
  · exact h6

/-- What the participants see. -/
def tSeen (s : State) (iss : Issue) : List Env := iss.lanes.filterMap (fun l => s.env? l (hdrSS iss.hdr) iss.pc iss.idx)

theorem seen_of {s : State} {iss : Issue} {op : Op} {sh : Shape} (h : ∀ l ∈ iss.lanes, tLane s iss op sh l = true) : Seen s iss (tSeen s iss) := by
  unfold Seen tSeen
  generalize iss.lanes = ls at *
  induction ls with
  | nil => rfl
  | cons l ls ih =>
    obtain ⟨e, he, -⟩ := lane_of (h l List.mem_cons_self)
    have he' : s.env? l (hdrSS iss.hdr) iss.pc iss.idx = some e := he
    simp only [List.filterMap_cons, he', List.map_cons]
    rw [ih (fun k hk => h k (List.mem_cons_of_mem _ hk))]

/-- Several participants meet a condition. -/
def tMet (s : State) (i : Instr) (q : Op → Shape → Issue → List Env → Bool) : Bool :=
  match i.parts, s.issues with
  | some (op, sh), iss :: _ => tReady s i op sh iss && q op sh iss (tSeen s iss)
  | _, _ => false

/-- In the state that `mk` makes for it, instruction `i` is ready in several participants, who meet `q`. -/
def Met (mk : Instr → State) (i : Instr) (q : State → Op → Shape → Issue → List Env → Bool) : Prop :=
  ∃ op sh iss rest es, Ready (mk i) i op sh iss rest ∧ Quiet iss op sh ∧ Seen (mk i) iss es ∧ q (mk i) op sh iss es = true

theorem met_of {mk : Instr → State} {i : Instr} {q : State → Op → Shape → Issue → List Env → Bool} (h : tMet (mk i) i (q (mk i)) = true) :
    Met mk i q := by
  unfold tMet at h
  generalize hs' : mk i = s at h
  split at h
  · rename_i op sh iss rest hp hi
    simp only [Bool.and_eq_true] at h
    obtain ⟨hr, hq⟩ := ready_of hi h.1
    have hl : ∀ l ∈ iss.lanes, tLane s iss op sh l = true := by
      have := h.1
      simp only [tReady, Bool.and_eq_true, List.all_eq_true] at this
      exact this.1.2
    subst hs'
    exact ⟨op, sh, iss, rest, _, hr, hq, seen_of hl, h.2⟩
  · simp at h

/-- One participant meets a condition. -/
def tAlone (s : State) (i : Instr) (q : Op → Shape → Issue → Lane → Env → Bool) : Bool :=
  tMet s i (fun op sh iss es =>
    match iss.lanes, es with
    | [l], [e] => q op sh iss l e
    | _, _ => false)

/-- In the state that `mk` makes for it, instruction `i` is ready in one participant alone, who meets `q`. -/
def Lone (mk : Instr → State) (i : Instr) (q : State → Op → Shape → Issue → Lane → Env → Bool) : Prop :=
  ∃ op sh iss rest l e, Alone (mk i) i op sh iss rest l e ∧ q (mk i) op sh iss l e = true

theorem alone_of {mk : Instr → State} {i : Instr} {q : State → Op → Shape → Issue → Lane → Env → Bool} (h : tAlone (mk i) i (q (mk i)) = true) :
    Lone mk i q := by
  obtain ⟨op, sh, iss, rest, es, hr, hq, hs, h⟩ := met_of (mk := mk) (q := fun s op sh iss es =>
    match iss.lanes, es with
    | [l], [e] => q s op sh iss l e
    | _, _ => false) h
  simp only at h
  split at h
  · rename_i l e hl
    refine ⟨op, sh, iss, rest, l, e, ⟨hr, hq, hl, ?_⟩, h⟩
    simp only [Seen, hl, List.map_cons, List.map_nil, List.cons.injEq, and_true] at hs
    exact hs.symm
  · simp at h

/-- The check of a target gives an answer. -/
def tTarget (s : State) (e : Env) (pc : DWord) : Bool := (s.targetOk e pc).2

/-! ## Words of the encoding tables (Tables 3-7, 4-12, 5-13, 6-12, 8-13, 10-14, 11-5, 13-6, 15-13, 16-16) -/

theorem test_words_lane : Reads .gen [0x26010405] (.icmpLtI (fA 1 5 4)) ∧ Reads .gen [0x2E040605] (.sel 2 (fA 4 5 6)) ∧
    Reads .gen [0x2107CF03, 0x804] (.bfxI (fA 7 3 0xCF 0 0x804)) ∧ Reads .gen [0x92090300] (.voteBallot (fA 9 0 3)) ∧
    Reads .gen [0x3D0A0384] (.addaX4 (fA 10 0x84 3)) ∧ Reads .gen [0x31050206] (.xrd (fA 5 6 2)) ∧ Reads .gen [0x84000040] (.call ⟨0, 64⟩) ∧
    Reads .gen [0x88000000] (.ret (fA 0 0 0)) ∧ Reads .xu [0x15040804] (.shfl (fA 4 4 8)) := ⟨rfl, rfl, rfl, rfl, rfl, rfl, rfl, rfl, rfl⟩

theorem test_words_numbers : Reads .gen [0xCC060201] (.ffma (fA 6 1 2)) ∧ Reads .gen [0xC103F104] (.faddRz (fA 3 4 0xF1)) ∧
    Reads .gen [0xD5020201] (.fcmpLt (fA 2 1 2)) ∧ Reads .gen [0xE909D203] (.cvtE4m3Sr (fA 9 3 0xD2)) ∧ Reads .gen [0xEE040B0A] (.pack2 (fA 4 10 11)) ∧
    Reads .xu [0x0A080005] (.fsincos (fA 8 5 0)) ∧ Reads .xu [0x0D010007] (.qaddf (fA 1 7 0)) ∧ Reads .xu [0x100C0000] (.qrnd (fA 12 0 0)) :=
  ⟨rfl, rfl, rfl, rfl, rfl, rfl, rfl, rfl⟩

theorem test_words_memory : Reads .mem [0x02060284] (.ld64 (fM 6 0x84 2)) ∧ Reads .mem [0x0603FF08] (.ldbs (fM 3 8 (-1))) ∧
    Reads .mem [0x0C0C0202] (.st128 (fM 12 2 2)) ∧ Reads .mem [0x1805108A] (.lds32 (fM 5 0x8A 16)) ∧ Reads .mem [0x1E080014] (.sts128 (fM 8 20)) ∧
    Reads .mem [0x21040209] (.stc32 (fM 4 9 2)) ∧ Reads .mem [0x28000202] (.pref (fM 0 2 2)) ∧ Reads .mem [0x2A1004C4] (.spill (fM 16 0xC4 4)) :=
  ⟨rfl, rfl, rfl, rfl, rfl, rfl, rfl, rfl⟩

theorem test_words_atomics : Reads .mem [0x40050102] (.atomAdd (fM 5 2 1)) ∧ Reads .mem [0x40850102] (.atomAdd ⟨true, 5, 1, 2, 0⟩) ∧
    Reads .mem [0x44060284] (.atomCas (fM 6 0x84 2)) ∧ Reads .mem [0x47090002] (.atomFadd2 (fM 9 2)) ∧ Reads .mem [0x49080002] (.atomCas64 (fM 8 2)) ∧
    Reads .mem [0x4C040202] (.redxF (fM 4 2 2)) ∧ Reads .mem [0x4E0A0084] (.binrd (fM 10 0x84)) := ⟨rfl, rfl, rfl, rfl, rfl, rfl, rfl⟩

theorem test_words_sync : Reads .mem [0x50010402] (.bind (fA 1 2 4)) ∧ Reads .mem [0x51000002] (.acqX (fA 0 2 0)) ∧ Reads .mem [0x53000002] (.rel (fA 0 2 0)) ∧
    Reads .mem [0x54030002] (.acqtryX (fA 3 2 0)) ∧ Reads .mem [0x560000D5] (.fence (fA 0 0xD5 0)) ∧ Reads .mem [0x58000014] (.bar (fA 0 20 0)) ∧
    Reads .mem [0x59030014] (.arrive (fA 3 20 0)) ∧ Reads .mem [0x5C000314] (.barwait (fA 0 20 3)) ∧ Reads .mem [0x5E000000] (.gbar (fA 0 0 0)) ∧
    Reads .mem [0x61000515] (.swwait (fA 0 21 5)) ∧ Reads .mem [0x6400D108] (.tlwait (fA 0 8 0xD1)) ∧ Reads .mem [0x6A000002] (.phset (fA 0 2 0)) ∧
    Reads .mem [0x69000000] (.phwait (fA 0 0 0)) := ⟨rfl, rfl, rfl, rfl, rfl, rfl, rfl, rfl, rfl, rfl, rfl, rfl, rfl⟩

theorem test_words_pairs : Reads .mem [0x80140002] (.plaunch (fA 20 2 0)) ∧ Reads .mem [0x82010014] (.pcancel (fA 1 20 0)) ∧ Reads .mem [0x84040000] (.pi (fA 4 0 0)) ∧
    Reads .mem [0x86060000] (.ptag (fA 6 0 0)) ∧ Reads .mem [0x88040000] (.pdx (fA 4 0 0)) ∧ Reads .mem [0x8B0B0000] (.pdsq (fA 11 0 0)) ∧
    Reads .mem [0x8C0C00D2] (.preci (fA 12 0xD2 0)) ∧ Reads .mem [0x8F0E00D2] (.precj2 (fA 14 0xD2 0)) ∧ Reads .mem [0x9000D005] (.pconOpp (fA 0 5 0xD0)) ∧
    Reads .mem [0x9200D109] (.pconI (fA 0 9 0xD1)) ∧ Reads .mem [0x94000000] (.pdrop (fA 0 0 0)) := ⟨rfl, rfl, rfl, rfl, rfl, rfl, rfl, rfl, rfl, rfl, rfl⟩

theorem test_words_granary : Reads .mem [0xA0140002] (.pkq (fA 20 2 0)) ∧ Reads .mem [0xA1160084] (.pkg (fA 22 0x84 0)) ∧
    Reads .mem [0xA2050014] (.pkstat (fA 5 20 0)) := ⟨rfl, rfl, rfl⟩

theorem test_words_matrix : Reads .mat [0x000000CF, 0xFFFFFFEC] (.mwin (fA 0 0xCF 0 0xFFFFFFEC)) ∧ Reads .mat [0x0600C40A] (.medge (fA 0 10 0xC4)) ∧
    Reads .mat [0x04000604] (.mma (fA 0 4 6)) ∧ Reads .mat [0x04350608] (.mma (fA 0x35 8 6)) ∧ Reads .mat [0x05010604] (.mmaTri (fA 1 4 6)) ∧
    Reads .mat [0x0700D0D1] (.mfmt (fA 0 0xD1 0xD0)) ∧ Reads .mat [0x08000008] (.mdrain (fA 0 8 0)) ∧ Reads .mat [0x0A1F000C] (.mdrainb (fA 0x1F 12 0)) ∧
    Reads .mat [0x0202000C] (.msave (fA 2 12 0)) ∧ Reads .mat [0x0C000000] (.msync (fA 0 0 0)) ∧ Reads .mat [0x0D000001] (.mbar (fA 0 1 0)) ∧
    Reads .mat [0x0E00D101] (.mwaitb (fA 0 1 0xD1)) := ⟨rfl, rfl, rfl, rfl, rfl, rfl, rfl, rfl, rfl, rfl, rfl, rfl⟩

theorem test_words_tile : Reads .gen [0x1504CF01, 0x00400000] (.or (fA 4 1 0xCF 0 0x400000)) ∧ Reads .gen [0x300500CF, 0x01000020] (.mov (fA 5 0xCF 0 0x1000020)) ∧
    Reads .sys [0x1014D002] (.fork (fA 20 2 0xD0)) ∧ Reads .sys [0x11160014] (.rdv (fA 22 20 0)) ∧ Reads .sys [0x12050014] (.forkstat (fA 5 20 0)) :=
  ⟨rfl, rfl, rfl, rfl, rfl⟩

theorem test_words_search : Reads .gen [0xAC000020, 0xE014] (.sbegin ⟨⟨0, 32⟩, 0xE014⟩) ∧ Reads .gen [0xAD000000] (.send (fA 0 0 0)) ∧
    Reads .gen [0xAE000010] (.glean ⟨0, 16⟩) ∧ Reads .gen [0xA018FFEC] (.tryMark ⟨12, 7, -20⟩) ∧ Reads .gen [0xA4000000] (.fail ⟨0, 0⟩) ∧
    Reads .gen [0xA5600000] (.failIfP ⟨3, 0⟩) ∧ Reads .gen [0xA6600000] (.failIfNotP ⟨3, 0⟩) ∧ Reads .gen [0xA80000D1] (.cut (fA 0 0xD1 0)) ∧
    Reads .gen [0xA9000000] (.cutall (fA 0 0 0)) ∧ Reads .gen [0xAA050000] (.depth (fA 5 0 0)) ∧ Reads .gen [0xAB060000] (.alts (fA 6 0 0)) :=
  ⟨rfl, rfl, rfl, rfl, rfl, rfl, rfl, rfl, rfl, rfl, rfl⟩

theorem test_words_tasks : Reads .sys [0x14000002] (.spawn (fA 0 2 0)) ∧ Reads .sys [0x15000802] (.spawni (fA 0 2 8)) ∧ Reads .sys [0x17140002] (.launch (fA 20 2 0)) ∧
    Reads .sys [0x18160004] (.msgsend (fA 22 4 0)) ∧ Reads .sys [0x19160004] (.msgrem (fA 22 4 0)) ∧ Reads .sys [0x2401D106] (.cancel (fA 1 6 0xD1)) ∧
    Reads .sys [0x250AD206] (.countr (fA 10 6 0xD2)) := ⟨rfl, rfl, rfl, rfl, rfl, rfl, rfl⟩

theorem test_words_system : Reads .sys [0x040AD002] (.fwait (fA 10 2 0xD0)) ∧ Reads .sys [0x080500D1] (.sysr (fA 5 0xD1 0)) ∧ Reads .sys [0x090006D3] (.sysw (fA 0 0xD3 6)) ∧
    Reads .sys [0x0B00CFD8, 0x3C] (.sysclr (fA 0 0xD8 0xCF 0 0x3C)) ∧ Reads .sys [0x0C000000] (.commit (fA 0 0 0)) ∧ Reads .sys [0x0D070000] (.prot (fA 7 0 0)) ∧
    Reads .sys [0x1C080000] (.clk (fA 8 0 0)) ∧ Reads .sys [0x2009D200] (.waitev (fA 9 0 0xD2)) ∧ Reads .sys [0x21000000] (.brk (fA 0 0 0)) :=
  ⟨rfl, rfl, rfl, rfl, rfl, rfl, rfl, rfl, rfl⟩

theorem test_words_handler : Reads .sys [0x2805D114] (.frpt (fA 5 20 0xD1)) ∧ Reads .sys [0x29010014] (.freplay (fA 1 20 0)) ∧ Reads .sys [0x2A010014] (.fresume (fA 1 20 0)) ∧
    Reads .sys [0x2B020014] (.fkill (fA 2 20 0)) ∧ Reads .sys [0x2C010402] (.ptew (fA 1 2 4)) ∧ Reads .sys [0x2D00D002] (.tlbinv (fA 0 2 0xD0)) :=
  ⟨rfl, rfl, rfl, rfl, rfl, rfl⟩

/-- A reserved cell of the map (R54), and a clause whose literal is not there (R45), do not decode. -/
theorem test_words_refused : decode .gen [0xFF000000] = .error .reserved ∧ decode .gen [0x2107CF03] = .error .truncated := ⟨rfl, rfl⟩

/-! ## Ill-formed terms that the check refuses, one for each of its checks -/

theorem test_wf_accepts : (Instr.iadd (fA 3 4 5)).wf = true ∧ (Instr.mma (fA 0 4 6)).wf = true ∧ (Instr.dispatch 3).wf = true := by decide +kernel
/-- A literal that no selector takes. -/
theorem test_wf_literal : (Instr.iadd (fA 3 4 5 7)).wf = false := by decide +kernel
theorem test_wf_literal_m : (Instr.lds32 (fM 3 4 0 7)).wf = false := by decide +kernel
/-- A SWITCH with fewer table words than D[2:0] + 1. -/
theorem test_wf_switch : (Instr.switch ⟨fA 1 4 0, [0]⟩).wf = false ∧ (Instr.switch ⟨fA 1 4 0, [0, 0]⟩).wf = true := by decide +kernel
/-- A reserved selector (Table 2-6), an odd pair (R44), and a D field that is no predicate (R42). -/
theorem test_wf_selector : (Instr.iadd (fA 3 0xC9 5)).wf = false := by decide +kernel
theorem test_wf_pair : (Instr.ld32 (fM 3 5)).wf = false := by decide +kernel
theorem test_wf_predicate : (Instr.icmpEq (fA 8 4 5)).wf = false := by decide +kernel
/-- Events that name units the device does not have (Table 1-1), or carry data of a wrong length (R326). -/
theorem test_wf_core : (Instr.dispatch 1280).wf = false ∧ (Instr.dispatch 1279).wf = true := by decide +kernel
theorem test_wf_cluster : (Instr.atomicService 256).wf = false := by decide +kernel
theorem test_wf_thread : (Instr.loadComplete ⟨1, 0, 32⟩ 0).wf = false := by decide +kernel
theorem test_wf_record : (Instr.entryWindowWrite 0 0 []).wf = false := by decide +kernel
theorem test_wf_matrix : (Instr.matrixUnitOperation 1024).wf = false := by decide +kernel
theorem test_wf_die : (Instr.clusterFence 4 0).wf = false ∧ (Instr.siloRefreshWindow 0 64 true).wf = false := by decide +kernel
theorem test_wf_stack : (Instr.hbmScrubPass 8 0 []).wf = false := by decide +kernel
theorem test_wf_link : (Instr.linkFailure 24).wf = false := by decide +kernel
theorem test_wf_function : (Instr.contextCreate 17 0).wf = false ∧ (Instr.contextCreate 0 64).wf = false ∧ (Instr.attgo 17).wf = false := by decide +kernel
theorem test_wf_grants : (Instr.grantPeriod [] [] [] [] 0 0).wf = false := by decide +kernel
theorem test_wf_batch : (Instr.pairBatchStart 0 256 0).wf = false := by decide +kernel
/-! ## Results that the spec works out -/

/-- Registers of a thread: w from a number on. -/
def tW (s : State) (n : Nat) (vs : List Word) : State :=
  tThread s (fun th => (vs.zipIdx).foldl (fun th v => { th with w := th.w.setIfInBounds (n + v.2) v.1 }) th)

/-- What one pass of an instruction leaves in w7 of its thread, from a value in w3 (A) and one in w7 (D). -/
def tOut (i : Instr) (a d : Word) : Option Word :=
  match exec i (tW (tW (tRun i) 3 [a]) 7 [d]) with
  | .next t => (t.thread? ⟨1, 0, 0⟩).map (fun th => th.rw 7)
  | _ => none

/-- R79's two examples. -/
theorem test_bfx_positive : tOut (.bfxI (fA 7 3 0xCF 0 0x804)) 0xA5F0 0 = some 0x5F := by decide +kernel
theorem test_bfx_negative : tOut (.bfxI (fA 7 3 0xCF 0 0x804)) 0xF50 0 = some 0xFFFFFFF5 := by decide +kernel
/-- R78: a shift by the full width, and a rotation by it. -/
theorem test_shl_full : tOut (.shl (fA 7 3 0xCF 0 32)) 0xFFFFFFFF 5 = some 0 := by decide +kernel
theorem test_rol_full : tOut (.rol (fA 7 3 0xCF 0 33)) 0x80000001 0 = some 3 := by decide +kernel
theorem test_sar_full : tOut (.sar (fA 7 3 0xCF 0 40)) 0x80000000 0 = some 0xFFFFFFFF := by decide +kernel
/-- R77: clamping, and the high word of a signed product. -/
theorem test_sat : tOut (.iaddSatI (fA 7 3 0xCF 0 1)) 0x7FFFFFFF 0 = some 0x7FFFFFFF := by decide +kernel
theorem test_mulhi : tOut (.imulHiI (fA 7 3 0xCF 0 2)) 0xFFFFFFFF 0 = some 0xFFFFFFFF := by decide +kernel
/-- Table 4-7. -/
theorem test_cvt_bf16_even : tOut (.cvtBf16F32 (fA 7 3 0)) 0x3F808000 0 = some 0x3F80 := by decide +kernel
theorem test_cvt_bf16_overflow : tOut (.cvtBf16F32 (fA 7 3 0)) 0x7F7FC000 0 = some 0x7F80 := by decide +kernel
theorem test_cvt_e4m3_subnormal : tOut (.cvtE4m3 (fA 7 3 0xD0)) 0x3BA3D70A 0 = some 3 := by decide +kernel
theorem test_cvt_e4m3_saturates : tOut (.cvtE4m3 (fA 7 3 0xD1)) 0x43FA0000 0x11111111 = some 0x11117E11 := by decide +kernel
theorem test_cvt_e5m2_overflow : tOut (.cvtE5m2 (fA 7 3 0xD0)) 0x47700000 0 = some 0x7C := by decide +kernel
theorem test_cvt_i32_even : tOut (.cvtI32F32Sat (fA 7 3 0)) 0xC0200000 0 = some 0xFFFFFFFE := by decide +kernel
theorem test_cvt_i32_clamped : tOut (.cvtI32F32Sat (fA 7 3 0)) 0x4F32D05E 0 = some 0x7FFFFFFF := by decide +kernel
theorem test_cvt_n32_nan : tOut (.cvtN32F32RzSat (fA 7 3 0)) 0x7FC00000 0 = some 0 := by decide +kernel
/-- Table 4-9: steps 2, 6 and 9, and the sine and cosine of step 3 as owed. -/
theorem test_cvt_f32_bf16 : tOut (.cvtF32Bf16 (fA 7 3 0xD1)) 0xBF403FC0 0 = some 0xBF400000 := by decide +kernel
theorem test_ffma_rounds_once : tOut (.ffma (fA 7 3 0xCF 0 0xB33BBD2E)) 0x3FC00000 0x3F400000 = some 0x3F3FFFFF := by decide +kernel
theorem test_pack2 : tOut (.pack2 (fA 7 3 0xCF 0 0x3FC00000)) 0x3F3FFFFF 0 = some 0x3FC03F40 := by decide +kernel

def tOwed (i : Instr) (a : Word) : Option (List RegVal) :=
  match exec i (tW (tRun i) 3 [a]) with
  | .next t => (t.thread? ⟨1, 0, 0⟩).map (fun th => (th.owed.map Owed.wr).flatten)
  | _ => none

theorem test_fsincos : tOwed (.fsincos (fA 8 3 0)) 0x3FC90FDB = some [.w 8 0x3F800000, .w 9 0xB33BBD2E] := by decide +kernel
/-- R278's two functions (Table 11-4): e to the zero, and one half. -/
theorem test_fexp_zero : tOwed (.fexp (fA 8 3 0)) 0 = some [.w 8 0x3F800000] := by decide +kernel
theorem test_fdiv_half : tOwed (.fdiv (fA 8 3 0xCF 0 0x40000000)) 0x3F800000 = some [.w 8 0x3F000000] := by decide +kernel

/-- R46: a branch target counts from its own word: the word at 0x20004 minus one word is the clause's header. -/
theorem test_br_target : (match exec (.br ⟨0, -1⟩) (tRun (.br ⟨0, -1⟩)) with
    | .next t => (t.thread? ⟨1, 0, 0⟩).map (fun th => th.pc)
    | _ => none) = some 0x20000 := by decide +kernel
/-- R80: a compare into p7 writes nothing and pushes its result. -/
theorem test_icmp_p7 : (match exec (.icmpEq (fA 7 3 3)) (tMore (tRun (.icmpEq (fA 7 3 3)))) with
    | .next t => (t.thread? ⟨1, 0, 0⟩).map (fun th => (th.p, th.ry 0, th.yn))
    | _ => none) = some (0, 1, 1) := by decide +kernel
/-- R97: SWAP1 exchanges between the two threads of a pair. -/
theorem test_swap1 : (match exec (.swap1 (fA 7 0xC5 0)) (tTwo (.swap1 (fA 7 0xC5 0))) with
    | .next t => ((t.thread? ⟨1, 0, 0⟩).map (fun th => th.rw 7), (t.thread? ⟨1, 0, 1⟩).map (fun th => th.rw 7))
    | _ => (none, none)) = (some 1, some 0) := by decide +kernel
/-- R353: TRAP keeps its immediate in the record's address field, and stops its thread at its index. -/
theorem test_trap : (match exec (.trap 0x123456) (tRun (.trap 0x123456)) with
    | .next t => ((t.thread? ⟨1, 0, 0⟩).bind (fun th => th.stop.map (fun x => (x.cause, x.idx))),
        (Tab.find t.ctxs 0).bind (fun c => (c.waiting ++ c.queue.map (fun p => p.2)).head?.map (fun r => r.frec.va)))
    | _ => (none, none)) = (some (0x17, 1), some 0x123456) := by decide +kernel
/-! ## Hypotheses met: integers, numbers, collectives -/

theorem met_integer : Met tTwo (.iadd (fA 3 4 5)) (fun _ _ _ _ es => decide (es.length = 2) && (intResult (.iadd (fA 3 4 5))).isSome) :=
  met_of (by decide +kernel)
theorem met_integer_tile : Met tTile (.mov (fA 3 4 0)) (fun _ _ _ _ es => decide (es.length = 1) && (intResult (.mov (fA 3 4 0))).isSome) :=
  met_of (by decide +kernel)
theorem met_field : Met tTwo (.bfi (fA 3 4 5)) (fun _ _ _ _ _ => (bitResult (.bfi (fA 3 4 5))).isSome) := met_of (by decide +kernel)
theorem met_count : Met tTwo (.clz (fA 3 4 0)) (fun _ _ _ _ _ => (countResult (.clz (fA 3 4 0))).isSome) := met_of (by decide +kernel)
theorem met_predicate : Met tTwo (.pand (fA 7 7 0)) (fun _ _ _ _ _ => (predResult (.pand (fA 7 7 0))).isSome) := met_of (by decide +kernel)
theorem met_select : Met tTwo (.sel 3 (fA 3 4 5)) (fun _ _ _ _ _ => true) := met_of (by decide +kernel)
theorem met_float : Met tTwo (.ffma (fA 3 4 5)) (fun _ _ _ _ _ => (floatResult (.ffma (fA 3 4 5))).isSome) := met_of (by decide +kernel)
theorem met_minmax : Met tTwo (.fmin (fA 3 4 5)) (fun _ _ _ _ _ => (minmaxResult (.fmin (fA 3 4 5))).isSome) := met_of (by decide +kernel)
theorem met_fcmp : Met tTwo (.fcmpUn (fA 3 4 5)) (fun _ _ _ _ _ => (fcmpResult (.fcmpUn (fA 3 4 5))).isSome) := met_of (by decide +kernel)
theorem met_conversion : Met tTwo (.fclass (fA 3 4 0)) (fun _ _ _ _ _ => (convResult (.fclass (fA 3 4 0))).isSome) := met_of (by decide +kernel)
theorem met_merge : Met tTwo (.cvtE5m2Sr (fA 3 4 5)) (fun _ _ _ _ _ => (mergeResult (.cvtE5m2Sr (fA 3 4 5))).isSome) := met_of (by decide +kernel)
theorem met_stochastic : Met tTwo (.cvtBf16F32Sr (fA 3 4 0)) (fun _ _ _ _ _ => true) := met_of (by decide +kernel)
theorem met_xu : Met tTwo (.frsq (fA 3 4 0)) (fun _ _ _ _ _ => (xuResult (.frsq (fA 3 4 0))).isSome) := met_of (by decide +kernel)
theorem met_rounding : (0 : Int) < 1 := by decide

theorem met_q : Met tTwo (.qaddf (fA 3 4 0)) (fun _ _ _ _ _ => (qResult (.qaddf (fA 3 4 0))).isSome) := met_of (by decide +kernel)
theorem met_qread : Met tTwo (.qsave (fA 4 3 0)) (fun _ _ _ _ _ => (qRead (.qsave (fA 4 3 0))).isSome) := met_of (by decide +kernel)
/-- QWIN at both ends of its range, and one beyond each. -/
theorem met_qwin_low : Met tTwo (.qwin (fA 3 0xCF 0 (-100))) (fun _ _ _ _ es =>
    es.all (fun e => decide (-100 ≤ (e.a (fA 3 0xCF 0 (-100))).toInt ∧ (e.a (fA 3 0xCF 0 (-100))).toInt ≤ 40))) := met_of (by decide +kernel)
theorem met_qwin_high : Met tTwo (.qwin (fA 3 0xCF 0 40)) (fun _ _ _ _ es =>
    es.all (fun e => decide (-100 ≤ (e.a (fA 3 0xCF 0 40)).toInt ∧ (e.a (fA 3 0xCF 0 40)).toInt ≤ 40))) := met_of (by decide +kernel)
theorem met_qwin_below : Lone tRun (.qwin (fA 3 0xCF 0 (-101))) (fun _ _ _ _ _ e => decide ((e.a (fA 3 0xCF 0 (-101))).toInt < -100)) :=
  alone_of (by decide +kernel)
theorem met_qwin_above : Lone tRun (.qwin (fA 3 0xCF 0 41)) (fun _ _ _ _ _ e => decide (40 < (e.a (fA 3 0xCF 0 41)).toInt)) :=
  alone_of (by decide +kernel)
theorem met_qred : Met tTwo (.qred (fA 3 0 0)) (fun _ _ _ _ es => es.all (fun x => es.all (fun y => (x.th.rq 3).win == (y.th.rq 3).win))) :=
  met_of (by decide +kernel)
theorem met_qscan : Met tTwo (.qscan (fA 3 0 0)) (fun _ _ _ _ es => es.all (fun x => es.all (fun y => (x.th.rq 3).win == (y.th.rq 3).win))) :=
  met_of (by decide +kernel)
theorem met_exchange : Met tTwo (.shflx (fA 3 4 0xD1)) (fun _ _ _ _ _ => (exchangeResult (.shflx (fA 3 4 0xD1))).isSome) := met_of (by decide +kernel)
theorem met_swap1 : Met tTwo (.swap1 (fA 3 4 0)) (fun _ _ _ _ _ => true) := met_of (by decide +kernel)
theorem met_votes : Met tTwo (.voteBallot (fA 3 0 7)) (fun _ _ _ _ _ => true) ∧ Met tTwo (.voteAny (fA 3 0 7)) (fun _ _ _ _ _ => true) ∧
    Met tTwo (.voteAll (fA 3 0 7)) (fun _ _ _ _ _ => true) ∧ Met tTwo (.voteCnt (fA 3 0 7)) (fun _ _ _ _ _ => true) :=
  ⟨met_of (by decide +kernel), met_of (by decide +kernel), met_of (by decide +kernel), met_of (by decide +kernel)⟩
theorem met_uniform : Met tTwo (.sadd (fA 3 4 5)) (fun _ _ _ _ es => (uniResult (.sadd (fA 3 4 5))).isSome &&
    (match es.head? with | some e => (match e.lane with | .thr _ => true | .tile _ => false) | none => false)) := met_of (by decide +kernel)
theorem met_selectors : Lone tRun (.iadd (fA 3 4 5)) (fun _ _ _ _ _ e => !e.dec.tile) ∧ Lone tTile (.iadd (fA 3 4 5)) (fun _ _ _ _ _ e => e.dec.tile) :=
  ⟨alone_of (by decide +kernel), alone_of (by decide +kernel)⟩
theorem met_adda : Met tTwo (.adda (fA 10 4 5)) (fun _ _ _ _ _ => true) ∧ Met tTwo (.addaX4 (fA 10 4 5)) (fun _ _ _ _ _ => true) ∧
    Met tTwo (.addaX16 (fA 10 4 5)) (fun _ _ _ _ _ => true) ∧ Met tTwo (.suba (fA 10 4 5)) (fun _ _ _ _ _ => true) :=
  ⟨met_of (by decide +kernel), met_of (by decide +kernel), met_of (by decide +kernel), met_of (by decide +kernel)⟩

/-- A thread whose x2 has base 16 and count 4. -/
def tIndexed (i : Instr) : State := tThread (tRun i) (fun th => { th with x := th.x.setIfInBounds 2 ⟨16, 4⟩ })
/-- XRD and XWR at the last place of the range and at the first beyond it; XSET up to the last register and beyond it. -/
theorem met_xrd_last : Lone tIndexed (.xrd (fA 5 0xD3 2)) (fun _ _ _ _ _ e => decide ((e.a (fA 5 0xD3 2)).toNat < (e.th.rx 2).count.toNat)) :=
  alone_of (by decide +kernel)
theorem met_xrd_beyond : Lone tIndexed (.xrd (fA 5 0xD4 2)) (fun _ _ _ _ _ e => decide ((e.th.rx 2).count.toNat ≤ (e.a (fA 5 0xD4 2)).toNat)) :=
  alone_of (by decide +kernel)
theorem met_xwr_last : Lone tIndexed (.xwr (fA 5 0xD3 2)) (fun _ _ _ _ _ e => decide ((e.a (fA 5 0xD3 2)).toNat < (e.th.rx 2).count.toNat)) :=
  alone_of (by decide +kernel)
theorem met_xwr_beyond : Lone tIndexed (.xwr (fA 5 0xD4 2)) (fun _ _ _ _ _ e => decide ((e.th.rx 2).count.toNat ≤ (e.a (fA 5 0xD4 2)).toNat)) :=
  alone_of (by decide +kernel)
theorem met_xset_last : Lone tRun (.xset (fA 2 0xCF 0xD1 127)) (fun _ _ _ _ _ e => decide (e.dec.regs = 128)) := alone_of (by decide +kernel)
theorem met_xset_beyond : Lone tRun (.xset (fA 2 0xCF 0xD2 127)) (fun _ _ _ _ _ e => decide (e.dec.regs < 127 + 2)) := alone_of (by decide +kernel)

/-! ## Hypotheses met: control -/

def tLast (iss : Issue) (op : Op) (sh : Shape) : Bool := (iss.after op sh).last

theorem met_nop : Met tTwo (.nop (fA 0 0 0)) (fun _ _ _ _ _ => true) := met_of (by decide +kernel)
theorem met_exit : Lone tRun (.exit (fA 0 0 0)) (fun s _ _ _ _ e => (s.block? e.blk).isSome) := alone_of (by decide +kernel)
theorem met_exit_item : Lone (tKind .item) (.exit (fA 0 0 0)) (fun s _ _ _ _ e => match s.block? e.blk with | some b => b.kind == .item | none => false) :=
  alone_of (by decide +kernel)
theorem met_exit_pair : Lone (tKind .pair) (.exit (fA 0 0 0)) (fun s _ _ _ _ e => e.th.item.isSome &&
    (match s.block? e.blk with | some b => b.kind == .pair | none => false)) := alone_of (by decide +kernel)
theorem met_exit_tile : Lone tTile (.exit (fA 0 0 0)) (fun s _ _ _ _ _ => (s.cluster 0).tile.isSome) := alone_of (by decide +kernel)
theorem met_yield : Lone tRun (.yield (fA 0 0 0)) (fun _ op sh iss _ _ => tLast iss op sh) := alone_of (by decide +kernel)

/-- A branch to its own clause's header, one to the word before it, and one that is not taken. -/
theorem met_branch : Lone tRun (.br ⟨0, -1⟩) (fun s op sh iss _ e => tLast iss op sh && (s.targetOk e (targetAt e e.idx (-1))).2) :=
  alone_of (by decide +kernel)
theorem met_branch_bad : Lone tRun (.br ⟨0, 0⟩) (fun s op sh iss _ e => tLast iss op sh && !(s.targetOk e (targetAt e e.idx 0)).2) :=
  alone_of (by decide +kernel)
theorem met_branch_not : Lone tRun (.brIfP ⟨6, -1⟩) (fun _ op sh iss _ e => tLast iss op sh && !e.th.p.getLsbD 6) := alone_of (by decide +kernel)
/-- Targets: misaligned; in a line that can be fetched; in one that cannot. -/
theorem met_target : Lone tRun (.br ⟨0, -1⟩) (fun s _ _ _ _ e => decide ((0x20001 : DWord).toNat % 4 ≠ 0) &&
    (match (s.fetchLine e.core e.ctx e.blk 0x20000).2 with | .ok _ => true | .error _ => false) &&
    (match (s.fetchLine e.core e.ctx e.blk 0xFFFFFFFFFFFF0000).2 with | .ok _ => false | .error _ => true)) := alone_of (by decide +kernel)

/-- A SWITCH of two entries: its value, the second table word's value being 5. -/
def tSwitch (v : BitVec 8) : FmtSwitch := ⟨fA 1 v 0, [0x00070000, 0x0005FFFD]⟩
theorem met_switch : Lone tRun (.switch (tSwitch 0xD5)) (fun s op sh iss _ e => tLast iss op sh &&
    decide (e.val 0xD5 0 = 5) && (s.targetOk e (targetAt e (e.idx + 1 + 1) (-3))).2) := alone_of (by decide +kernel)
theorem met_switch_bad : Lone tRun (.switch (tSwitch 0xD7)) (fun s op sh iss _ e => tLast iss op sh &&
    decide (e.val 0xD7 0 = 7) && !(s.targetOk e (targetAt e (e.idx + 1) 0)).2) := alone_of (by decide +kernel)
theorem met_switch_none : Lone tRun (.switch (tSwitch 0xD6)) (fun _ op sh iss _ e => tLast iss op sh &&
    (tSwitch 0xD6).table.all (fun w => (e.val 0xD6 0).toNat != (w.extractLsb' 16 16).toNat)) := alone_of (by decide +kernel)
theorem met_switch_first : firstMatch 5 (tSwitch 0xD5).table 1 0x0005FFFD := by
  refine ⟨rfl, by decide, fun j v hj hv => ?_⟩
  obtain rfl : j = 0 := by omega
  simp only [tSwitch, List.getElem?_cons_zero, Option.some.injEq] at hv
  subst hv; decide

/-- Return stacks of some depth, with the loft reserved or not, and a context with loft on the die or without. -/
def tStack (n : Nat) (got : Bool) (units : Nat) (i : Instr) : State :=
  tCtx (tThread (tRun i) (fun th => { th with stack := List.replicate n 0x20000, loftRs := got })) (fun c => { c with loft := [units, 0, 0, 0], loftUsed := [0, 0, 0, 0] })
def tCall : Instr := .call ⟨0, -1⟩
theorem met_call : Lone (tStack 7 false 0) tCall (fun s op sh iss _ e => tLast iss op sh && (s.targetOk e (targetAt e e.idx (-1))).2 &&
    decide (e.th.stack.length < 32) && decide (e.th.stack.length < 8) && (callsTo tCall).isSome) := alone_of (by decide +kernel)
theorem met_call_last : Lone (tStack 31 true 0) tCall (fun s op sh iss _ e => tLast iss op sh && (s.targetOk e (targetAt e e.idx (-1))).2 &&
    decide (e.th.stack.length < 32) && e.th.loftRs) := alone_of (by decide +kernel)
theorem met_call_ninth : Lone (tStack 8 false 1) tCall (fun s op sh iss _ e => tLast iss op sh && (s.targetOk e (targetAt e e.idx (-1))).2 &&
    decide (8 ≤ e.th.stack.length) && !e.th.loftRs && ((s.targetOk e (targetAt e e.idx (-1))).1.loftTake e.ctx (coreDie e.core) 192).isSome) :=
  alone_of (by decide +kernel)
theorem met_call_noloft : Lone (tStack 8 false 0) tCall (fun s op sh iss _ e => tLast iss op sh && (s.targetOk e (targetAt e e.idx (-1))).2 &&
    decide (8 ≤ e.th.stack.length) && !e.th.loftRs && ((s.targetOk e (targetAt e e.idx (-1))).1.loftTake e.ctx (coreDie e.core) 192).isNone) :=
  alone_of (by decide +kernel)
theorem met_call_full : Lone (tStack 32 true 1) tCall (fun s op sh iss _ e => tLast iss op sh && (s.targetOk e (targetAt e e.idx (-1))).2 &&
    decide (32 ≤ e.th.stack.length)) := alone_of (by decide +kernel)
theorem met_call_bad : Lone (tStack 0 false 0) (.call ⟨0, 0⟩) (fun s op sh iss _ e => tLast iss op sh && !(s.targetOk e (targetAt e e.idx 0)).2) :=
  alone_of (by decide +kernel)
theorem met_call_indirect : Lone tRun (.callIndirect (fA 0 4 0)) (fun _ op sh iss _ _ => tLast iss op sh && (callsTo (.callIndirect (fA 0 4 0))).isSome) :=
  alone_of (by decide +kernel)
theorem met_call_tile : Lone tTile tCall (fun s op sh iss _ e => tLast iss op sh && (s.targetOk e (targetAt e e.idx (-1))).2 && e.dec.tile) :=
  alone_of (by decide +kernel)
theorem met_loft : ∃ c, Tab.find (tStack 0 false 1 tCall).ctxs 0 = some c ∧ 65536 ≤ c.loft.getD 0 0 * 65536 - c.loftUsed.getD 0 0 ∧
    c.loft.getD 0 0 * 65536 - c.loftUsed.getD 0 0 < 65537 := ⟨_, rfl, by decide +kernel, by decide +kernel⟩
theorem met_ret : Lone (tStack 1 false 0) (.ret (fA 0 0 0)) (fun s op sh iss _ e => tLast iss op sh && decide (e.th.stack = [0x20000]) && (s.targetOk e 0x20000).2) :=
  alone_of (by decide +kernel)
theorem met_ret_bad : Lone (fun i => tThread (tRun i) (fun th => { th with stack := [0x20004] })) (.ret (fA 0 0 0)) (fun s op sh iss _ e =>
    tLast iss op sh && decide (e.th.stack = [0x20004]) && !(s.targetOk e 0x20004).2) := alone_of (by decide +kernel)
theorem met_ret_empty : Lone tRun (.ret (fA 0 0 0)) (fun _ op sh iss _ e => tLast iss op sh && e.th.stack.isEmpty) := alone_of (by decide +kernel)

/-! ## Hypotheses met: search -/

/-- A searching thread with a sheaf and a trail; its frame window is at offset 256. -/
def tSearch (sheaf : List Choice) (trail : List TrailE) (i : Instr) : State :=
  tCtx (tThread (tRun i) (fun th => { th with search := ⟨true, 0x20000, 256, 8, sheaf, trail⟩ })) (fun c => { c with loft := [1, 0, 0, 0], loftUsed := [12288, 0, 0, 0] })
def tChoice (n next : Nat) : Choice := ⟨0x20000, n, next, 1, 9⟩

theorem met_depth : Met tTwo (.depth (fA 3 0 0)) (fun _ _ _ _ _ => true) ∧ Met (tSearch [tChoice 3 1] []) (.alts (fA 3 0 0)) (fun _ _ _ _ _ => true) :=
  ⟨met_of (by decide +kernel), met_of (by decide +kernel)⟩

/-- SBEGIN with its label at its own header: a frame at a multiple of 16 in the region, one that ends with it, and the values that it refuses. -/
def tBegin (frame : BitVec 8) (floor : BitVec 8) (off : BitVec 21) : FmtSbegin := ⟨⟨0, off⟩, 0#16 ++ floor ++ frame⟩
/-- w4 holds a frame; the context has loft of some units. -/
def tFrame (frame : Word) (units : Nat) (i : Instr) : State := tCtx (tW (tRun i) 4 [frame]) (fun c => { c with loft := [units, 0, 0, 0], loftUsed := [0, 0, 0, 0] })
def tInside (e : Env) (frame : Word) : Bool := decide (e.scrBase ≤ frame.toNat) && decide (frame.toNat + 256 ≤ e.scrBase + e.scrSize)
theorem met_sbegin : Lone (tFrame (4096 - 256) 1) (.sbegin (tBegin 4 0xE0 (-1))) (fun s _ _ _ _ e => !e.th.search.mode && decide (16 ≤ e.dec.regs) &&
    tInside e (4096 - 256) && (s.targetOk e (targetAt e e.idx (-1))).2 &&
    ((s.targetOk e (targetAt e e.idx (-1))).1.loftTake e.ctx (coreDie e.core) 12288).isSome) := alone_of (by decide +kernel)
theorem met_sbegin_twice : Lone (tSearch [] []) (.sbegin (tBegin 4 0xE0 (-1))) (fun _ _ _ _ _ e => e.th.search.mode) := alone_of (by decide +kernel)
theorem met_sbegin_floor : Lone (tFrame 129 1) (.sbegin (tBegin 0xC4 4 (-1))) (fun _ _ _ _ _ e => decide (e.dec.regs < (e.val 4 0).toNat)) :=
  alone_of (by decide +kernel)
theorem met_sbegin_misaligned : Lone (tFrame 8 1) (.sbegin (tBegin 4 0xE0 (-1))) (fun _ _ _ _ _ e => !e.th.search.mode && decide ((e.val 4 0).toNat % 16 ≠ 0)) :=
  alone_of (by decide +kernel)
theorem met_sbegin_outside : Lone (tFrame (4096 - 240) 1) (.sbegin (tBegin 4 0xE0 (-1))) (fun _ _ _ _ _ e => !e.th.search.mode && !tInside e (4096 - 240)) :=
  alone_of (by decide +kernel)
theorem met_sbegin_label : Lone (tFrame 0 1) (.sbegin (tBegin 4 0xE0 0)) (fun s _ _ _ _ e => !e.th.search.mode && tInside e 0 &&
    !(s.targetOk e (targetAt e e.idx 0)).2) := alone_of (by decide +kernel)
theorem met_sbegin_noloft : Lone (tFrame 0 0) (.sbegin (tBegin 4 0xE0 (-1))) (fun s _ _ _ _ e => !e.th.search.mode && tInside e 0 &&
    (s.targetOk e (targetAt e e.idx (-1))).2 && ((s.targetOk e (targetAt e e.idx (-1))).1.loftTake e.ctx (coreDie e.core) 12288).isNone) :=
  alone_of (by decide +kernel)
theorem met_send : Lone (tSearch [] []) (.send (fA 0 0 0)) (fun _ _ _ _ _ e => e.th.search.mode) ∧ Lone tRun (.send (fA 0 0 0)) (fun _ _ _ _ _ e => !e.th.search.mode) :=
  ⟨alone_of (by decide +kernel), alone_of (by decide +kernel)⟩

def tTry (off : BitVec 13) : Instr := .tryMark ⟨9, 2, off⟩
theorem met_try : Lone (tSearch (List.replicate 271 (tChoice 1 1)) (List.replicate 1023 ⟨0, 9, false⟩)) (tTry (-1)) (fun s _ _ _ _ e =>
    e.th.search.mode && (s.targetOk e (targetAt e e.idx (-1))).2 && decide (e.th.search.sheaf.length < 272) && decide (e.th.search.trail.length + 1 ≤ 1024)) :=
  alone_of (by decide +kernel)
theorem met_try_outside : Lone tRun (tTry (-1)) (fun _ _ _ _ _ e => !e.th.search.mode) := alone_of (by decide +kernel)
theorem met_try_label : Lone (tSearch [] []) (tTry 0) (fun s _ _ _ _ e => e.th.search.mode && !(s.targetOk e (targetAt e e.idx 0)).2) := alone_of (by decide +kernel)
theorem met_try_deep : Lone (tSearch (List.replicate 272 (tChoice 1 1)) []) (tTry (-1)) (fun s _ _ _ _ e => (s.targetOk e (targetAt e e.idx (-1))).2 &&
    decide (272 ≤ e.th.search.sheaf.length)) := alone_of (by decide +kernel)
theorem met_try_full : Lone (tSearch [] (List.replicate 1024 ⟨0, 9, false⟩)) (tTry (-1)) (fun s _ _ _ _ e => (s.targetOk e (targetAt e e.idx (-1))).2 &&
    decide (e.th.search.sheaf.length < 272) && decide (1024 < e.th.search.trail.length + 1)) := alone_of (by decide +kernel)

theorem met_fail_not : Lone tRun (.failIfP ⟨3, 0⟩) (fun _ op sh iss _ e => tLast iss op sh && !e.th.p.getLsbD 3) := alone_of (by decide +kernel)
theorem met_fail_outside : Lone tRun (.fail ⟨0, 0⟩) (fun _ op sh iss _ e => tLast iss op sh && !e.th.search.mode) := alone_of (by decide +kernel)
/-- A FAIL that drops one used choice point and takes the next alternative of the one below, and one that finds none left. -/
theorem met_fail_next : Lone (tSearch [tChoice 2 2, tChoice 3 1] [⟨5, 9, false⟩, ⟨6, 1, true⟩]) (.fail ⟨0, 0⟩) (fun _ op sh iss _ e => tLast iss op sh &&
    e.th.search.mode && decide (e.prot = 0) && decide (e.th.search.sheaf = [tChoice 2 2] ++ tChoice 3 1 :: []) && decide ((tChoice 2 2).n ≤ (tChoice 2 2).next) &&
    decide ((tChoice 3 1).next < (tChoice 3 1).n)) := alone_of (by decide +kernel)
theorem met_fail_exit : Lone (tSearch [tChoice 2 2] []) (.fail ⟨0, 0⟩) (fun _ op sh iss _ e => tLast iss op sh && e.th.search.mode && decide (e.prot = 0) &&
    e.th.search.sheaf.all (fun u => decide (u.n ≤ u.next))) := alone_of (by decide +kernel)
theorem met_cut : Met (tSearch [tChoice 2 1] []) (.cut (fA 0 0xD0 0)) (fun _ _ _ _ es => es.all (fun e => e.th.search.mode)) ∧
    Met (tSearch [tChoice 2 1] []) (.cutall (fA 0 0 0)) (fun _ _ _ _ es => es.all (fun e => e.th.search.mode)) ∧
    Lone tRun (.cut (fA 0 0xD0 0)) (fun _ _ _ _ _ e => !e.th.search.mode) ∧ Lone tRun (.cutall (fA 0 0 0)) (fun _ _ _ _ _ e => !e.th.search.mode) :=
  ⟨met_of (by decide +kernel), met_of (by decide +kernel), alone_of (by decide +kernel), alone_of (by decide +kernel)⟩

/-- A thief and a victim in one warp; the thief alone executes. -/
def tThief (victim : List Choice) (i : Instr) : State :=
  let s := tSearch victim [] i
  s.updBlock 1 (fun b => { b with nthr := 2, warps := b.warps.map (fun w => { w with threads := (w.threads.map (fun th =>
    { th with search := { th.search with sheaf := [] } })) ++ w.threads }) })
theorem met_glean_not : Lone (tSearch [tChoice 2 1] []) (.glean ⟨0, -1⟩) (fun _ op sh iss _ e => tLast iss op sh && !e.th.search.sheaf.isEmpty) := alone_of (by decide +kernel)
theorem met_glean_label : Lone (tThief []) (.glean ⟨0, 0⟩) (fun s op sh iss _ e => tLast iss op sh && e.th.search.mode && e.th.search.sheaf.isEmpty &&
    !(s.targetOk e (targetAt e e.idx 0)).2) := alone_of (by decide +kernel)
theorem met_glean_none : Lone (tThief []) (.glean ⟨0, -1⟩) (fun s op sh iss _ e => tLast iss op sh && e.th.search.mode && e.th.search.sheaf.isEmpty &&
    (s.targetOk e (targetAt e e.idx (-1))).2 && ((s.targetOk e (targetAt e e.idx (-1))).1.steal e ⟨1, 0, 0⟩).isNone) := alone_of (by decide +kernel)
theorem met_glean : Lone (tThief [tChoice 3 1]) (.glean ⟨0, -1⟩) (fun s op sh iss _ e => tLast iss op sh && e.th.search.mode && e.th.search.sheaf.isEmpty &&
    (s.targetOk e (targetAt e e.idx (-1))).2 &&
    (let s1 := (s.targetOk e (targetAt e e.idx (-1))).1
     (match s1.steal e ⟨1, 0, 0⟩ with | some (some _) => true | _ => false) &&
     (match s1.block? e.blk with
      | some b => (match s1.gleanPick e b with
        | some (depth, _, v, c) => v != ⟨1, 0, 0⟩ && v.blk == 1 && (match b.thread? v.wp v.m with
          | some vt => decide (vt.search.sheaf.reverse[depth]? = some c)
          | none => false)
        | none => false)
      | none => false))) := alone_of (by decide +kernel)

/-! ## Hypotheses met: memory -/

/-- An access that passes, and one that does not. -/
def tOk {α : Type} (x : State × Except FInfo α) : Bool := match x.2 with | .ok _ => true | .error _ => false
def tErr {α : Type} (x : State × Except FInfo α) : Bool := !tOk x

/-- More page tables: a table at 0x30000 for 0x20000000 on, with a leaf or a bad entry for each 64 KiB of it, and two bad 512 MiB leaves. -/
def tEntries (es : List (Nat × DWord)) : List (Nat × Byte) := es.flatMap (fun p => atKeys p.1 (leBytes 8 p.2.toNat))
def tLow : List (Nat × Byte) := tEntries [(0, 0x13001), (8, 0x2007), (16, 0x17001), (0x10000, 0x2007), (0x10008, 0x33001), (0x10010, 0x20012007),
  (0x10018, 0x8000002007), (0x10020, 0x2006), (0x10028, 0x1007)]
def tHigh : List (Nat × Byte) := tEntries [(0x30000, 0x40007), (0x30008, 0x201007), (0x30010, 0x11007), (0x30018, 0x2007), (0x30020, 0x8000000007), (0x30028, 0x40006),
  (0x30030, 0x5000B), (0x30038, 0x50047), (0x30040, 0x500A7), (0x30048, 0x501C7), (0x30050, 0x5001F), (0x30058, 0x501A7), (0x30060, 0x50003), (0x30068, 0x50001), (0x30070, 0x5003F)]

/-- The address in page j of that table. -/
def tPage (j : Nat) (off : Nat := 0) : Nat := 0x20000000 + 0x10000 * j + off

def tPaged (s : State) : State := { s with mem := tMem (tLow ++ s.mem.filter (fun p => decide (0x20000 ≤ p.1)) ++ tHigh) }

/-- The three entries that the walk of an address reads. -/
def tE0 (va : DWord) : DWord := entryAt (tPaged State.reset).mem (8 * (va.extractLsb' 42 10).toNat)
def tE1 (va : DWord) : DWord := entryAt (tPaged State.reset).mem (pteBase (tE0 va) + 8 * (va.extractLsb' 29 13).toNat)
def tE2 (va : DWord) : DWord := entryAt (tPaged State.reset).mem (pteBase (tE1 va) + 8 * (va.extractLsb' 16 13).toNat)
def tGood (e : DWord) : Bool := pteV e && !pteReserved e
def tPair (va : Nat) (i : Instr) : State := tW (tPaged (tRun i)) 4 [BitVec.ofNat 32 va, BitVec.ofNat 32 (va / 2 ^ 32)]

theorem met_walk_start : Tab.find (tPaged (tRun (.nop (fA 0 0 0)))).ctxs 0 = some placedCtx ∧ placedCtx.root = 0 ∧
    (tPaged (tRun (.nop (fA 0 0 0)))).tlbHit 0 0 0x20000000 = none := by decide +kernel
theorem met_walk_high : (0x0010000000000000 : DWord).extractLsb' 52 12 ≠ 0 := by decide +kernel
/-- The root's entry: invalid, no pointer, reserved bits, and good. -/
theorem met_walk_e0 : tGood (tE0 0x000FFC0000000000) = false ∧ pteKind (tE0 0x40000000000) ≠ 3 ∧ tGood (tE0 0x80000000000) = false ∧
    (tGood (tE0 0x20000000) = true ∧ pteKind (tE0 0x20000000) = 3) := by decide +kernel
/-- The next: invalid, a leaf too high, a 512 MiB leaf in its place, one misplaced, one out of range, a pointer. -/
theorem met_walk_e1 : tGood (tE1 0x80000000) = false ∧ pteKind (tE1 0xA0000000) < 2 ∧ (tGood (tE1 0) = true ∧ pteKind (tE1 0) = 2 ∧ pteBase (tE1 0) % 536870912 = 0 ∧
    inRange (tPaged State.reset).mem placedCtx 0 (pteBase (tE1 0) + 536870911) = true) ∧ (pteKind (tE1 0x40000000) = 2 ∧ pteBase (tE1 0x40000000) % 536870912 ≠ 0) ∧
    (pteKind (tE1 0x60000000) = 2 ∧ inRange (tPaged State.reset).mem placedCtx 0 (pteBase (tE1 0x60000000)) = false) ∧ pteKind (tE1 0x20000000) = 3 := by decide +kernel
/-- The last: a 64 KiB leaf, a 2 MiB leaf, a misplaced one, a pointer or a large leaf too low, one out of range, one not valid. -/
theorem met_walk_e2 : (tGood (tE2 0x20000000) = true ∧ pteKind (tE2 0x20000000) = 0) ∧ (pteKind (tE2 0x20010000) = 1 ∧ pteBase (tE2 0x20010000) % 2097152 = 0) ∧
    pteBase (tE2 0x20020000) % 2097152 ≠ 0 ∧ 1 < pteKind (tE2 0x20030000) ∧
    inRange (tPaged State.reset).mem placedCtx 0 (pteBase (tE2 0x20040000)) = false ∧ tGood (tE2 0x20050000) = false := by decide +kernel

/-- The checks of an access: its last byte ends the frame; each check is the first to fail once. -/
def tRead : Want := ⟨.read, false, fmtRaw, true⟩
def tWrite : Want := ⟨.write, false, fmtRaw, true⟩
def tPagesOf : State := tCtx (tPaged (tRun (.nop (fA 0 0 0)))) (fun c => { c with bound := [(0x100000, 0x28000, 256)] })
theorem met_checks_start : (0x20000001 : DWord).toNat % 2 ≠ 0 ∧ (0x2000FFF0 : DWord).toNat % 65536 + 16 ≤ 65536 ∧
    (tPagesOf.translate 0 0 0x20050000).2 = none := by decide +kernel
def tCheck (va : DWord) (q : DWord → Bool) : Bool := match (tPagesOf.translate 0 0 va).2 with | some (_, pte) => q pte | none => false
theorem met_checks_permission : tCheck 0x20060000 (fun p => !permitted p .write false) = true := by decide +kernel
theorem met_checks_format : tCheck 0x20070000 (fun p => permitted p .read false && !fmtRaw p) = true := by decide +kernel
theorem met_checks_unheld : tCheck 0x280FF (fun p => permitted p .write false && fmtRaw p && tPagesOf.unheld 0 1 0x280FF 1) = true := by decide +kernel
theorem met_checks_pass : tCheck 0x28100 (fun p => permitted p .write false && fmtRaw p && !tPagesOf.unheld 0 1 0x28100 1) = true := by decide +kernel

/-- A load of the last word of a page, of one whose check fails, and of one that holds an error. -/
def iLd : Instr := .ld32 (fM 7 4)
def tBad (va : Nat) (i : Instr) : State := { tPair va i with poison := [2 * (va / 8)] }
def tLoad (s : State) (e : Env) (q : State → List Nat → Bool) : Bool :=
  match s.access e.core e.ctx e.blk tRead 4 (addrOf e (fM 7 4) 4) 4 with
  | (s1, .ok (keys, _)) => q s1 keys
  | _ => false
theorem met_load : Lone (tPair 0x2FFFC) iLd (fun s _ _ _ _ e => (loadOf iLd).isSome && tLoad s e (fun s1 keys => tOk (s1.readBytes e (addrOf e (fM 7 4) 4) keys) &&
    s.clusters.isEmpty && !s.memBad keys)) := alone_of (by decide +kernel)
theorem met_load_fails : Lone (tPair 0x2FFFE) iLd (fun s _ _ _ _ e => tErr (s.access e.core e.ctx e.blk tRead 4 (addrOf e (fM 7 4) 4) 4)) := alone_of (by decide +kernel)
theorem met_load_bad : Lone (tBad 0x28000) iLd (fun s _ _ _ _ e => tLoad s e (fun s1 keys => tErr (s1.readBytes e (addrOf e (fM 7 4) 4) keys))) := alone_of (by decide +kernel)
theorem met_view : ((tRun iLd).block? 1).isSome = true ∧ ((tRun iLd).thread? ⟨1, 0, 0⟩).isSome = true ∧
    (match (tRun iLd).block? 1 with | some b => b.held.isEmpty | none => false) = true := by decide +kernel

/-- Stores: without protection, to a peer, held with room for it and without, refused, and in tile code. -/
def iSt : Instr := .st128 (fM 8 4)
def tStore (s : State) (e : Env) (q : List Nat → DWord → Bool) : Bool :=
  match s.access e.core e.ctx e.blk tWrite 16 (addrOf e (fM 8 4) 16) 16 with
  | (_, .ok (keys, pte :: _)) => q keys pte
  | _ => false
def tProt (p jcount : Nat) (s : State) : State := s.updBlock 1 (fun b => { b with prot := p, jcount := jcount })
theorem met_store : Lone (tPair 0x2FFF0) iSt (fun s _ _ _ l e => (storeOf iSt).isSome && l == .thr ⟨1, 0, 0⟩ && decide (e.prot = 0) && s.clusters.isEmpty &&
    (s.pick (fun th => !th.stq.isEmpty)).isEmpty && tStore s e (fun _ pte => pteLoc pte != 3)) := alone_of (by decide +kernel)
theorem met_store_peer : Lone (fun i => tCtx (tPair (tPage 10) i) (fun c => { c with npeers := 1 })) iSt (fun s _ _ _ l e => l == .thr ⟨1, 0, 0⟩ && decide (e.prot = 0) &&
    tStore s e (fun _ pte => pteLoc pte == 3)) := alone_of (by decide +kernel)
theorem met_store_fails : Lone (tPair 0x2FFF8) iSt (fun s _ _ _ _ e => tErr (s.access e.core e.ctx e.blk tWrite 16 (addrOf e (fM 8 4) 16) 16)) := alone_of (by decide +kernel)
theorem met_store_held : Lone (fun i => tProt 1 4094 (tPair 0x2FFF0 i)) iSt (fun s _ _ _ l e => l == .thr ⟨1, 0, 0⟩ && tStore s e (fun _ _ => true) &&
    (match s.block? 1 with | some b => decide (b.prot ≠ 0) && decide (b.jcount + (16 + 7) / 8 ≤ 4096) | none => false)) := alone_of (by decide +kernel)
theorem met_store_full : Lone (fun i => tProt 1 4095 (tPair 0x2FFF0 i)) iSt (fun s _ _ _ l e => l == .thr ⟨1, 0, 0⟩ && tStore s e (fun _ _ => true) &&
    (match s.block? 1 with | some b => decide (b.prot ≠ 0) && decide (4096 < b.jcount + (16 + 7) / 8) | none => false)) := alone_of (by decide +kernel)
/-- A tile program's k4, k5 hold an address. -/
def tTilePair (va : Nat) (i : Instr) : State :=
  (tPaged (tTile i)).updTile 0 (fun r => { r with th := { r.th with w := r.th.w.setIfInBounds 4 (BitVec.ofNat 32 va) } })
theorem met_store_tile : Lone (tTilePair 0x2FFF0) iSt (fun s _ _ _ l e => l == .tile 0 && tStore s e (fun _ pte => pteLoc pte != 3)) := alone_of (by decide +kernel)

/-- Formats of elements: one of each size, and bfp pages at both ends of the formats and with each block length. -/
theorem met_element_scalar : pteFmt 0x20 = 1 ∧ pteFmt 0x40 = 2 ∧ pteFmt 0x60 = 3 ∧ pteFmt 0x80 = 4 ∧ pteFmt 0x180 = 12 := by decide +kernel
theorem met_element_bfp : (pteFmt 0xA0 = 5 ∧ pteGeo 0xA0 = 0 ∧ (8 : Nat) = 13 - pteFmt 0xA0) ∧ (pteFmt 0x2E0 = 7 ∧ pteGeo 0x2E0 = 1) ∧
    (pteFmt 0x560 = 11 ∧ pteGeo 0x560 = 2 ∧ (2 : Nat) = 13 - pteFmt 0x560) := by decide +kernel
def iLde : Instr := .ldeF32 (fA 7 4 0xD3)
theorem met_lde : Lone (tPair (tPage 7)) iLde (fun s _ _ _ _ e => tOk (s.loadElem e false (e.pair 4) (e.b (fA 7 4 0xD3)).toNat)) := alone_of (by decide +kernel)
theorem met_lde_fails : Lone (tPair (tPage 5)) iLde (fun s _ _ _ _ e => tErr (s.loadElem e false (e.pair 4) (e.b (fA 7 4 0xD3)).toNat)) := alone_of (by decide +kernel)
theorem met_lde_two : Lone (tPair (tPage 7)) (.ldeBf16x2 (fA 7 4 0xD2)) (fun s _ _ _ _ e => tOk (s.loadElem e false (e.pair 4) 2) &&
    tOk ((s.loadElem e false (e.pair 4) 2).1.loadElem e false (e.pair 4) 3)) := alone_of (by decide +kernel)
theorem met_ldexp : Lone (tPair (tPage 8)) (.ldexp (fA 7 4 0xD3)) (fun s _ _ _ _ e => tOk (s.loadElem e true (e.pair 4) 3)) := alone_of (by decide +kernel)
theorem met_ldexp_fails : Lone (tPair (tPage 7)) (.ldexp (fA 7 4 0xD3)) (fun s _ _ _ _ e => tErr (s.loadElem e true (e.pair 4) 3)) := alone_of (by decide +kernel)
theorem met_ste : Met (tPair (tPage 7)) (.steF32 (fA 7 4 0xD3)) (fun s _ _ _ es => (s.steAll false (fA 7 4 0xD3) false es).faults.isEmpty &&
    (es.foldlM (stePut false (fA 7 4 0xD3) (s.steAll false (fA 7 4 0xD3) false es).vals) (s.steAll false (fA 7 4 0xD3) false es).s).isSome) := met_of (by decide +kernel)
theorem met_ste_two : Met (tPair (tPage 7)) (.steBf16x2 (fA 7 4 0xD2)) (fun s _ _ _ es => (s.steAll true (fA 7 4 0xD2) false es).faults.isEmpty &&
    (es.foldlM (stePut true (fA 7 4 0xD2) (s.steAll true (fA 7 4 0xD2) false es).vals) (s.steAll true (fA 7 4 0xD2) false es).s).isSome) := met_of (by decide +kernel)

/-- Scratchpad: the last place of the region, a misaligned one, the first outside, and one that holds an error. The region is 4,096 bytes at 0. -/
def tOff (v : Word) (i : Instr) : State := tW (tRun i) 4 [v]
def tScr (e : Env) (n : Nat) : Bool := decide (e.scrBase ≤ (offOf e (fM 8 4) n).toNat) && decide ((offOf e (fM 8 4) n).toNat + n ≤ e.scrBase + e.scrSize)
theorem met_lds : Lone (tOff 4080) (.lds128 (fM 8 4)) (fun s _ _ _ _ e => (ldsOf (.lds128 (fM 8 4))).isSome && tScr e 16 && s.poison.isEmpty) := alone_of (by decide +kernel)
theorem met_lds_bad : Lone (fun i => { tOff 4080 i with poison := [2 * (4080 / 8) + 1] }) (.lds128 (fM 8 4)) (fun s _ _ _ _ e => tScr e 16 &&
    s.scrBad ((List.range 16).map (fun k => 4080 + k))) := alone_of (by decide +kernel)
theorem met_lds_misaligned : Lone (tOff 4088) (.lds128 (fM 8 4)) (fun _ _ _ _ _ e => decide ((offOf e (fM 8 4) 16).toNat % 16 ≠ 0)) := alone_of (by decide +kernel)
theorem met_lds_outside : Lone (tOff 4096) (.lds128 (fM 8 4)) (fun _ _ _ _ _ e => !tScr e 16) := alone_of (by decide +kernel)
theorem met_sts : Lone (tOff 4094) (.sts16 (fM 8 4)) (fun _ _ _ _ l e => (stsOf (.sts16 (fM 8 4))).isSome && tScr e 2 && l == .thr ⟨1, 0, 0⟩ && decide (e.prot = 0)) := alone_of (by decide +kernel)
theorem met_sts_misaligned : Lone (tOff 4095) (.sts16 (fM 8 4)) (fun _ _ _ _ _ e => decide ((offOf e (fM 8 4) 2).toNat % 2 ≠ 0) && decide (e.prot = 0)) := alone_of (by decide +kernel)
theorem met_sts_outside : Lone (tOff 4096) (.sts16 (fM 8 4)) (fun _ _ _ _ _ e => !tScr e 2 && decide (e.prot = 0)) := alone_of (by decide +kernel)

/-- Sharing groups: key 7; slot 15 is the last. Two blocks of one launch. -/
def tGroup (own other : Option (Word × Nat)) (i : Instr) : State :=
  let s := tRun i
  let s := s.updBlock 1 (fun b => { b with group := own })
  match s.block? 1 with
  | some b => { s with blocks := Tab.ins s.blocks 2 { b with core := 1, group := other } }
  | none => s
def iJoin : Instr := .gjoin (fA 3 0xD7 0xDF)
def tJoin (q : State → Env → Block → Bool) (s : State) (es : List Env) : Bool :=
  match es.head? with
  | some e => decide (e.prot = 0) && (match s.block? e.blk with | some b => q s e b | none => false)
  | none => false
theorem met_gjoin_again : Met (tGroup (some (7, 15)) none) iJoin (fun s _ _ _ es => tJoin (fun _ _ b => b.group == some (7, 15)) s es) := met_of (by decide +kernel)
theorem met_gjoin_taken : Met (tGroup none (some (7, 15))) iJoin (fun s _ _ _ es => tJoin (fun s _ b => b.group.isNone && (s.member b 7 15).isSome) s es) := met_of (by decide +kernel)
theorem met_gjoin_other : Met (tGroup (some (7, 14)) none) iJoin (fun s _ _ _ es => tJoin (fun _ _ b => b.group.isSome && b.group != some (7, 15)) s es) := met_of (by decide +kernel)
theorem met_gjoin_free : Met (tGroup none none) iJoin (fun s _ _ _ es => tJoin (fun s _ b => b.group.isNone && (s.member b 7 15).isNone) s es) := met_of (by decide +kernel)
theorem met_gjoin_slot : Lone (tGroup none none) (.gjoin (fA 3 0xD7 0xE0)) (fun _ _ _ _ _ e => decide (15 < (e.b (fA 3 0xD7 0xE0)).toNat)) := alone_of (by decide +kernel)
theorem met_gleave : Met (tGroup (some (7, 15)) none) (.gleave (fA 0 0xD7 0)) (fun s _ _ _ es => tJoin (fun _ _ _ => true) s es) := met_of (by decide +kernel)
/-- Slot 15's region through slot 15's own number: its last word, and the first beyond it. -/
def tShared (off : Word) (i : Instr) : State := tW (tGroup (some (7, 0)) (some (7, 15)) i) 4 [off]
def tWordOk (s : State) (e : Env) (off : Word) (wr : Bool) : Bool := match s.clusterWord e off wr with | .ok _ => true | .error _ => false
theorem met_ldc : Lone (tShared (15 * 262144 + 4092)) (.ldc32 (fM 8 4)) (fun s _ _ _ _ e => tWordOk s e (offOf e (fM 8 4) 4) false && s.poison.isEmpty) := alone_of (by decide +kernel)
theorem met_ldc_fails : Lone (tShared (15 * 262144 + 4096)) (.ldc32 (fM 8 4)) (fun s _ _ _ _ e => !tWordOk s e (offOf e (fM 8 4) 4) false) := alone_of (by decide +kernel)
theorem met_stc : Lone (tShared (15 * 262144 + 4092)) (.stc32 (fM 8 4)) (fun s _ _ _ _ e => decide (e.prot = 0) && tWordOk s e (offOf e (fM 8 4) 4) true) := alone_of (by decide +kernel)
theorem met_stc_fails : Lone (tShared (1 * 262144)) (.stc32 (fM 8 4)) (fun s _ _ _ _ e => !tWordOk s e (offOf e (fM 8 4) 4) true) := alone_of (by decide +kernel)
theorem met_cluster_offset : ((tShared 0 iJoin).block? ((tShared 0 iJoin).holder 1)).isSome = true ∧
    (match (tShared 0 iJoin).block? 1 with
     | some b => b.group == some (7, 0) && ((tShared 0 iJoin).member b 7 1).isNone && ((tShared 0 iJoin).member b 7 15).isSome
     | none => false) = true ∧ (match (tRun iJoin).block? 1 with | some b => b.group.isNone | none => false) = true ∧
    (2 ^ 22 : Nat) ≤ (0x400000 : Word).toNat ∧ (0x3FFFFC : Word).toNat < 2 ^ 22 ∧ (2 : Word).toNat % 4 ≠ 0 := by decide +kernel

/-- Silo: pages j = 6 (LOC 1) and 0 (LOC 0), the group's timer inside its refresh window and outside it. -/
def tSilo (j timer : Nat) (i : Instr) : State := (tPair (tPage j) i).updDie 0 (fun d => { d with silo := timer })
def iSilost : Instr := .silost (fA 7 4 0)
def iSilowait (gap : BitVec 8) (lit : Word := 0) : Instr := .silowait (fA 0 4 gap 0 lit)
def tSiloAt (s : State) (e : Env) (loc1 : Bool) (q : Int → Bool) : Bool :=
  match s.access e.core e.ctx e.blk ⟨.read, false, fmtAny, true⟩ 1 (e.pair 4) 1 with
  | (_, .ok (keys, [pte])) =>
    let pa := keys.headD 0 - 2 ^ 52
    (pteLoc pte == 1) == loc1 && q (((s.siloTimer (pa / 2 ^ 31 % 4) : Int) - 1000 * (pa / 2 ^ 12 % 64 : Nat)) % 64000)
  | _ => false
theorem met_silost_elsewhere : Lone (tSilo 0 0) iSilost (fun s _ _ _ _ e => tSiloAt s e false (fun _ => true)) := alone_of (by decide +kernel)
theorem met_silost_inside : Lone (tSilo 6 (16000 + 1199)) iSilost (fun s _ _ _ _ e => tSiloAt s e true (fun now => decide (now = 1199))) := alone_of (by decide +kernel)
theorem met_silost_outside : Lone (tSilo 6 (16000 + 1200)) iSilost (fun s _ _ _ _ e => tSiloAt s e true (fun now => decide (now = 1200))) := alone_of (by decide +kernel)
theorem met_silowait_gap : Lone (tSilo 6 0) (iSilowait 0xCF 6281) (fun _ _ _ _ _ e => decide (6280 < (e.b (fA 0 4 0xCF 0 6281)).toNat)) := alone_of (by decide +kernel)
theorem met_silowait_goes : Lone (tSilo 6 (16000 + 1200)) (iSilowait 0xCF 6280) (fun s _ _ _ _ e =>
    tSiloAt s e true (fun now => decide (1200 ≤ now) && decide (10 * (6280 : Int) ≤ 64000 - now))) := alone_of (by decide +kernel)
theorem met_silowait_elsewhere : Lone (tSilo 0 0) (iSilowait 0xD0) (fun s _ _ _ _ e => tSiloAt s e false (fun _ => true)) := alone_of (by decide +kernel)
theorem met_silowait_holds : Lone (tSilo 6 (16000 + 1201)) (iSilowait 0xCF 6280) (fun s _ _ _ _ e =>
    tSiloAt s e true (fun now => decide (64000 - now < 10 * (6280 : Int)))) := alone_of (by decide +kernel)

/-- A loft area of 64 bytes: its last 16 bytes, a misaligned offset, the first outside. -/
def tLoft (off : Word) (i : Instr) : State := (tOff off i).updBlock 1 (fun b => { b with loftSize := 64 })
def tLoftIs (s : State) (q : Block → Bool) : Bool := match s.block? 1 with | some b => decide (b.prot = 0) && q b | none => false
theorem met_spill : Lone (tLoft 48) (.spill (fM 8 4)) (fun s _ _ _ _ e => tLoftIs s (fun b => decide ((offOf e (fM 8 4) 16).toNat + 16 ≤ b.loftSize))) := alone_of (by decide +kernel)
theorem met_spill_misaligned : Lone (tLoft 40) (.spill (fM 8 4)) (fun s _ _ _ _ e => tLoftIs s (fun _ => decide ((offOf e (fM 8 4) 16).toNat % 16 ≠ 0))) := alone_of (by decide +kernel)
theorem met_spill_outside : Lone (tLoft 64) (.spill (fM 8 4)) (fun s _ _ _ _ e => tLoftIs s (fun b => decide (b.loftSize < (offOf e (fM 8 4) 16).toNat + 16))) := alone_of (by decide +kernel)
theorem met_fill : Lone (tLoft 48) (.fill (fM 8 4)) (fun s _ _ _ _ e => tLoftIs s (fun b => decide ((offOf e (fM 8 4) 16).toNat + 16 ≤ b.loftSize)) && s.poison.isEmpty) := alone_of (by decide +kernel)
theorem met_fill_misaligned : Lone (tLoft 40) (.fill (fM 8 4)) (fun s _ _ _ _ e => tLoftIs s (fun _ => decide ((offOf e (fM 8 4) 16).toNat % 16 ≠ 0))) := alone_of (by decide +kernel)
theorem met_fill_outside : Lone (tLoft 64) (.fill (fM 8 4)) (fun s _ _ _ _ e => tLoftIs s (fun b => decide (b.loftSize < (offOf e (fM 8 4) 16).toNat + 16))) := alone_of (by decide +kernel)
theorem met_pref : Lone (tPair 0x28000) (.pref (fM 0 4)) (fun _ _ _ _ _ _ => true) ∧ Lone (tPair (tPage 5)) (.pref (fM 0 4)) (fun _ _ _ _ _ _ => true) :=
  ⟨alone_of (by decide +kernel), alone_of (by decide +kernel)⟩

/-! ## Hypotheses met: engine ports and allocation -/

theorem met_eput : Met tTwo (.eput (fA 3 4 0)) (fun _ _ _ _ _ => true) := met_of (by decide +kernel)
/-- A command of one row of 16 bytes, from memory to memory; the queue empty or full. -/
def tStage (w3 : DWord) (queued : Nat) (i : Instr) : State :=
  let s := tThread (tRun i) (fun th => { th with stage := #v[0x28000, 0x29000, 0x00010010, w3] })
  s.updCluster 0 (fun c => { c with ceQ := List.replicate queued ⟨1, 0, 0, ⟨1, 0, 0⟩, 0, 0, 0, 0, none⟩ })
def iEgo : Instr := .ego (fA 8 0 0)
def tEgo (e : Env) : Bool := (egoFault e e.th.stage[0] e.th.stage[1] e.th.stage[2] e.th.stage[3]).isNone
theorem met_ego : Lone (tStage 0 7) iEgo (fun s _ _ _ l e => l == .thr ⟨1, 0, 0⟩ && decide (e.prot = 0) && decide (e.core < 1024) && tEgo e &&
    decide (((s.settle ⟨1, 0, 0⟩).cluster 0).ceQ.length < 8)) := alone_of (by decide +kernel)
theorem met_ego_full : Lone (tStage 0 8) iEgo (fun s _ _ _ l e => l == .thr ⟨1, 0, 0⟩ && decide (e.prot = 0) && decide (e.core < 1024) && tEgo e &&
    decide (8 ≤ ((s.settle ⟨1, 0, 0⟩).cluster 0).ceQ.length)) := alone_of (by decide +kernel)
theorem met_ego_refused : Lone (tStage 3 0) iEgo (fun _ _ _ _ _ e => decide (e.prot = 0) && !tEgo e) := alone_of (by decide +kernel)
theorem met_epoll : Lone (tPair 0) (.epoll (fA 7 4 0)) (fun _ _ _ _ _ _ => true) := alone_of (by decide +kernel)
/-- EGO's protocol: its last two operations, and a range that ends with the region and one beyond it. -/
theorem met_protocol : (2 ≤ ((2 : DWord).extractLsb' 0 2).toNat) ∧ ¬ (2 ≤ ((1 : DWord).extractLsb' 0 2).toNat) ∧
    (((0x0100000000000FF0 : DWord).extractLsb' 56 2).toNat = 1 ∧ ((0x0100000000000FF0 : DWord).extractLsb' 0 52).toNat + 16 = 4096) ∧
    4096 < ((0x0100000000000FF1 : DWord).extractLsb' 0 52).toNat + 16 := by decide +kernel

/-- A heap quota of 64 bytes of which some are taken. -/
def tHeap (taken : Nat) (allocs : List Nat) (size : Word) (i : Instr) : State :=
  (tW (tRun i) 4 [size, 0]).updBlock 1 (fun b => { b with quota := 64, warps := b.warps.map (fun w => { w with heapOff := taken, allocs := allocs }) })
def tWarpIs (s : State) (q : Block → Warp → Bool) : Bool := match s.block? 1 with | some b => (match b.warps[0]? with | some w => q b w | none => false) | none => false
def iAlloc : Instr := .alloc (fA 8 4 0)
theorem met_alloc_last : Lone (tHeap 48 [0] 16) iAlloc (fun s _ _ _ _ _ => tWarpIs s (fun b w => decide (w.heapOff + 16 ≤ b.quota))) := alone_of (by decide +kernel)
theorem met_alloc_over : Lone (tHeap 48 [0] 17) iAlloc (fun s _ _ _ _ _ => tWarpIs s (fun b w => decide (b.quota < w.heapOff + 32))) := alone_of (by decide +kernel)
theorem met_alloc_none : Lone (tHeap 0 [] 0) iAlloc (fun _ _ _ _ _ e => decide (e.a (fA 8 4 0) = 0)) := alone_of (by decide +kernel)
theorem met_free : Lone (tHeap 48 [32, 0] 32) (.free (fA 0 4 0)) (fun s _ _ _ _ e => tWarpIs s (fun _ w => w.allocs.contains 32 && decide (e.pair 4 = 32))) := alone_of (by decide +kernel)
theorem met_free_other : Lone (tHeap 48 [32, 0] 16) (.free (fA 0 4 0)) (fun s _ _ _ _ e => tWarpIs s (fun _ w => !w.allocs.contains 16 && decide (e.pair 4 = 16))) := alone_of (by decide +kernel)

/-! ## Hypotheses met: synchronisation -/

/-- A sync object at 0x50000 with holders and waiters; w4, w5 hold its address, w8 to w10 a region. -/
def tSync (hs ws : List (Nat × Bool)) (i : Instr) : State := { tPair (tPage 9) i with syncs := [(0x50000, (hs, ws))] }
def tObj (s : State) (es : List Env) (q : State → Nat → Bool) : Bool :=
  match es.head? with
  | some e => decide (e.prot = 0) && (match s.syncObj e (e.pair 4) with | (s1, .ok obj) => q s1 obj | _ => false)
  | none => false
def iAcq (excl : Bool) : Instr := if excl then .acqX (fA 0 4 0) else .acqS (fA 0 4 0)
theorem met_acq_has : Met (tSync [(1, true)] []) (iAcq false) (fun s _ _ _ es => tObj s es (fun s1 o => (s1.sync o).1.contains (s1.holder 1, true))) := met_of (by decide +kernel)
theorem met_acq_shared : Met (tSync [(1, false)] []) (iAcq false) (fun s _ _ _ es => tObj s es (fun s1 o => (s1.sync o).1.contains (s1.holder 1, false))) := met_of (by decide +kernel)
theorem met_acq_upgrade : Lone (tSync [(1, false)] []) (iAcq true) (fun s _ _ _ _ e => tObj s [e] (fun s1 o => !(s1.sync o).1.contains (s1.holder 1, true) &&
    (s1.sync o).1.contains (s1.holder 1, false))) := alone_of (by decide +kernel)
theorem met_acq_free : Met (tSync [] []) (iAcq true) (fun s _ _ _ es => tObj s es (fun s1 o => (s1.sync o).1.isEmpty && (s1.sync o).2.isEmpty)) := met_of (by decide +kernel)
theorem met_acq_joins : Met (tSync [(2, false)] []) (iAcq false) (fun s _ _ _ es => tObj s es (fun s1 o => (s1.sync o).2.isEmpty &&
    (s1.sync o).1.all (fun h => !h.2) && decide ((s1.sync o).1.length < 65535) && !(s1.sync o).1.contains (s1.holder 1, false))) := met_of (by decide +kernel)
theorem met_acq_waits : Met (tSync [(2, false)] [(3, true)]) (iAcq false) (fun s _ _ _ es => tObj s es (fun s1 o => !(s1.sync o).2.isEmpty &&
    !(s1.sync o).1.contains (s1.holder 1, false))) := met_of (by decide +kernel)
def iTryX : Instr := .acqtryX (fA 3 4 0)
theorem met_acqtry_has : Met (tSync [(1, true)] []) iTryX (fun s _ _ _ es => tObj s es (fun s1 o => (s1.sync o).1.contains (s1.holder 1, true))) := met_of (by decide +kernel)
theorem met_acqtry_free : Met (tSync [] []) iTryX (fun s _ _ _ es => tObj s es (fun s1 o => (s1.sync o).1.isEmpty && (s1.sync o).2.isEmpty)) := met_of (by decide +kernel)
theorem met_acqtry_busy : Met (tSync [(2, true)] []) iTryX (fun s _ _ _ es => tObj s es (fun s1 o => !(s1.sync o).1.isEmpty &&
    !(s1.sync o).1.contains (s1.holder 1, true))) := met_of (by decide +kernel)
theorem met_rel_x : Met (tSync [(1, true)] [(2, false)]) (.rel (fA 0 4 0)) (fun s _ _ _ es => tObj s es (fun s1 o => (s1.sync o).1.contains (s1.holder 1, true))) := met_of (by decide +kernel)
theorem met_rel_s : Met (tSync [(1, false)] []) (.rel (fA 0 4 0)) (fun s _ _ _ es => tObj s es (fun s1 o => !(s1.sync o).1.contains (s1.holder 1, true) &&
    (s1.sync o).1.contains (s1.holder 1, false))) := met_of (by decide +kernel)
theorem met_rel_not : Lone (tSync [(2, true)] []) (.rel (fA 0 4 0)) (fun s _ _ _ _ e => tObj s [e] (fun s1 o => (s1.sync o).1.all (fun h => h.1 != s1.holder 1))) := alone_of (by decide +kernel)
theorem met_unbind : Met (tSync [(1, true)] []) (.unbind (fA 0 4 0)) (fun s _ _ _ es => tObj s es (fun s1 o => (s1.sync o).1.contains (s1.holder 1, true))) := met_of (by decide +kernel)
theorem met_unbind_not : Lone (tSync [(1, false)] []) (.unbind (fA 0 4 0)) (fun s _ _ _ _ e => tObj s [e] (fun s1 o => !(s1.sync o).1.contains (s1.holder 1, true))) := alone_of (by decide +kernel)

def tRegion (base len : Nat) (bound : List (Nat × Nat × Nat)) (i : Instr) : State :=
  tCtx (tW (tSync [] [] i) 8 [BitVec.ofNat 32 base, 0, BitVec.ofNat 32 len]) (fun c => { c with bound := bound })
def iBind : Instr := .bind (fA 3 4 8)
def tLegal (s : State) (e : Env) (q : State → Nat → Nat → Nat → Ctx → Bool) : Bool :=
  let base := (e.pair 8).toNat
  let len := (e.reg 10).toNat
  decide (e.prot = 0) && decide (base % 128 = 0) && decide (len ≠ 0) && decide (len % 128 = 0) && decide (len < 2 ^ 26) && !touchesSync s.mem 0 (e.pair 8) len &&
    (match Tab.find s.ctxs e.ctx, s.syncObj e (e.pair 4) with | some c, (s1, .ok obj) => q s1 obj base len c | _, _ => false)
theorem met_bind : Met (tRegion 0x28000 256 []) iBind (fun s _ _ _ es => es.all (fun e => tLegal s e (fun s1 o b n c => !(s1.objBits o).getLsbD 17 &&
    c.bound.all (fun r => !overlaps r.2.1 r.2.2 b n)))) := met_of (by decide +kernel)
theorem met_bind_overlap : Met (tRegion 0x28000 128 [(0x60000, 0x28040, 128)]) iBind (fun s _ _ _ es => es.all (fun e => tLegal s e (fun _ _ b n c =>
    c.bound.any (fun r => overlaps r.2.1 r.2.2 b n)))) := met_of (by decide +kernel)
theorem met_bind_bound : Met (fun i => (tRegion 0x28000 128 [] i).memWrite [(0x50002, 2)]) iBind (fun s _ _ _ es => es.all (fun e => tLegal s e (fun s1 o _ _ _ =>
    (s1.objBits o).getLsbD 17))) := met_of (by decide +kernel)
theorem met_bind_illegal : Lone (tRegion 0x28000 0 []) iBind (fun _ _ _ _ _ e => decide ((e.reg 10).toNat = 0)) ∧
    Lone (tRegion 0x28040 128 []) iBind (fun _ _ _ _ _ e => decide ((e.pair 8).toNat % 128 ≠ 0)) ∧
    Lone (tRegion 0x28000 (2 ^ 26) []) iBind (fun _ _ _ _ _ e => !decide ((e.reg 10).toNat < 2 ^ 26)) ∧
    Lone (tRegion 0x20090000 128 []) iBind (fun s _ _ _ _ e => touchesSync s.mem 0 (e.pair 8) 128) :=
  ⟨alone_of (by decide +kernel), alone_of (by decide +kernel), alone_of (by decide +kernel), alone_of (by decide +kernel)⟩

/-- FENCE with nothing earlier, with a store in flight, and with the first code beyond its scopes. -/
def tInFlight (i : Instr) : State := tThread (tRun i) (fun th => { th with stq := [⟨[0x28000], [1], none⟩] })
def tNoParts (s : State) : Bool := s.clusters.all (fun p => p.2.atomQ.isEmpty && p.2.m1Due.isEmpty)
theorem met_fence : Lone tRun (.fence (fA 0 0xD6 0)) (fun s _ _ _ l e => l == .thr ⟨1, 0, 0⟩ && decide ((e.a (fA 0 0xD6 0)).toNat = 6) && e.th.stq.isEmpty && tNoParts s) := alone_of (by decide +kernel)
theorem met_fence_holds : Lone tInFlight (.fence (fA 0 0xD1 0)) (fun _ _ _ _ l e => l == .thr ⟨1, 0, 0⟩ && decide ((e.a (fA 0 0xD1 0)).toNat ≠ 0) && !e.th.stq.isEmpty) := alone_of (by decide +kernel)
theorem met_fence_code : Lone tRun (.fence (fA 0 0xD7 0)) (fun _ _ _ _ l e => l == .thr ⟨1, 0, 0⟩ && decide (6 < (e.a (fA 0 0xD7 0)).toNat)) := alone_of (by decide +kernel)

/-! ## Hypotheses met: atomics and bins -/

/-- CAS64 at the last 8 bytes of a page. -/
def iCas (wbs : Bool) : Instr := .atomCas64 ⟨wbs, 8, 0, 4, 0⟩
def tAtom (s : State) (e : Env) (q : Bool) : Bool :=
  match s.access e.core e.ctx e.blk ⟨.write, true, fmtRaw, true⟩ 8 (addrOf e (fM 8 4) 8) 8 with
  | (_, .ok (keys, _ :: _)) => q && !s.memBad keys && e.th.stq.isEmpty && s.clusters.all (fun p => p.2.atomQ.isEmpty)
  | _ => false
def tWithSlot (i : Instr) : State := tHdr (tPair 0x2FFF8 i) 0x0
theorem met_atom : Lone tWithSlot (iCas false) (fun s _ _ _ l e => (atomOf (iCas false)).isSome && l == .thr ⟨1, 0, 0⟩ && tAtom s e (decide (e.prot = 0))) := alone_of (by decide +kernel)
theorem met_atom_nr : Lone tWithSlot (iCas true) (fun s _ _ _ l e => l == .thr ⟨1, 0, 0⟩ && tAtom s e (decide (e.prot = 0))) := alone_of (by decide +kernel)
theorem met_atom_held : Lone (fun i => tProt 1 4094 (tWithSlot i)) (iCas true) (fun s _ _ _ _ e => tAtom s e (decide (e.prot ≠ 0)) &&
    (match s.block? 1 with | some b => b.held.isEmpty && decide (b.jcount + 2 ≤ 4096) | none => false)) := alone_of (by decide +kernel)
theorem met_atom_noroom : Lone (fun i => tProt 1 4095 (tWithSlot i)) (iCas true) (fun s _ _ _ _ e => tAtom s e (decide (e.prot ≠ 0)) &&
    (match s.block? 1 with | some b => b.held.isEmpty && decide (4096 < b.jcount + 2) | none => false)) := alone_of (by decide +kernel)
theorem met_atom_fails : Lone (tPair 0x2FFFC) (iCas false) (fun s _ _ _ _ e => tErr (s.access e.core e.ctx e.blk ⟨.write, true, fmtRaw, true⟩ 8 (addrOf e (fM 8 4) 8) 8)) := alone_of (by decide +kernel)

def iRedx : Instr := .redxI (fM 8 4)
def tBin (s : State) (e : Env) (w : Want) : Bool :=
  match s.access e.core e.ctx e.blk w 16 (addrOf e (fM 8 4) 16) 16 with
  | (_, .ok (keys, _ :: _)) => !s.memBad keys && e.th.stq.isEmpty && s.clusters.all (fun p => p.2.atomQ.isEmpty)
  | _ => false
theorem met_redx : Lone (tPair (tPage 11 0xFFF0)) iRedx (fun s _ _ _ l e => l == .thr ⟨1, 0, 0⟩ && decide (e.prot = 0) &&
    (match binOf iRedx with | some (_, _, w, _) => tBin s e w | none => false)) := alone_of (by decide +kernel)
theorem met_redx_fails : Lone (tPair 0x28000) iRedx (fun s _ _ _ _ e => (match binOf iRedx with
    | some (_, _, w, _) => tErr (s.access e.core e.ctx e.blk w 16 (addrOf e (fM 8 4) 16) 16)
    | none => false)) := alone_of (by decide +kernel)
theorem met_binrd : Lone (tPair (tPage 11)) (.binrd (fM 8 4)) (fun s _ _ _ l e => l == .thr ⟨1, 0, 0⟩ && tBin s e ⟨.read, true, fmtBin true, true⟩) := alone_of (by decide +kernel)
theorem met_binrd_fails : Lone (tPair (tPage 11 8)) (.binrd (fM 8 4)) (fun s _ _ _ _ e => tErr (s.access e.core e.ctx e.blk ⟨.read, true, fmtBin true, true⟩ 16 (addrOf e (fM 8 4) 16) 16)) := alone_of (by decide +kernel)
/-- Contributions below and at the limit of a bin. -/
theorem met_contribution : (signInt false (roundMag .rn false (2 ^ 104 - 1) 0 0)).natAbs < 2 ^ 104 ∧ 2 ^ 104 ≤ (signInt true (roundMag .rn true (2 ^ 104) 0 0)).natAbs := by decide +kernel
theorem met_bins : (0xFF : BinBits).extractLsb' 124 4 = 0 := by decide
theorem met_atom_new : (atomNew .cas 5 [5, 9]).isSome = true ∧ (atomNew .add64 5 [5, 9]).isSome = true := by decide

/-! ## Hypotheses met: barriers, sync words, timelines, phases -/

/-- Barrier objects: two more to come, the last to come, full, without participants, and at the limits of PEND and EXP. -/
theorem met_barrier_words : BarWords 0x00010003 0xFFFF0001 (barOf 0x00010003 0xFFFF0001) := ⟨rfl, rfl, rfl, rfl, rfl⟩
def tB (exp arr : Nat) (pend : Int) : BarObj := barOf (BitVec.ofNat 32 (exp + 65536 * arr)) (0#16 ++ BitVec.ofInt 15 pend ++ 0#1)
theorem met_barrier_fields : (tB 3 1 (-16384)).exp = 3 ∧ (tB 3 1 (-16384)).arr = 1 ∧ (tB 3 1 (-16384)).pend = -16384 ∧ (tB 3 1 16383).pend = 16383 := by decide +kernel
theorem met_barrier_more : (tB 3 1 0).arr + 1 < (tB 3 1 0).exp ∧ (tB 3 2 (-2)).arr + 1 = (tB 3 2 (-2)).exp ∧ (tB 3 2 (-3)).exp + (tB 3 2 (-3)).pend < 1 ∧
    (tB 0 0 0).exp = 0 ∧ (tB 3 3 0).exp ≤ (tB 3 3 0).arr ∧ ¬ (tB 3 1 16383).pend + 1 ≤ 16383 ∧ (tB 3 1 16382).pend + 1 ≤ 16383 ∧
    (tB 3 1 (-16384)).pend + (-1) < -16384 ∧ 65535 < (tB 65535 65534 1).exp + (tB 65535 65534 1).pend := by decide +kernel

/-- An object in the last 8 bytes of the region; w4 holds its offset, w5 a phase bit. -/
def tBar (lo : Word) (off : Word) (i : Instr) : State := (tOff off i).scrWrite (atKeys off.toNat (leBytes 4 lo.toNat))
def tIn (s : State) (e : Env) (n : Nat) : Bool :=
  let off := (e.a (fA 3 4 5)).toNat
  decide (e.prot = 0) && decide (off % n = 0) && decide (e.scrBase ≤ off) && decide (off + n ≤ e.scrBase + e.scrSize) && s.poison.isEmpty
def tArr (s : State) (e : Env) (m : ArrMode) : Bool :=
  ((barOf (s.scrWord e.core (e.a (fA 3 4 5)).toNat) (s.scrWord e.core ((e.a (fA 3 4 5)).toNat + 4))).arrive m).isSome
theorem met_arrive : Lone (tBar 1 4088) (.arrive (fA 3 4 5)) (fun s _ _ _ _ e => (arrivesBy (.arrive (fA 3 4 5))).isSome && tIn s e 8 && tArr s e .arrive) := alone_of (by decide +kernel)
theorem met_join : Lone (tBar 0 4088) (.arriveJoin (fA 3 4 5)) (fun s _ _ _ _ e => tIn s e 8 && tArr s e .join) := alone_of (by decide +kernel)
theorem met_arrive_full : Lone (tBar 0 4088) (.arriveDrop (fA 3 4 5)) (fun s _ _ _ _ e => tIn s e 8 && !tArr s e .drop) := alone_of (by decide +kernel)
theorem met_arrive_misaligned : Lone (tBar 1 4084) (.arrive (fA 3 4 5)) (fun _ _ _ _ _ e => decide (e.prot = 0) && decide ((e.a (fA 3 4 5)).toNat % 8 ≠ 0)) := alone_of (by decide +kernel)
theorem met_bar : Lone (tBar 1 4088) (.bar (fA 3 4 5)) (fun s _ _ _ _ e => tIn s e 8 && tArr s e .arrive) := alone_of (by decide +kernel)
theorem met_barwait_goes : Lone (fun i => tW (tBar 1 4088 i) 5 [1]) (.barwait (fA 3 4 5)) (fun s _ _ _ _ e => tIn s e 8 && (e.b (fA 3 4 5)).getLsbD 0) := alone_of (by decide +kernel)
theorem met_barwait_holds : Lone (tBar 1 4088) (.barwait (fA 3 4 5)) (fun s _ _ _ _ e => tIn s e 8 && !(e.b (fA 3 4 5)).getLsbD 0) := alone_of (by decide +kernel)
theorem met_bartest : Lone (tBar 1 4088) (.bartest (fA 3 4 5)) (fun s _ _ _ _ e => tIn s e 8) := alone_of (by decide +kernel)
def tGrid (g : Bool) (i : Instr) : State := (tRun i).updBlock 1 (fun b => { b with grid := g })
theorem met_gbar : Lone (tGrid true) (.gbar (fA 3 4 5)) (fun s _ _ _ _ e => decide (e.prot = 0) && (match s.block? 1 with | some b => b.grid | none => false)) ∧
    Lone (tGrid false) (.gbar (fA 3 4 5)) (fun s _ _ _ _ e => decide (e.prot = 0) && (match s.block? 1 with | some b => !b.grid | none => false)) :=
  ⟨alone_of (by decide +kernel), alone_of (by decide +kernel)⟩
theorem met_swarm : Lone (tOff 4080) (.swarm (fA 3 4 5)) (fun s _ _ _ _ e => tIn s e 16) ∧
    Lone (tOff 4088) (.swarm (fA 3 4 5)) (fun _ _ _ _ _ e => decide (e.prot = 0) && decide ((e.a (fA 3 4 5)).toNat % 16 ≠ 0)) :=
  ⟨alone_of (by decide +kernel), alone_of (by decide +kernel)⟩
theorem met_swwait : Lone (fun i => tW (tOff 4080 i) 5 [1]) (.swwait (fA 3 4 5)) (fun s _ _ _ _ e => tIn s e 16 && s.scrWord e.core 4088 != e.b (fA 3 4 5)) ∧
    Lone (tOff 4080) (.swwait (fA 3 4 5)) (fun s _ _ _ _ e => tIn s e 16 && s.scrWord e.core 4088 == e.b (fA 3 4 5)) ∧
    Lone (tOff 4080) (.swtest (fA 3 4 5)) (fun s _ _ _ _ e => tIn s e 16) := ⟨alone_of (by decide +kernel), alone_of (by decide +kernel), alone_of (by decide +kernel)⟩

/-- Timelines: a number completed and one not yet; the last engine code and the first beyond. -/
def tTl (done : Nat) (i : Instr) : State := (tPair 7 i).updCluster 0 (fun c => { c with tls := c.tls.set 4 ⟨9, done, []⟩ })
theorem met_tlwait : Lone (tTl 7) (.tlwait (fA 3 4 0xD4)) (fun s _ _ _ _ e => decide ((e.pair 4).toNat ≤ ((s.cluster (s.numCluster e.blk 4 7)).tl 4).done)) ∧
    Lone (tTl 6) (.tlwait (fA 3 4 0xD4)) (fun s _ _ _ _ e => decide (((s.cluster (s.numCluster e.blk 4 7)).tl 4).done < (e.pair 4).toNat)) ∧
    Lone (tTl 7) (.tlwait (fA 3 4 0xD5)) (fun _ _ _ _ _ e => decide (4 < (e.b (fA 3 4 0xD5)).toNat)) := ⟨alone_of (by decide +kernel), alone_of (by decide +kernel), alone_of (by decide +kernel)⟩
theorem met_tlread : Lone (tTl 7) (.tlread (fA 8 4 0xD4)) (fun _ _ _ _ _ e => decide ((e.b (fA 3 4 0xD4)).toNat ≤ 4)) ∧
    Lone (tTl 7) (.tlread (fA 8 4 0xD5)) (fun _ _ _ _ _ e => decide (4 < (e.b (fA 3 4 0xD5)).toNat)) := ⟨alone_of (by decide +kernel), alone_of (by decide +kernel)⟩
theorem met_tltest : Lone (tTl 7) (.tltest (fA 3 4 0xD4)) (fun _ _ _ _ _ e => decide ((e.b (fA 3 4 0xD4)).toNat ≤ 4)) ∧
    Lone (tTl 7) (.tltest (fA 3 4 0xD5)) (fun _ _ _ _ _ e => decide (4 < (e.b (fA 3 4 0xD5)).toNat)) := ⟨alone_of (by decide +kernel), alone_of (by decide +kernel)⟩

/-- A phase header at 0x28000: id 1, scope 0, a table of one entry at 0x29000; a phase that is loaded already. -/
def tHeader (scope : Nat) : List (Nat × Byte) := atKeys 0x28000 (leBytes 8 (1 + scope * 2 ^ 48)) ++ atKeys 0x28008 (leBytes 8 0x29000) ++ atKeys 0x28010 (leBytes 8 1)
def tPhase (ended : Bool) : Phase :=
  { id := 1, scope := 0, next := 2, group := 0, ranks := [], serial := 1, ended := ended, err := false, cancelled := false, counts := [(0, ⟨0, 0, 0, 0, 1⟩)], pending := [], me := 0,
    sent := false }
def tPh (scope : Nat) (ph : Option Phase) (i : Instr) : State := tCtx ((tPair 0x28000 i).memWrite (tHeader scope)) (fun c => { c with phase := ph })
def tPhset (s : State) (e : Env) (q : List Byte → State → Bool) : Bool :=
  match s.access e.core e.ctx e.blk tRead 64 (e.pair 4) 64 with
  | (s1, .ok (keys, _)) => (match s1.readBytes e (e.pair 4) keys with | (s2, .ok hdr) => q hdr s2 | _ => false)
  | _ => false
def tPhtab (e : Env) (hdr : List Byte) (s2 : State) (q : State → Bool) : Bool :=
  match s2.access e.core e.ctx e.blk tRead 16 (BitVec.ofNat 64 (hdrNat hdr 8 8)) (16 * hdrNat hdr 0x10 4) with
  | (s3, .ok (keys, _)) => (match s3.readBytes e (BitVec.ofNat 64 (hdrNat hdr 8 8)) keys with
      | (s4, .ok _) => (match s4.phGroup e.ctx hdr (rawReader e) with | (s5, .ok _) => q s5 | _ => false)
      | _ => false)
  | _ => false
def iPhset : Instr := .phset (fA 0 4 0)
theorem met_phset : Lone (tPh 0 none) iPhset (fun s _ _ _ l e => l == .thr ⟨1, 0, 0⟩ && decide (e.prot = 0) && tPhset s e (fun h s2 => phHdrOk h && tPhtab e h s2 (fun s5 => !s5.phaseOpen e.ctx))) := alone_of (by decide +kernel)
theorem met_phset_holds : Lone (tPh 0 (some (tPhase false))) iPhset (fun s _ _ _ _ e => tPhset s e (fun h s2 => phHdrOk h && tPhtab e h s2 (fun s5 => s5.phaseOpen e.ctx))) := alone_of (by decide +kernel)
theorem met_phset_bad : Lone (tPh 3 none) iPhset (fun s _ _ _ _ e => tPhset s e (fun h _ => !phHdrOk h)) := alone_of (by decide +kernel)
theorem met_pharr : Lone (tPh 0 (some (tPhase false))) (.pharr (fA 0 0xD1 0)) (fun _ _ _ _ l e => l == .thr ⟨1, 0, 0⟩ && decide (e.prot = 0)) := alone_of (by decide +kernel)
def tCur (s : State) (q : Option Phase → Bool) : Bool := q ((Tab.find s.ctxs 0).bind (fun c => c.phase))
theorem met_phwait : Lone (tPh 0 none) (.phwait (fA 0 0 0)) (fun s _ _ _ _ _ => tCur s (fun p => p.isNone)) ∧
    Lone (tPh 0 (some (tPhase true))) (.phwait (fA 0 0 0)) (fun s _ _ _ _ _ => tCur s (fun p => p.any (fun p => p.ended))) ∧
    Lone (tPh 0 (some (tPhase false))) (.phwait (fA 0 0 0)) (fun s _ _ _ _ _ => tCur s (fun p => p.any (fun p => !p.ended))) :=
  ⟨alone_of (by decide +kernel), alone_of (by decide +kernel), alone_of (by decide +kernel)⟩
theorem met_phstat : Lone (tPh 0 (some (tPhase false))) (.phstat (fA 3 0 0)) (fun s _ _ _ _ _ => tCur s (fun p => p.isSome)) ∧
    Lone (tPh 0 none) (.phstat (fA 3 0 0)) (fun s _ _ _ _ _ => tCur s (fun p => p.isNone)) := ⟨alone_of (by decide +kernel), alone_of (by decide +kernel)⟩
theorem met_phase_loaded : (Tab.find (tPh 0 none iPhset).ctxs 0).isSome = true ∧ (tPhase false).next ≠ 0 ∧ (2 : Nat) ≠ (tPhase false).id ∧
    ((Tab.get PhCount.zero (tPhase false).counts 0).add ⟨0, 0, 0, 0, -2⟩).under = true := by decide +kernel


/-! ## Hypotheses met: faults and what the handler does -/

def tBlk (s : State) (q : Block → Bool) : Bool := (s.block? 1).any q
theorem met_fault_taken : Lone tRun (.nop (fA 0 0 0)) (fun s _ _ _ l e => e.lane == l && l == .thr ⟨1, 0, 0⟩ && (s.thread? ⟨1, 0, 0⟩).isSome &&
    tBlk s (fun b => b.kind == .kernel && b.twin.isNone && b.stopAt.isEmpty && b.prot == 0 && (Tab.find s.ctxs b.ctx).isSome)) := alone_of (by decide +kernel)

/-- A stop: at decode, in the middle, after a TRAP before the last word, after a break at the last. -/
def tStop (cause idx : Nat) (dec last : Bool) : Stop := ⟨cause, idx, dec, last, 0x20010, false⟩
theorem met_resume : (tStop 1 3 true false).dec = true ∧ ((tStop 0x10 3 false false).dec = false ∧ (tStop 0x10 3 false false).idx ≠ 0 ∧
    (tStop 0x10 3 false false).cause ≠ 0x17) ∧ (tStop 0x17 3 false false).last = false ∧ (tStop 0x1D 3 false true).last = true := by decide

theorem met_trap : Lone tRun (.trap 5) (fun _ _ _ _ _ _ => true) := alone_of (by decide +kernel)
def tDebug (d : Word) (i : Instr) : State := tCtx (tRun i) (fun c => { c with debug := d })
theorem met_brk : Lone (tDebug 1) (.brk (fA 0 0 0)) (fun s _ _ _ _ e => (Tab.find s.ctxs e.ctx).any (fun c => BitVec.getLsbD c.debug 0)) ∧
    Lone (tDebug 2) (.brk (fA 0 0 0)) (fun s _ _ _ _ e => (Tab.find s.ctxs e.ctx).any (fun c => !BitVec.getLsbD c.debug 0)) := ⟨alone_of (by decide +kernel), alone_of (by decide +kernel)⟩

/-- A word that something turns away. -/
def tWord (s : State) (i : Instr) (q : Op → Shape → Issue → Lane → Env → Bool) : Bool :=
  match i.parts, s.issues with
  | some (op, sh), iss :: _ => (match iss.lanes with
      | [l] => (match s.env? l (hdrSS iss.hdr) iss.pc iss.idx with
          | some e => !s.passWaits iss op sh && (s.stopDue e).isNone && e.th.live && q op sh iss l e
          | none => false)
      | _ => false)
  | _, _ => false
theorem met_privileged : tWord (tRun (.tlbinv (fA 0 4 0xD1))) (.tlbinv (fA 0 4 0xD1)) (fun op sh _ _ e => op.info.is .priv && (checkWord e.dec op.info sh).isNone && !e.sys) = true := by
  decide +kernel
/-- A thread with 8 registers, and D beyond them. -/
theorem met_checked : tWord ((tRun (.iadd (fA 8 4 5))).updBlock 1 (fun b => { b with regs := 8 })) (.iadd (fA 8 4 5))
    (fun op sh _ l e => (checkWord e.dec op.info sh).isSome && l == .thr ⟨1, 0, 0⟩) = true := by decide +kernel

/-- The handler's thread, an address in w4, w5; a context with records. -/
def tHandler (va : Nat) (i : Instr) : State := tW (tPaged (tKind .handler i)) 4 [BitVec.ofNat 32 va, BitVec.ofNat 32 (va / 2 ^ 32)]
def tFRec : FRec := ⟨0x10, 1, 0, 5, 0, 0, 0, 0x28000, 0⟩
def tQueue (qs : List (Nat × QRec)) (s : State) : State := tCtx s (fun c => { c with queue := qs })
noncomputable def iFwait : Instr := .fwait (fA 8 4 0xD0)
def tFwait (s : State) (e : Env) (q : State → List Nat → Bool) : Bool :=
  match s.access e.core e.ctx e.blk tWrite 32 (e.pair 4) 32 with
  | (s1, .ok (keys, _)) => decide (e.prot = 0) && q s1 keys
  | _ => false
theorem met_fwait_fails : Lone (tHandler 0x2FFF0) iFwait (fun s _ _ _ l e => l == .thr ⟨1, 0, 0⟩ && decide (e.prot = 0) &&
    tErr (s.access e.core e.ctx e.blk tWrite 32 (e.pair 4) 32)) := alone_of (by decide +kernel)
theorem met_fwait_holds : Lone (tHandler 0x2FFE0) iFwait (fun s _ _ _ l e => l == .thr ⟨1, 0, 0⟩ && tFwait s e (fun s1 _ =>
    (Tab.find s1.ctxs e.ctx).any (fun c => c.queue.isEmpty))) := alone_of (by decide +kernel)
theorem met_fwait_takes : Lone (fun i => tQueue [(1, ⟨tFRec, .report⟩)] (tHandler 0x2FFE0 i)) iFwait (fun s _ _ _ l e => l == .thr ⟨1, 0, 0⟩ &&
    tFwait s e (fun s1 keys => (Tab.find s1.ctxs e.ctx).any (fun c => !c.queue.isEmpty) && (s1.pick (fun th => !th.stq.isEmpty)).isEmpty && s1.clusters.isEmpty &&
      (match s1.access e.core e.ctx e.blk tWrite 32 (e.pair 4) 32 with | (_, .ok (k, [pte])) => k == keys && pteLoc pte != 3 | _ => false))) := alone_of (by decide +kernel)

/-- Sequence number 7 in some state, for some unit. -/
def tSeq (st : Nat) (fwd : Bool) (u : FUnit) (i : Instr) : State :=
  tCtx (tHandler 7 i) (fun c => { c with seqs := [(7, ⟨st, fwd, ⟨tFRec, u⟩⟩)] })
def tFn (g : FnRegs → FnRegs) (s : State) : State := s.updFn 0 g
def tSeqIs (s : State) (e : Env) (q : SeqState → Bool) : Bool := (Tab.find s.ctxs e.ctx).any (fun c => (Tab.find c.seqs (e.pair 4).toNat).any q)
noncomputable def iFrpt (b : BitVec 8) : Instr := .frpt (fA 3 4 b)
def tRoom (s : State) : Bool := let g := Tab.get FnRegs.new s.fns 0; (g.evHead != g.evTail || !g.evFull) && g.defer.isEmpty
theorem met_frpt : Lone (tSeq 1 false .report) (iFrpt 0xD2) (fun _ _ _ _ _ e => decide (1 < (e.val 0xD2 0).toNat)) ∧
    Lone (tSeq 1 false .report) (iFrpt 0xD0) (fun _ _ _ _ _ e => decide (e.val 0xD0 0 = 0)) ∧
    Lone (tSeq 1 true .report) (iFrpt 0xD1) (fun s _ _ _ _ e => decide (e.val 0xD1 0 = 1) && tSeqIs s e (fun q => q.fwd)) ∧
    Lone (tSeq 1 false .report) (iFrpt 0xD1) (fun s _ _ _ _ e => tSeqIs s e (fun q => !q.fwd) && tRoom s) ∧
    Lone (fun i => tFn (fun g => { g with evFull := true }) (tSeq 1 false .report i)) (iFrpt 0xD1) (fun s _ _ _ _ e => tSeqIs s e (fun q => !q.fwd) && !tRoom s) :=
  ⟨alone_of (by decide +kernel), alone_of (by decide +kernel), alone_of (by decide +kernel), alone_of (by decide +kernel), alone_of (by decide +kernel)⟩

/-- A pair launch 9 in some state; a second block, of kind kernel, whose thread stands stopped; a stopped tile program. -/
def tLaunchP (st : Nat) (s : State) : State := { s with pairs := [(9, { placedPair with state := st })] }
def tSecond (s : State) : State :=
  match s.block? 1 with
  | some b => { s with blocks := Tab.ins s.blocks 2 { b with kind := .kernel, core := 0, warps := b.warps.map (fun w =>
      { w with threads := w.threads.map (fun th => { th with stop := some (tStop 0x10 1 false false) }) }) } }
  | none => s
def tStopped (s : State) : State :=
  s.updCluster 0 (fun k => { k with tile := some ⟨1, ⟨1, 0, 0⟩, { Thread.new 0x20000 with stop := some (tStop 0x10 1 false false) }, false, false⟩ })
theorem met_fresume : Lone (tSeq 2 false (.thread ⟨1, 0, 0⟩)) (.fresume (fA 3 4 0)) (fun s _ _ _ _ e => tSeqIs s e (fun q => q.state != 1)) ∧
    Lone (tSeq 1 false (.pairItem 9 0)) (.fresume (fA 3 4 0)) (fun s _ _ _ _ e => tSeqIs s e (fun q => q.qrec.unit == .pairItem 9 0)) ∧
    Lone (fun i => tSecond (tSeq 1 false (.thread ⟨2, 0, 0⟩) i)) (.fresume (fA 3 4 0)) (fun s _ _ _ _ e => tSeqIs s e (fun q => q.state == 1) &&
      (s.block? 2).any (fun b => b.twin.isNone)) ∧
    Lone (fun i => tStopped (tSeq 1 false (.tile 0) i)) (.fresume (fA 3 4 0)) (fun s _ _ _ _ e => tSeqIs s e (fun q => q.state == 1 && q.qrec.unit == .tile 0)) :=
  ⟨alone_of (by decide +kernel), alone_of (by decide +kernel), alone_of (by decide +kernel), alone_of (by decide +kernel)⟩
def tPairAt (s : State) (st : Nat) : Bool := (Tab.find s.pairs 9).any (fun p => p.state == st)
theorem met_replay_kill : Lone (tSeq 3 false .report) (.fkill (fA 3 4 0)) (fun s _ _ _ l e => l == .thr ⟨1, 0, 0⟩ && tSeqIs s e (fun q => q.state != 1)) ∧
    Lone (fun i => tLaunchP 2 (tSeq 1 false (.pairItem 9 0) i)) (.freplay (fA 3 4 0)) (fun s _ _ _ _ e => tSeqIs s e (fun q => q.qrec.unit == .pairItem 9 0) && tPairAt s 2) ∧
    Lone (fun i => tLaunchP 3 (tSeq 1 false (.pairAccess 9 0) i)) (.fkill (fA 3 4 0)) (fun s _ _ _ _ e => tSeqIs s e (fun q => q.qrec.unit == .pairAccess 9 0) && tPairAt s 3) ∧
    Lone (tSeq 1 false (.tile 0)) (.freplay (fA 3 4 0)) (fun s _ _ _ _ e => tSeqIs s e (fun q => q.state == 1 && q.qrec.unit == .tile 0)) ∧
    Lone (fun i => tSecond (tSeq 1 false (.thread ⟨2, 0, 0⟩) i)) (.fkill (fA 3 4 0)) (fun s _ _ _ _ e => tSeqIs s e (fun q => q.state == 1) &&
      (s.thread? ⟨2, 0, 0⟩).any (fun th => th.stop.isSome) && (s.block? 2).any (fun b => b.twin.isNone)) ∧
    Lone (fun i => tStopped (tSeq 1 false (.tile 0) i)) (.fkill (fA 3 4 0)) (fun s _ _ _ _ e => tSeqIs s e (fun q => q.state == 1) &&
      (s.cluster 0).tile.any (fun r => r.th.stop.isSome)) :=
  ⟨alone_of (by decide +kernel), alone_of (by decide +kernel), alone_of (by decide +kernel), alone_of (by decide +kernel), alone_of (by decide +kernel), alone_of (by decide +kernel)⟩

/-- Launch 1 with a counter of 2; block 1 is one of its blocks. -/
def tLaunch1 : Launch :=
  { ctx := 0, graph := 0, phase := 0, job := 0, prio := 0, count := 2, complete := false, cancelled := false, failed := false, succ := 0, desc := LDesc.of (List.replicate 64 0),
    lo := 0, hi := 2, curZ := 0, curD := 2, victim := false, placed := 2, skips := [], cuts := [], bads := [], after := [], dies := [] }
def tLaunched (f : Launch → Launch) (s : State) : State := { s with launches := [(1, f tLaunch1)] }
theorem met_killed : tBlk (tLaunched id (tRun iFwait)) (fun b => b.twin.isNone && b.primary && b.kind == .kernel && b.lid == 1) = true ∧
    (tLaunched id (tRun iFwait)).clusters.isEmpty = true := by decide +kernel

/-- PTEW at each level: L = 3; a bit of [63:52]; an entry on the way that is no pointer; levels 0, 1 and 2. -/
noncomputable def iPtew : Instr := .ptew (fA 3 4 8)
def tWay (s : State) (va : DWord) : Bool × Bool :=
  let ptr (x : DWord) : Bool := pteV x && pteKind x == 3
  let e0 := entryAt s.mem (8 * (va.extractLsb' 42 10).toNat)
  (ptr e0, ptr (entryAt s.mem (pteBase e0 + 8 * (va.extractLsb' 29 13).toNat)))
def tLevel (va : Nat) (n : Nat) (q : Bool × Bool → Bool) : Prop := Lone (tHandler va) iPtew (fun s _ _ _ _ e =>
  decide ((e.pair 4).toNat % 4 = n) && (Tab.find s.ctxs e.ctx).any (fun c => c.root == 0) && q (tWay s (e.pair 4)))
theorem met_ptew : tLevel 0x20000003 3 (fun _ => true) ∧ tLevel 0x0010000000000002 2 (fun _ => true) ∧ tLevel 0x000FFC0000000001 1 (fun w => !w.1) ∧ tLevel 2 2 (fun w => w.1 && !w.2) ∧
    tLevel 0x20000000 0 (fun _ => true) ∧ tLevel 0x20000001 1 (fun w => w.1) ∧ tLevel 0x20000002 2 (fun w => w.1 && w.2) :=
  ⟨alone_of (by decide +kernel), alone_of (by decide +kernel), alone_of (by decide +kernel), alone_of (by decide +kernel), alone_of (by decide +kernel), alone_of (by decide +kernel),
   alone_of (by decide +kernel)⟩
theorem met_tlbinv : Lone (tHandler 0x28000) (.tlbinv (fA 0 4 0xD1)) (fun _ _ _ _ _ e => decide ((e.val 0xD1 0).toNat ≤ 1)) ∧
    Lone (tHandler 0x28000) (.tlbinv (fA 0 4 0xD2)) (fun _ _ _ _ _ e => decide (1 < (e.val 0xD2 0).toNat)) := ⟨alone_of (by decide +kernel), alone_of (by decide +kernel)⟩

/-! ## Hypotheses met: system registers, time and events -/

/-- The number of a system register is A: a literal. -/
noncomputable def iSysr (n : Word) : Instr := .sysr (fA 3 0xCF 0 n)
def tNum (n : Nat) (e : Env) : Bool := (e.a (fA 3 0xCF 0 (BitVec.ofNat 32 n))).toNat == n
def tRegs (s : State) (e : Env) (n : Nat) (q : Option (Bool × Word) → Bool) : Bool :=
  tNum n e && (match s.block? e.blk, Tab.find s.ctxs e.ctx with | some b, some c => q (sysReads s b c e.core n) | _, _ => false)
theorem met_sysr : Lone tRun (iSysr 17) (fun s _ _ _ _ e => !e.sys && tRegs s e 17 (fun x => x.any (fun y => y.1))) ∧
    Lone tRun (iSysr 0x107) (fun s _ _ _ _ e => tRegs s e 0x107 (fun x => x.any (fun y => !y.1))) ∧
    Lone tRun (iSysr 0xFFF) (fun s _ _ _ _ e => tRegs s e 0xFFF (fun x => x.isNone)) ∧ Lone tRun (iSysr 0x28B4) (fun s _ _ _ _ e => tRegs s e 0x28B4 (fun x => x.isNone)) :=
  ⟨alone_of (by decide +kernel), alone_of (by decide +kernel), alone_of (by decide +kernel), alone_of (by decide +kernel)⟩
/-- The last bank is 0x62C: its words 0 to 3 are registers 0x28B0 to 0x28B3. -/
def tLatch (u : Nat) (fresh : Bool) (i : Instr) : State := tThread (tKind .handler i) (fun th => { th with latch := some ⟨u, 5, 6, fresh⟩ })
theorem met_banks : Lone tRun (iSysr 0x28B0) (fun s _ _ _ _ e => !e.sys && tRegs s e 0x28B0 (fun _ => true)) ∧
    Lone (tKind .handler) (iSysr 0x28B0) (fun s _ _ _ _ e => e.sys && tRegs s e 0x28B0 (fun _ => true)) ∧
    Lone (tLatch 0x62B true) (iSysr 0x28B3) (fun s _ _ _ _ e => e.sys && tRegs s e 0x28B3 (fun _ => true) && e.th.latch.any (fun y => y.u != 0x62C)) ∧
    Lone (tLatch 0x62C true) (iSysr 0x28B3) (fun s _ _ _ _ e => e.sys && tRegs s e 0x28B3 (fun _ => true) && e.th.latch.any (fun y => y.u == 0x62C)) :=
  ⟨alone_of (by decide +kernel), alone_of (by decide +kernel), alone_of (by decide +kernel), alone_of (by decide +kernel)⟩
noncomputable def iSysw (n : Word) : Instr := .sysw (fA 0 0xCF 4 n)
noncomputable def iSysset (n : Word) : Instr := .sysset (fA 0 0xCF 4 n)
def tRegW (s : State) (l : Lane) (e : Env) (n : Nat) (q : Ctx → Bool) : Bool :=
  l == .thr ⟨1, 0, 0⟩ && decide (e.prot = 0) && tNum n e && (match s.block? e.blk, Tab.find s.ctxs e.ctx with | some b, some c => b.twin.isNone && q c | _, _ => false)
theorem met_sysw : Lone tRun (iSysw 3) (fun s _ _ _ l e => (sysWriter (iSysw 3)).isSome && tRegW s l e 3 (fun _ => true)) ∧
    Lone tRun (iSysset 4) (fun s _ _ _ l e => tRegW s l e 4 (fun _ => true)) ∧ Lone (tKind .handler) (iSysw 8) (fun s _ _ _ l e => tRegW s l e 8 (fun _ => true)) ∧
    Lone (tKind .handler) (iSysset 8) (fun s _ _ _ l e => e.sys && tRegW s l e 8 (fun _ => true)) ∧
    Lone (tKind .handler) (iSysset 29) (fun s _ _ _ l e => e.sys && tRegW s l e 29 (fun c => (ctxWrites 29 id c).isSome)) ∧
    Lone tRun (iSysw 29) (fun s _ _ _ l e => !e.sys && tRegW s l e 29 (fun c => (ctxWrites 29 id c).isSome)) ∧
    Lone tRun (iSysw 30) (fun s _ _ _ l e => tRegW s l e 30 (fun c => (ctxWrites 30 id c).isNone)) :=
  ⟨alone_of (by decide +kernel), alone_of (by decide +kernel), alone_of (by decide +kernel), alone_of (by decide +kernel), alone_of (by decide +kernel), alone_of (by decide +kernel),
   alone_of (by decide +kernel)⟩
theorem met_sysw_bank : Lone (tLatch 0x62C false) (iSysw 0x28B0) (fun s _ _ _ l e => e.sys && tRegW s l e 0x28B0 (fun _ => true) && e.th.latch.any (fun y => !y.fresh)) ∧
    Lone (tLatch 0x62C true) (iSysw 0x28B0) (fun s _ _ _ l e => e.sys && tRegW s l e 0x28B0 (fun _ => true) && e.th.latch.any (fun y => y.u == 0x62C && y.fresh)) :=
  ⟨alone_of (by decide +kernel), alone_of (by decide +kernel)⟩

theorem met_clk : Lone tRun (.clk (fA 4 0 0)) (fun s _ _ _ l e => l == .thr ⟨1, 0, 0⟩ && (s.block? e.blk).isSome && (Tab.find s.ctxs e.ctx).isSome && (s.recorder 1).isNone) :=
  alone_of (by decide +kernel)
def tEv (ev : Word) (s : State) : State := s.updBlock 1 (fun b => { b with evpend := ev })
def tBits (m : Word) : Nat := ((List.range 32).filter (fun i => m.getLsbD i)).length
def tWaitev (mk : Instr → State) (m : Word) (q : Env → Word → Bool) : Prop := Lone mk (.waitev (fA 3 0 0xCF 0 m)) (fun s _ _ _ l e =>
  l == .thr ⟨1, 0, 0⟩ && e.b (fA 3 0 0xCF 0 m) == m && (match s.block? e.blk, Tab.find s.ctxs e.ctx with
    | some b, some c => q e (((b.evpend &&& 0x2F) ||| (if c.queue = [] then 0 else 0x10)) &&& m)
    | _, _ => false))
theorem met_waitev : tWaitev tRun 0 (fun _ _ => true) ∧ tWaitev (tKind .handler) 64 (fun _ _ => true) ∧ tWaitev tRun 3 (fun e _ => !e.sys && decide (tBits 3 = 2)) ∧
    tWaitev tRun 0x20 (fun e _ => !e.sys && decide (tBits 0x20 = 1)) ∧ tWaitev (fun i => tEv 0x2F (tKind .handler i)) 0x3F (fun e ev => e.sys && ev != 0) ∧
    tWaitev (fun i => tEv 8 (tRun i)) 1 (fun e ev => !e.sys && ev == 0) :=
  ⟨alone_of (by decide +kernel), alone_of (by decide +kernel), alone_of (by decide +kernel), alone_of (by decide +kernel), alone_of (by decide +kernel), alone_of (by decide +kernel)⟩
theorem met_commit_prot : Lone tRun (.commit (fA 0 0 0)) (fun s _ _ _ l e => l == .thr ⟨1, 0, 0⟩ && (s.block? e.blk).isSome) ∧
    Lone (fun i => tProt 1 3 (tRun i)) (.prot (fA 3 0 0)) (fun _ _ _ _ l _ => l == .thr ⟨1, 0, 0⟩) := ⟨alone_of (by decide +kernel), alone_of (by decide +kernel)⟩

/-! ## Hypotheses met: what units do on their own -/

def tOwe (ready : Bool) (wr : List RegVal) : Owed := ⟨0, 5, ready, wr⟩
def iNop : Instr := .nop (fA 0 0 0)
def tOwes (o : Owed) : State := tThread (tRun iNop) (fun th => { th with owed := [o] })
theorem met_load_complete : (((tOwes (tOwe false [])).thread? ⟨1, 0, 0⟩).any (fun th => th.owed[0]? == some (tOwe false []))) = true ∧
    (((tOwes (tOwe true [.w 3 1])).thread? ⟨1, 0, 0⟩).any (fun th => th.owed[0]? == some (tOwe true [.w 3 1]))) = true := by decide +kernel
theorem met_performed : (((tInFlight iNop).thread? ⟨1, 0, 0⟩).any (fun th => th.stq.head?.any (fun o => o.peer.isNone))) = true := by decide +kernel
/-- A request of the thread at cluster 0, whose results are owed. -/
def tReq (k : ReqKind) (n : Nat) : AtomReq := ⟨k, 0x28000, 0, true, [⟨⟨1, 0, 0⟩, 5, List.replicate n 1, 0x28000, 1⟩]⟩
def tServed (q : AtomReq) (n : Nat) : State :=
  (tOwes (tOwe false ((List.range n).map (fun j => RegVal.w j 0)))).updCluster 0 (fun c => { c with atomQ := [q] })
def tServes (q : AtomReq) (n : Nat) : Bool :=
  (tServed q n).recorder 1 == none && (match (serve (tServed q n).mem q).2 with | [(p, t, ws)] => p == ⟨1, 0, 0⟩ && t == 5 && ws.length == n | _ => false)
theorem met_service : tServes (tReq (.atom .add) 1) 1 = true ∧ tServes (tReq (.atom .cas64) 4) 2 = true ∧ tServes (tReq .binrd 0) 2 = true := by decide +kernel
theorem met_walk_completes : ((tRun iNop).translate 0 0 0x28000).2.isSome = true := by decide +kernel

def tVoter (m : Nat) (pc : DWord) (age : Nat) : Voter := { m := m, pc := pc, word := 0, age := age, coll := false, line := [], ready := true }
theorem met_votes_order : (choices [tVoter 0 0x20040 31, tVoter 1 0x20000 0]).1 = some 0x20000 ∧ (choices [tVoter 0 0x20040 32, tVoter 1 0x20000 0]).1 = some 0x20040 ∧
    (choices [tVoter 0 0x20040 31, tVoter 1 0x20000 0]).2 = some 0x20040 := by decide +kernel
/-- Block 1's thread votes alone, at a clause's start and inside a clause. -/
def tVotes (cont : Nat) : State := { tThread (tRun (.iadd (fA 3 4 5))) (fun th => { th with cont := cont }) with issues := [] }
def tAt0 : DWord := BitVec.ofNat 64 placedAt
theorem met_vote : (match (tVotes 0).block? 1 with
    | some b => b.saved.isNone && (match (tVotes 0).fetchLine b.core b.ctx 1 tAt0 with
        | (s1, .ok line) => hdrWM (line.getD (linePos tAt0) 0) == 0 && !((tVotes 0).busyLanes 1 0).contains 0 &&
            (s1.env? (.thr ⟨1, 0, 0⟩) (hdrSS (line.getD (linePos tAt0) 0)) tAt0 0).any (fun e => (clauseFault e.dec tAt0 line).isNone) &&
            ((tVotes 0).thread? ⟨1, 0, 0⟩).any (fun th => th.votes && th.pc == tAt0) && ((tVotes 1).thread? ⟨1, 0, 0⟩).any (fun th => th.votes && th.cont == 1)
        | _ => false)
    | none => false) = true := by decide +kernel

/-- A waiting record, with room in the queue and without. -/
def tWaits (n : Nat) : State := tCtx (tRun iNop) (fun c => { c with waiting := [⟨tFRec, .report⟩], queue := List.replicate n (1, ⟨tFRec, .report⟩) })
theorem met_post : (Tab.find (tWaits 4095).ctxs 0).any (fun c => !c.waiting.isEmpty && decide (c.queue.length < 4096)) = true ∧
    (Tab.find (tWaits 4096).ctxs 0).any (fun c => !c.waiting.isEmpty && decide (4096 ≤ c.queue.length)) = true := by decide +kernel
/-- An FWAIT whose time has come, and one whose time has not, at CLK 1,000. -/
def tTimed (dl : Nat) : State := { tThread (tKind .handler iNop) (fun th => { th with hold := some (.fwait 0 dl 0x20000 1 3 0 true) }) with clk := 1000 }
def tTimedAt (dl : Nat) (q : Nat → Bool) : Bool := ((tTimed dl).thread? ⟨1, 0, 0⟩).any (fun th => th.hold == some (.fwait 0 dl 0x20000 1 3 0 true)) && q (tTimed dl).clk.toNat
theorem met_fwait_timeout : tTimedAt 1000 (fun n => decide (1000 ≤ n)) = true ∧ tTimedAt 1001 (fun n => decide (n < 1001)) = true ∧
    (Tab.find (tTimed 1000).ctxs 0).any (fun c => c.queue.isEmpty) = true := by decide +kernel
def tDefer (full : Bool) : State := tFn (fun g => { g with defer := [(0, tFRec)], evFull := full }) (tRun iNop)
def tRing (s : State) (q : FnRegs → Bool) : Bool := q (Tab.get FnRegs.new s.fns 0)
theorem met_ring : tRing (tRun iNop) (fun g => g.defer.isEmpty) = true ∧ tRing (tDefer false) (fun g => !g.defer.isEmpty && !g.evFull) = true ∧
    tRing (tDefer true) (fun g => !g.defer.isEmpty && g.evHead == g.evTail && g.evFull) = true := by decide +kernel

/-- A thread that waits at COMMIT, in a block without protection and in one with a held store; one that does not wait. -/
def tHolds (h : Option Hold) : State := tThread (tRun iNop) (fun th => { th with hold := h })
def tHeldOp : HeldOp := ⟨0, 1, 0, 0x28000, [1], .store ⟨[0x28000], [1], none⟩⟩
def tP1 (s : State) : State := s.updBlock 1 (fun b => { b with prot := 1, held := [tHeldOp], jcount := 1, ckpt := some b.warps })
theorem tAt {b : Block} (h : b.warps.all (fun w => w.threads.all (fun th => th.owed.isEmpty && th.stop.isNone && th.hold == some .commit)) = true) : AtCommit b := by
  intro w hw th ht
  simp only [List.all_eq_true, Bool.and_eq_true, List.isEmpty_iff, Option.isNone_iff_eq_none, beq_iff_eq] at h
  obtain ⟨⟨h1, h2⟩, h3⟩ := h w hw th ht
  exact ⟨h1, .inr ⟨h2, .inl h3⟩⟩
def tCommits (s : State) : Bool := tBlk s (fun b => b.twin.isNone && b.primary && b.warps.all (fun w => w.threads.all (fun th => th.owed.isEmpty && th.stop.isNone &&
  th.hold == some .commit)) && b.warps.any (fun w => w.threads.any (fun th => th.live && th.hold == some .commit)))
theorem met_commit : tCommits (tHolds (some .commit)) = true ∧ tCommits (tP1 (tHolds (some .commit))) = true := by decide +kernel
theorem met_commit_not : ∀ b, (tRun iNop).block? 1 = some b → b.warps.any (fun w => w.threads.any (fun th => th.live && th.hold.isNone)) = true → ¬ AtCommit b := by
  intro b _ h hc
  simp only [List.any_eq_true, Bool.and_eq_true, Option.isNone_iff_eq_none] at h
  obtain ⟨w, hw, th, ht, hl, hh⟩ := h
  rcases (hc w hw th ht).2 with h0 | ⟨-, h0 | ⟨_, _, h0⟩ | ⟨-, _, h0⟩⟩
  · simp [hl] at h0
  all_goals simp [hh] at h0
theorem met_commit_not_at : tBlk (tRun iNop) (fun b => b.warps.any (fun w => w.threads.any (fun th => th.live && th.hold.isNone))) = true := by decide +kernel

/-- A consumed error in a protected block with a journal; the same once re-executed. -/
def tErrRec : FRec := ⟨0x10, 1, 0, 1, 0, 1, 1, 0x2B000, 0⟩
def tError (re : Bool) : State := (tP1 (tRun iNop)).updBlock 1 (fun b => { b with rb := some tErrRec, reexec := re, journal := [⟨false, 8, 7⟩] })
def tErred (re : Bool) : Bool := tBlk (tError re) (fun b => b.twin.isNone && b.primary && b.rb == some tErrRec && !b.badShadow && (Tab.find (tError re).ctxs b.ctx).isSome && !b.fixed && b.reexec == re &&
  b.journal.all (fun j => !j.loft && decide (j.addr % 4 = 0))) && (tError re).clusters.isEmpty && (tError re).syncs.isEmpty
theorem met_rollback : tErred false = true ∧ tErred true = true ∧ tBlk ((tError false).updBlock 1 (fun b => { b with badShadow := true })) (fun b => b.badShadow) = true := by
  decide +kernel

def tMovable (s : State) (b : Block) : Bool := b.twin.isNone && b.primary && b.prot == 0 && b.saved.isNone && b.kind == .kernel && !b.grid && !s.forked 1 &&
  b.warps.any (fun w => w.threads.any (fun th => th.live))
def tLofted (n : Nat) (s : State) : State := tCtx s (fun c => { c with loft := [n, 0, 0, 0], loftUsed := [0, 0, 0, 0] })
theorem met_move : tCommits (tHolds (some .commit)) = true ∧ tBlk (tHolds (some .commit)) (fun b => tMovable (tHolds (some .commit)) b && (tHolds (some .commit)).roomAt 5 b &&
    coreDie 5 == coreDie b.core) = true ∧ (tHolds (some .commit)).mem.wf = true ∧ (tHolds (some .commit)).scr.wf = true := by decide +kernel
/-- The same block saved; and one at a commit point with a launch. -/
def tSavedB : State := (tLaunched id (tHolds (some .commit))).updBlock 1 (fun b => { b with saved := some 0 })
theorem met_restore : tBlk tSavedB (fun b => b.saved == some 0 && tSavedB.roomAt 5 b && coreDie 5 == coreDie b.core && (Tab.find tSavedB.launches b.lid).isSome &&
    (Tab.find tSavedB.ctxs b.ctx).isSome) = true ∧ tSavedB.mem.wf = true ∧ tSavedB.scr.wf = true := by decide +kernel
theorem met_move_noroom : tBlk (tHolds (some .commit)) (fun b => !(tHolds (some .commit)).roomAt 1024 b && (tHolds (some .commit)).roomAt 1023 b) = true := by decide +kernel
theorem met_save : tCommits (tLofted 1 (tLaunched id (tHolds (some .commit)))) = true ∧ tBlk (tLofted 1 (tLaunched id (tHolds (some .commit)))) (fun b => tMovable (tLofted 1 (tLaunched id (tHolds (some .commit)))) b &&
    (Tab.find (tLofted 1 (tLaunched id (tHolds (some .commit)))).ctxs b.ctx).any (fun c => decide (20480 * b.warps.length ≤ c.loftFree (coreDie b.core))) &&
      (Tab.find (tLofted 1 (tLaunched id (tHolds (some .commit)))).launches b.lid).isSome) = true := by decide +kernel

def tTimer (t : DWord) : State := { (tRun iNop).updBlock 1 (fun b => { b with timer := t }) with clk := 1000 }
theorem met_timer : tBlk (tTimer 0) (fun b => b.twin.isNone && b.timer == 0) = true ∧ tBlk (tTimer 1000) (fun b => b.timer != 0 && decide (b.timer.toNat ≤ (tTimer 1000).clk.toNat)) = true ∧
    tBlk (tTimer 1001) (fun b => decide ((tTimer 1001).clk.toNat < b.timer.toNat)) = true := by decide +kernel
theorem met_error_bank : ((tLatch 5 true iNop).thread? ⟨1, 0, 0⟩).any (fun th => th.latch.any (fun x => x.u == 5 && x.fresh)) = true ∧
    ((tLatch 6 true iNop).thread? ⟨1, 0, 0⟩).any (fun th => th.latch.all (fun x => x.u != 5 || !x.fresh)) = true ∧
    recordDiffers Bank.new (corrected Bank.new 1) ∧ ¬ recordDiffers { Bank.new with valid := true } (corrected { Bank.new with valid := true } 0) := by
  refine ⟨by decide +kernel, by decide +kernel, .inl (by decide), ?_⟩
  rintro (h | h | h | h) <;> exact h rfl

/-! ## Hypotheses met: tasks, launches, levels -/

/-- Bytes with some fields set: offset, width, value. -/
def tFields (n : Nat) (fs : List (Nat × Nat × Nat)) : List Byte :=
  fs.foldl (fun bs f => bs.take f.1 ++ leBytes f.2.1 f.2.2 ++ bs.drop (f.1 + f.2.1)) (List.replicate n 0)
def tPut (at_ : Nat) (bs : List Byte) (s : State) : State := s.memWrite (atKeys at_ bs)

/-- A record at 0x28000 of a block whose launch is 1. -/
def tTask (fs : List (Nat × Nat × Nat)) : List Byte := tFields 64 ((0, 8, 0x20000) :: fs)
def tSpawn (va : Nat) (fs : List (Nat × Nat × Nat)) (cut : Bool) (ready : Nat) (i : Instr) : State :=
  (tPut 0x28000 (tTask fs) (tLaunched (fun l => { l with cancelled := cut }) (tPair va i))).updDie 0 (fun d => { d with ready := List.replicate ready ⟨0, 1, 0, TaskRec.of (tTask fs), 0, 0, 0⟩ })
noncomputable def iSpawn : Instr := .spawn (fA 0 4 0)
def tSpawnAt (s : State) (l : Lane) (e : Env) (q : State → TaskRec → Bool) : Bool :=
  l == .thr ⟨1, 0, 0⟩ && decide (e.prot = 0) && (match rawReader e (s.settle ⟨1, 0, 0⟩) 64 (e.pair 4) 64 with | (s1, .ok bs) => q s1 (TaskRec.of bs) | _ => false)
def tRecBad (s1 : State) (e : Env) (r : TaskRec) : Bool := decide (r.flags.toNat % 4 ≠ 0) || !s1.recOk (s1.maker e) r
def tRecCut (s1 : State) (e : Env) (r : TaskRec) : Bool := s1.blkCut e.blk || s1.cutOff (r.under (s1.maker e))
def tReadyLen (s1 : State) (e : Env) : Nat := (Tab.get Die.new s1.dies (coreDie e.core)).ready.length
theorem met_spawn_fails : Lone (tSpawn 0x28020 [] false 0) iSpawn (fun s _ _ _ _ e => decide (e.prot = 0) && tErr (rawReader e (s.settle ⟨1, 0, 0⟩) 64 (e.pair 4) 64)) := alone_of (by decide +kernel)
theorem met_spawn_bad : Lone (tSpawn 0x28000 [(0x1C, 4, 1)] false 0) iSpawn (fun s _ _ _ l e => tSpawnAt s l e (fun s1 r => tRecBad s1 e r)) := alone_of (by decide +kernel)
theorem met_spawn_cut : Lone (tSpawn 0x28000 [] true 0) iSpawn (fun s _ _ _ l e => tSpawnAt s l e (fun s1 r => !tRecBad s1 e r && tRecCut s1 e r)) := alone_of (by decide +kernel)
theorem met_spawn_room : Lone (tSpawn 0x28000 [] false 3) iSpawn (fun s _ _ _ l e => tSpawnAt s l e (fun s1 r => !tRecBad s1 e r && !tRecCut s1 e r &&
    decide (tReadyLen s1 e < 65536))) := alone_of (by decide +kernel)
theorem met_spawn_full : Lone (tSpawn 0x28000 [] false 65536) iSpawn (fun s _ _ _ l e => tSpawnAt s l e (fun s1 r => !tRecBad s1 e r && !tRecCut s1 e r &&
    !decide (tReadyLen s1 e < 65536))) := alone_of (by decide +kernel)
theorem met_record : (Tab.find (tRun iSpawn).ctxs (Creator.mk 0 0 0 0 false []).ctx).isSome = true ∧ (Creator.mk 0 0 0 0 false []).host = false ∧
    (TaskRec.of (tTask [])).flags.toNat % 4 = 0 := by decide +kernel

/-- Items that gather: 30 of them, 31 of them, at their time and before it. -/
def tGather (n : Nat) : Gather := ⟨0, 1, 0x20000, List.replicate n [0, 0, 0, 0], 1000, 0, []⟩
def tGathers (n : Nat) : Cluster := { Cluster.new with gather := [tGather n] }
theorem met_packing : ((tGathers 30).gather.find? (fun g => g.ctx == 0 && g.lid == 1 && g.entry == 0x20000)) = some (tGather 30) ∧ (tGather 30).items.length < 31 ∧
    ((tGathers 31).gather.find? (fun g => g.ctx == 0 && g.lid == 1 && g.entry == 0x20000)) = some (tGather 31) ∧ 31 ≤ (tGather 31).items.length ∧
    ((tGathers 1).gather.all (fun g => !(g.ctx == 0 && g.lid == 2 && g.entry == 0x20000))) = true := by decide +kernel
def tGathered (now : DWord) : State := { State.reset with clk := now }.updCluster 0 (fun _ => tGathers 1)
def tLate (s : State) : Bool := decide (256 * 1000 ≤ (s.clk.toNat - 1000) * (800 - 80 * (Tab.get Die.new s.dies (0 / 64)).step))
theorem met_gather_late : tLate (tGathered 1320) = true ∧ tLate (tGathered 1319) = false ∧ ((tGathered 1320).cluster 0).gather = [tGather 1] := by decide +kernel
noncomputable def iSpawni : Instr := .spawni (fA 0 4 8)
theorem met_spawni : Lone (tSpawn 0x28002 [] false 0) iSpawni (fun _ _ _ _ _ e => decide ((e.pair 4).toNat % 4 ≠ 0)) ∧
    Lone (tSpawn 0x28004 [] true 0) iSpawni (fun s _ _ _ l e => l == .thr ⟨1, 0, 0⟩ && decide (e.prot = 0) && (s.settle ⟨1, 0, 0⟩).blkCut e.blk) ∧
    Lone (tSpawn 0x28004 [] false 0) iSpawni (fun s _ _ _ l e => l == .thr ⟨1, 0, 0⟩ && decide (e.prot = 0) && !(s.settle ⟨1, 0, 0⟩).blkCut e.blk && ((s.settle ⟨1, 0, 0⟩).block? e.blk).isSome) :=
  ⟨alone_of (by decide +kernel), alone_of (by decide +kernel), alone_of (by decide +kernel)⟩

/-- A launch of 2 × 1 × 1 blocks of 33 threads with a scratchpad region of 256 bytes: its record and descriptor. -/
def tDesc (fs : List (Nat × Nat × Nat)) : List Byte :=
  tFields 64 ([(0, 8, 0x20000), (0x10, 4, 2), (0x14, 4, 1), (0x18, 4, 1), (0x1C, 2, 33), (0x1E, 1, 32), (0x1F, 1, 16), (0x20, 4, 256)] ++ fs)
def tLaunchRec (fs ds : List (Nat × Nat × Nat)) (cut : Bool) (va : Nat) (i : Instr) : State :=
  tPut 0x28040 (tDesc ds) (tPut 0x28000 (tFields 64 ([(8, 8, 0x28040), (0x1C, 4, 1)] ++ fs)) (tLaunched (fun l => { l with cancelled := cut }) (tPair va i)))
noncomputable def iLaunch : Instr := .launch (fA 8 4 0)
def tPlan (s : State) (l : Lane) (e : Env) (q : TaskRec → State × Except FInfo Plan → Bool) : Bool :=
  tSpawnAt s l e (fun s1 r => r.flags.toNat % 4 == 1 && s1.recOk (s1.maker e) r && q r (s1.plan (rawReader e) (s1.maker e) r))
theorem met_launch_fails : Lone (tLaunchRec [] [] false 0x28004) iLaunch (fun s _ _ _ _ e => tErr (rawReader e (s.settle ⟨1, 0, 0⟩) 64 (e.pair 4) 64)) := alone_of (by decide +kernel)
theorem met_launch_bad : Lone (tLaunchRec [(0x1C, 4, 0)] [] false 0x28000) iLaunch (fun s _ _ _ l e => tSpawnAt s l e (fun s1 r => r.flags.toNat % 4 != 1 || !s1.recOk (s1.maker e) r)) :=
  alone_of (by decide +kernel)
theorem met_launch_plan : Lone (tLaunchRec [] [(0x1E, 1, 33)] false 0x28000) iLaunch (fun s _ _ _ l e => tPlan s l e (fun _ p => tErr p)) := alone_of (by decide +kernel)
theorem met_launch_cut : Lone (tLaunchRec [] [] true 0x28000) iLaunch (fun s _ _ _ l e => tPlan s l e (fun r p => tOk p && tRecCut p.1 e r)) := alone_of (by decide +kernel)
theorem met_launch : Lone (tLaunchRec [] [] false 0x28000) iLaunch (fun s _ _ _ l e => tPlan s l e (fun r p => !tRecCut p.1 e r &&
    (match p.2 with | .ok p => !p.desc.lflags.getLsbD 3 | _ => false))) := alone_of (by decide +kernel)
theorem met_descriptor : (LDesc.of (tDesc [])).ok = true := by decide +kernel

/-- That launch with its first block to place, and complete. -/
def tPlaces (done : Bool) : State := { tRun iNop with launches := [(1, { tLaunch1 with desc := LDesc.of (tDesc []), curD := 0, placed := 0, complete := done })] }
def tPlacesL (q : Launch → Bool) : Bool := (Tab.find (tPlaces false).launches 1).any q
theorem met_placement : tPlacesL (fun l => !l.complete && !l.victim && !(tPlaces false).lidCancelled 1 && l.rest != 0 && !l.desc.lflags.getLsbD 2 && l.desc.lflags.toNat % 4 == 0 &&
    l.next.isSome && ((tPlaces false).findCore l.ctx ((l.desc.threads + 31) / 32) l.desc.scratch l.desc.loft none).isSome) = true := by decide +kernel
theorem met_placement_done : (Tab.find (tPlaces true).launches 1).any (fun l => l.complete) = true := by decide +kernel

/-- A task that waits on die 0, and two items that do. -/
def tReadyRec : ReadyRec := ⟨0, 1, 0x28000, TaskRec.of (tTask [(0x1C, 4, 256)]), 0, 0, 0⟩
def tReadies (rs : List ReadyRec) (gs : List Gather) : State :=
  ((tLaunched id (tRun iNop)).updDie 0 (fun d => { d with ready := rs })).updCluster (coreCluster 5) (fun c => { c with formed := gs })
theorem met_dispatch : ((tReadies [tReadyRec] []).die (coreDie 5)).ready = [tReadyRec] ∧ ((tReadies [tReadyRec] []).cluster (coreCluster 5)).formed = [] ∧
    ((tReadies [tReadyRec] []).startOn 5 (.ready tReadyRec)).isSome = true ∧ tReadyRec.task.flags.toNat / 4 % 4 = 0 ∧
    ((tReadies [tReadyRec] []).startTask 5 tReadyRec).isSome = true := by decide +kernel
theorem met_dispatch_items : ((tReadies [] [tGather 32]).die (coreDie 5)).ready = [] ∧ ((tReadies [] [tGather 32]).cluster (coreCluster 5)).formed = [tGather 32] ∧
    ((tReadies [] [tGather 32]).startOn 5 (.items (tGather 32))).isSome = true ∧ (tGather 32).items.length ≤ 32 ∧ (tGather 32).items ≠ [] ∧
    ((tReadies [] [tGather 32]).startItems 5 (tGather 32)).isSome = true := by decide +kernel
theorem met_best : (Waiting.best (fun _ => false) [.ready tReadyRec, .items (tGather 32)]).isSome = true := by decide +kernel

/-- Window writes: out of the window, with no room, kept, and refused for its limits. -/
def tHostRec (fs : List (Nat × Nat × Nat)) : List Byte := tTask ([(0x2E, 6, 1), (0x34, 6, 2), (0x3A, 6, 3)] ++ fs)
def tWin (n : Nat) : State := (tRun iNop).updDie 3 (fun d => { d with ready := List.replicate n tReadyRec })
def tWinAt (d n : Nat) : State := (tRun iNop).updDie d (fun d => { d with ready := List.replicate n tReadyRec })
def tArrived (s : State) : State := { s with dev := { s.dev with arrivals := s.dev.arrivals + 1 } }
theorem met_window : (Tab.find (tWin 0).ctxs 0).isSome = true ∧ (tWin 0).recLive 0 = [] ∧ (4096 : Nat) ≤ 0x1000 ∧ 0xFC0 % 64 = 0 ∧ ((tWin 0).cluster (64 * (0xFC0 / 1024) + 0)).healthy = true ∧
    (tHostRec []).length = 64 := by decide +kernel
theorem met_window_full : ((tWin 0).die (0xFC0 / 1024)).ready.length < 65536 ∧ 65536 ≤ ((tWin 65536).die (0xFC0 / 1024)).ready.length := by decide +kernel
theorem met_window_kept : (tArrived (tWin 0)).recOk ⟨0, 0, 0, 0, true, []⟩ (TaskRec.of (tHostRec [])) = true ∧
    (tArrived (tWin 0)).cutOff ((TaskRec.of (tHostRec [])).under ⟨0, 0, 0, 0, true, []⟩) = false ∧
    (tArrived (tWin 0)).recOk ⟨0, 0, 0, 0, true, []⟩ (TaskRec.of (tTask [])) = false := by decide +kernel

/-- Units at their end: a launch with work left, one without, one with a successor counter of 2 at 0x28000; a block whose threads have exited. -/
def tSucc (n : Nat) (succ : DWord) (k : Nat := 2) : State := tPut 0x28000 (leBytes 4 k ++ leBytes 4 0 ++ leBytes 8 0x28040) (tLaunched (fun l => { l with count := n, succ := succ }) (tRun iNop))
theorem met_launch_ends : (Tab.find (tSucc 1 0).launches 1).any (fun l => l.count != 0) = true ∧ (Tab.find (tSucc 0 0).launches 1).any (fun l => l.count == 0 && l.succ == 0 && !l.complete) = true ∧
    (Tab.find (tSucc 0 0x28000).launches 1).any (fun l => l.count == 0 && l.succ == 0x28000 && !l.complete) = true := by decide +kernel
def tSuccIs (k : Nat) (q : Int → DWord → Bool) : Bool :=
  match (tSucc 0 0x28000 k).engAccess 0 0 ⟨.write, true, fmtRaw, true⟩ 16 0x28000 16 with
  | .ok [(key, _)] => !(tSucc 0 0x28000 k).memBad ((List.range 16).map (fun k => key + k)) && decide (((tSucc 0 0x28000 k).die (key / 128 % 256 / 64)).ready.length < 65536) &&
      q (BitVec.ofNat 32 (leVal ((tSucc 0 0x28000 k).mem.bytes key 4)) : Word).toInt (entryAt (tSucc 0 0x28000 k).mem (key + 8))
  | _ => false
theorem met_successor : tSuccIs 2 (fun n _ => decide (1 < n)) = true ∧ tSuccIs 1 (fun n x => decide (n = 1) && x != 0) = true ∧ tSuccIs 0 (fun n _ => decide (n ≤ 0)) = true := by
  decide +kernel
def tExited : State := tThread (tLaunched id (tRun iNop)) (fun th => { th with live := false })
theorem met_block_ends : tBlk tExited (fun b => b.ctx == 0 && b.twin.isNone && b.primary && b.prot == 0 && b.saved.isNone && b.kind == .kernel && !tExited.forked 1 &&
    b.warps.all (fun w => w.threads.all (fun th => !th.live && th.owed.isEmpty)) && (Tab.find tExited.launches b.lid).isSome) = true := by decide +kernel
theorem met_block_stays : tBlk (tRun iNop) (fun b => b.warps.any (fun w => w.threads.any (fun th => th.live))) = true := by decide +kernel
/-- Levels: graph 5 of phase 6 of job 7, complete or with a live launch, a live graph and a live phase. -/
def tLevels (g p : Bool) (l : Bool) : State := tCtx (tLaunched (fun x => { x with graph := 5, complete := l }) (tRun iNop)) (fun c =>
  { c with graphs := [(5, ⟨6, g, false, false, []⟩)], phases := [(6, ⟨7, p, false, false, []⟩)], jobs := [(7, ⟨0, false, false, false, []⟩)] })
theorem met_levels_end : (tLevels true true true).launches.all (fun p => p.2.complete) = true ∧ (tLevels true true true).dies.isEmpty = true ∧
    (Tab.find (tLevels true true true).ctxs 0).any (fun c => c.phase.isNone && c.graphs.all (fun g => g.2.complete) && c.phases.all (fun p => p.2.complete)) = true := by decide +kernel
theorem met_levels_stay : (tLevels false false false).launches.any (fun p => p.2.ctx == 0 && p.2.graph == 5 && !p.2.complete) = true ∧
    (Tab.find (tLevels false false false).ctxs 0).any (fun c => c.graphs.any (fun g => g.2.parent == 6 && !g.2.complete) && c.phases.any (fun p => p.2.parent == 7 && !p.2.complete)) = true := by
  decide +kernel

/-- Phases at their end: over, still counting, done on one die, done over devices, sent. -/
def tPhased (f : Phase → Phase) : State := tPh 0 (some (f (tPhase false))) iNop
def tPhasedIs (f : Phase → Phase) (q : Ctx → Phase → Bool) : Bool := (Tab.find (tPhased f).ctxs 0).any (fun c => c.phase.any (q c))
def tAbove (p : Phase) : Bool := p.counts.any (fun x => decide (0 < x.2.msg) || decide (0 < x.2.task) || decide (0 < x.2.eng) || decide (0 < x.2.store) || decide (0 < x.2.arr))
def tCame (scope : Nat) (sent : Bool) (p : Phase) : Phase := { p with scope := scope, sent := sent, ranks := [(0, 0), (1, 0)], counts := [(0, ⟨0, 0, 0, 0, -1⟩), (1, ⟨0, 0, 0, 0, 0⟩)] }
theorem met_phase_end : tPhasedIs (fun p => { p with ended := true }) (fun _ p => p.ended) = true ∧ tPhasedIs id (fun _ p => tAbove p) = true ∧
    tPhasedIs (tCame 1 false) (fun _ p => !p.ended && !tAbove p && p.scope != 2) = true ∧ tPhasedIs (tCame 2 false) (fun _ p => !p.ended && !tAbove p && p.scope == 2 && !p.sent) = true ∧
    tPhasedIs (tCame 2 true) (fun c p => !p.ended && !tAbove p && p.scope == 2 && p.sent && !c.m2s.contains (p.id, 1) && decide (1 < p.ranks.length)) = true ∧
    (Tab.find (tCtx (tPhased (tCame 2 true)) (fun c => { c with m2s := [(1, 0), (1, 1)] })).ctxs 0).any (fun c => c.phase.any (fun p => p.sent && p.id == 1 &&
      (List.range p.ranks.length).all (fun r => c.m2s.contains (p.id, r)))) = true := by decide +kernel

/-- CANCEL and COUNTR: the last code and the first beyond it; levels that are there, complete, or neither. -/
def tLev (id : Nat) (x : State → State) (i : Instr) : State := tW (x (tRun i)) 4 [BitVec.ofNat 32 id, BitVec.ofNat 32 (id / 2 ^ 32)]
def tLive (s : State) : State := tCtx (tLaunched (fun x => { x with graph := 5 }) s) (fun c => { c with graphs := [(5, ⟨6, true, false, false, []⟩)] })
noncomputable def iCancel (c : BitVec 8) : Instr := .cancel (fA 3 4 c)
noncomputable def iCountr (c : BitVec 8) : Instr := .countr (fA 8 4 c)
def tId (e : Env) : Nat := (e.pair 4).toNat % 2 ^ 48
theorem met_cancel : Lone (tLev 1 tLive) (iCancel 0xD5) (fun _ _ _ _ _ e => decide (4 < (e.val 0xD5 0).toNat)) ∧
    Lone (tLev 2 tLive) (iCancel 0xD1) (fun s _ _ _ _ e => decide ((e.val 0xD1 0).toNat = 1) && tId e == 2 && (Tab.find s.launches 2).isNone) ∧
    Lone (tLev 5 tLive) (iCancel 0xD2) (fun s _ _ _ _ e => decide ((e.val 0xD2 0).toNat = 2) && tId e == 5 && (Tab.find s.ctxs e.ctx).any (fun c => (Tab.find c.graphs 5).all (fun x => x.complete))) ∧
    Lone (tLev 1 tLive) (iCancel 0xD1) (fun s _ _ _ _ e => decide ((e.val 0xD1 0).toNat = 1) && tId e == 1 && (Tab.find s.launches 1).any (fun x => x.ctx == e.ctx && !x.complete &&
      !x.cancelled && decide (0 < x.count))) := ⟨alone_of (by decide +kernel), alone_of (by decide +kernel), alone_of (by decide +kernel), alone_of (by decide +kernel)⟩
theorem met_countr : Lone (tLev 1 tLive) (iCountr 0xD5) (fun _ _ _ _ _ e => decide (4 < (e.val 0xD5 0).toNat)) ∧
    Lone (tLev 0 tLive) (iCountr 0xD1) (fun s _ _ _ _ e => decide ((e.val 0xD1 0).toNat = 1) && (Tab.find s.launches (levelNamed s e 1 (tId e))).any (fun x => x.ctx == e.ctx)) ∧
    Lone (tLev 0 tLive) (iCountr 0xD4) (fun s _ _ _ _ e => decide ((e.val 0xD4 0).toNat = 4) && (Tab.find s.ctxs e.ctx).isSome) :=
  ⟨alone_of (by decide +kernel), alone_of (by decide +kernel), alone_of (by decide +kernel)⟩

/-! ## Hypotheses met: messages -/

/-- A group of two ranks at 0x28040, this device rank 0; a descriptor at 0x28000; links up. -/
def tGroupTab : List Byte := tFields 64 [(0, 4, 7), (4, 4, 2), (8, 2, 2), (0xA, 2, 1), (0xC, 2, 1)] ++ tFields 16 [(8, 3, 9)]
def tMsg (fs : List (Nat × Nat × Nat)) (i : Instr) : State :=
  let s := tPut 0x28040 tGroupTab (tPut 0x28000 (tFields 32 fs) (tPair 0x28000 i))
  { s with dev := { s.dev with links := 1 } }
noncomputable def iSend : Instr := .msgsend (fA 8 4 0)
def tMsgAt (s : State) (l : Lane) (e : Env) (q : State → List Byte → Bool) : Bool :=
  l == .thr ⟨1, 0, 0⟩ && decide (e.prot = 0) && !s.enginePosting (coreCluster e.core) 4 &&
    (match rawReader e (s.settle ⟨1, 0, 0⟩) 32 (e.pair 4) 32 with | (s1, .ok bs) => q s1 bs | _ => false)
def tSend (rank src w : Nat) (remote : Nat := 0) : List (Nat × Nat × Nat) := [(0, 8, 0x28040), (8, 8, src), (0x10, 8, remote), (0x18, 4, rank), (0x1C, 4, w)]
def tGrp (s1 : State) (e : Env) (bs : List Byte) (q : State → Group → Bool) : Bool :=
  match s1.readGroup e.ctx (rawReader e) (BitVec.ofNat 64 (field bs 0 8)) with | (s2, .ok g) => q s2 g | _ => false
theorem met_send_illegal : Lone (tMsg (tSend 1 0x29000 (15 * 4096))) iSend (fun s _ _ _ l e => tMsgAt s l e (fun _ bs => field bs 0x1C 4 / 4096 != 16)) := alone_of (by decide +kernel)
theorem met_send_rank : Lone (tMsg (tSend 2 0x29000 (16 * 4096))) iSend (fun s _ _ _ l e => tMsgAt s l e (fun s1 bs => field bs 0x1C 4 == 16 * 4096 && tGrp s1 e bs (fun _ g =>
    decide (g.ranks.length ≤ field bs 0x18 4)))) := alone_of (by decide +kernel)
def tSource (s2 : State) (e : Env) (al src n : Nat) (q : State → List Nat → Bool) : Bool :=
  match s2.access e.core e.ctx e.blk tRead al (BitVec.ofNat 64 src) n with | (s3, .ok (keys, _)) => q s3 keys | _ => false
theorem met_send_source : Lone (tMsg (tSend 1 0x29020 (16 * 4096))) iSend (fun s _ _ _ l e => tMsgAt s l e (fun s1 bs => tGrp s1 e bs (fun s2 g => decide (1 < g.ranks.length) &&
    tErr (s2.access e.core e.ctx e.blk tRead 64 0x29020 64)))) := alone_of (by decide +kernel)
theorem met_send_m0 : Lone (tMsg (tSend 1 0x29000 (16 * 4096))) iSend (fun s _ _ _ l e => tMsgAt s l e (fun s1 bs => tGrp s1 e bs (fun s2 g => (g.ranks[1]?).isSome &&
    tSource s2 e 64 0x29000 64 (fun s3 keys => tOk (s3.readBytes e 0x29000 keys) && s.dev.links &&& ~~~s.dev.linkDown != 0)))) := alone_of (by decide +kernel)
theorem met_send_m1 : Lone (tMsg (tSend 0 0x29004 (4096 + 3 + 4 * 1023) 0x28004)) iSend (fun s _ _ _ l e => tMsgAt s l e (fun s1 bs => tGrp s1 e bs (fun s2 g => (g.ranks[0]?).isSome && g.me == 0 &&
    tSource s2 e 4 0x29004 4 (fun s3 keys => tOk (s3.readBytes e 0x29004 keys))))) := alone_of (by decide +kernel)
/-- MSGREM of one bin from page 11 to page 11, with another window, without a count, and beyond the count. -/
def tRem (count seq : Nat) (dst : Nat := tPage 11 16) : List (Nat × Nat × Nat) := [(0, 8, 0x28040), (8, 8, tPage 11), (0x10, 8, dst), (0x18, 4, count), (0x1C, 4, seq)]
noncomputable def iRem : Instr := .msgrem (fA 8 4 0)
theorem met_rem_limits : Lone (tMsg (tRem 0 1)) iRem (fun s _ _ _ l e => tMsgAt s l e (fun _ bs => field bs 0x18 4 == 0)) ∧
    Lone (tMsg (tRem 4097 1)) iRem (fun s _ _ _ l e => tMsgAt s l e (fun _ bs => decide (4096 < field bs 0x18 4))) ∧
    Lone (tMsg (tRem 1 0)) iRem (fun s _ _ _ l e => tMsgAt s l e (fun _ bs => field bs 0x1C 4 == 0)) :=
  ⟨alone_of (by decide +kernel), alone_of (by decide +kernel), alone_of (by decide +kernel)⟩
def tRems (s1 : State) (e : Env) (bs : List Byte) (n dst : Nat) (q : State → Group → List DWord → Bool) : Bool :=
  tGrp s1 e bs (fun s2 g => match s2.access e.core e.ctx e.blk ⟨.read, false, fmtBin true, true⟩ 16 (BitVec.ofNat 64 (tPage 11)) (16 * n) with
    | (s3, .ok (keys, ps)) => (match s3.readBytes e (BitVec.ofNat 64 (tPage 11)) keys with
        | (s4, .ok _) => (match s4.access e.core e.ctx e.blk ⟨.write, false, fmtBin true, true⟩ 16 (BitVec.ofNat 64 dst) (16 * n) with
            | (s5, .ok (_, qs)) => ps != [] && (s5.block? e.blk).any (fun b => b.held.isEmpty) && q s5 g (ps ++ qs)
            | _ => false)
        | _ => false)
    | _ => false)
def tRemUsed (s5 : State) (g : Group) : Bool := s5.clusters.any (fun c => c.2.msgs.any (fun m => m.kind == 2 && m.gid == g.gid && m.seq == 1))
def tOneWin (ps : List DWord) : Bool := ps.all (fun p => pteWin p == pteWin (ps.headD 0))
def tOp (kind num : Nat) : MsgOp := ⟨num, 0, 1, ⟨1, 0, 0⟩, kind, [], 7, 0, 1, 0, 0x28000, [5], 0⟩
def tBusy (s : State) : State := s.updCluster 0 (fun c => { c with msgs := [tOp 2 1] })
theorem met_rem : Lone (tMsg (tRem 2 1)) iRem (fun s _ _ _ l e => tMsgAt s l e (fun s1 bs => tRems s1 e bs 2 (tPage 11 16) (fun s5 g ps => !tRemUsed s5 g && tOneWin ps &&
    s.dev.links &&& ~~~s.dev.linkDown != 0))) := alone_of (by decide +kernel)
theorem met_rem_used : Lone (fun i => tBusy (tMsg (tRem 1 1) i)) iRem (fun s _ _ _ l e => tMsgAt s l e (fun s1 bs => tRems s1 e bs 1 (tPage 11 16) (fun s5 g _ => tRemUsed s5 g))) := alone_of (by decide +kernel)

/-- Arrivals: a record that is kept and one that waits; writes to a page without permission, to one that takes them, and to none. -/
def tArr1 (va : DWord) (q : Ctx → TlbE → Bool) : Bool :=
  let s := tPaged (tRun iNop)
  (Tab.find s.ctxs 0).any (fun c => (s.recLive 0).isEmpty && (walk s.mem c.root va).any (q c))
def tIn0 (c : Ctx) (w : TlbE) (va : Nat) : Bool := inRange (tPaged (tRun iNop)).mem c (pteLoc w.pte) (pteBase w.pte + (va - w.base))
theorem met_m0 : ((tArrived (tWin 0)).windowWrite 0 0 (tHostRec [])).isSome = true ∧ ((tArrived (tWinAt 0 65536)).windowWrite 0 0 (tHostRec [])).isNone = true := by decide +kernel
theorem met_m1 : tArr1 0x200D0000 (fun c w => tIn0 c w 0x200D0000 && !pteW w.pte) = true ∧
    tArr1 0x2FFFF (fun c w => tIn0 c w 0x2FFFF && pteLoc w.pte != 1 && pteLoc w.pte != 3 && pteW w.pte && fmtCopy w.pte) = true ∧
    (0x2FFFF : DWord).toNat % 65536 + [0x5A#8].length ≤ 65536 ∧ ((tPaged (tRun iNop)).ctxs.all (fun c => (walk (tPaged (tRun iNop)).mem c.2.root 0x20050000).isNone)) = true := by decide +kernel
/-- Operations in flight, and sequences of the switches: with one of two ranks there, with both, aborted. -/
def tFlying (k : Nat) : State := (tRun iNop).updCluster 0 (fun c => { c with msgs := [tOp k 1], tls := c.tls.set 4 ⟨1, 0, []⟩ })
theorem met_ack : ((tFlying 1).cluster 0).msgs = [tOp 1 1] ∧ (tOp 1 1).kind ≠ 2 ∧ (tOp 1 1).num = 1 ∧ (Tab.find (tFlying 1).ctxs 0).any (fun c => c.phase.isNone) = true ∧
    ((tFlying 1).cluster 0 |>.tl 4).done + 1 = 1 := by decide +kernel
def tSwitchS (got : List (Nat × Int × List BinBits)) (ab : Bool) (clk : DWord) (s : State) : State := { s with switches := [⟨7, 1, 2, 1000, got, false, ab⟩], clk := clk }
def tHalf : List (Nat × Int × List BinBits) := [(0, 0, [5])]
def tFull : List (Nat × Int × List BinBits) := [(0, 0, [5]), (1, 0, [6])]
theorem met_m3 : (State.reset.seq? 7 1).isNone = true ∧ ((tSwitchS tHalf false 0 State.reset).seq? 7 1).any (fun q => !q.aborted && q.got.all (fun g => g.1 != 1)) = true ∧
    ((tSwitchS [] true 0 State.reset).seq? 7 1).any (fun q => q.aborted) = true ∧ ((tSwitchS tHalf false 0 State.reset).seq? 7 1).any (fun q => q.got.any (fun g => g.1 == 0)) = true := by decide +kernel
theorem met_window_expiry : tHalf.all (fun g => g.1 != 1) = true ∧ (501000 : DWord).toNat = 1000 + 500000 ∧ (500999 : DWord).toNat < 1000 + 500000 ∧
    (tFull.any (fun g => g.1 == 0) && tFull.any (fun g => g.1 == 1)) = true := by decide +kernel
def tRound : State := tSwitchS tFull false 2000 ((tPaged (tFlying 2)).updCluster 0 (fun c => { c with msgs := [{ tOp 2 1 with va := BitVec.ofNat 64 (tPage 11) }] }))
theorem met_round : (tRound.remOps 7 1).map (fun m => m.2.bins.length) = [1] ∧ tRound.recLive 0 = [] ∧
    (match tRound.engAccess 0 1 ⟨.write, false, fmtBin true, true⟩ 16 (BitVec.ofNat 64 (tPage 11)) 16 with | .ok [(_, _, pte)] => pteLoc pte != 3 | _ => false) = true ∧
    (tSwitchS tFull false 2000 State.reset).remOps 7 1 = [] := by decide +kernel

/-! ## Hypotheses met: pairs -/

/-- A descriptor of ALL pairs of two records, without a test, its fields changed; a good one and one at each limit that is stated. -/
def tPDesc (fs : List (Nat × Nat × Nat)) : List Byte :=
  tFields 128 ([(0, 8, 0x2A000), (8, 4, 2), (0xC, 4, 64), (0x48, 4, 148), (0x58, 8, 0x29000), (0x6C, 4, 1), (0x70, 8, 0x20000)] ++ fs)
def tPD (fs : List (Nat × Nat × Nat)) : PDesc := PDesc.of (tPDesc fs)
theorem met_pair_limits : (tPD []).bad = none ∧ (tPD [(0, 8, 0x2A008)]).recA.toNat % 16 ≠ 0 ∧ 2 ^ 31 ≤ (tPD [(8, 4, 2147483648)]).countA ∧
    (tPD [(8, 4, 65537)]).nclus ≤ 256 ∧ 65536 < (tPD [(8, 4, 65537)]).binsOf 0 := by decide +kernel
theorem met_homes : (1 : Nat) * 2 / 5 = 0 ∧ (3 : Nat) * 2 / 5 = 1 := by decide
theorem met_pairLimits : PairLimits (tPD []) :=
  ⟨by decide +kernel, by decide +kernel, by decide +kernel, by decide +kernel, by decide +kernel, by decide +kernel, by decide +kernel, by decide +kernel,
   ⟨by decide +kernel, fun c hc => by
     have : c = 0 := by have h : (tPD []).clusters = 1 := by decide +kernel
                        omega
     subst this; decide +kernel⟩⟩
def tPL (d : PDesc) (st : Nat) : PairLaunch := { placedPair with desc := d, state := st, reserved := decide (st ≠ 0), tested := decide (1 < st), running := [], area := 0x28000, blk := 1 }
def tItems : List PairItem := [⟨0, 0, 1, 0, 0, 0, 0, 0, 0⟩, ⟨1, 1, 0, 0, 0, 0, 0, 0, 0⟩]
theorem met_share : 0 < (tPL (tPD []) 2).desc.clusters ∧ ({ tPL (tPD []) 2 with items := tItems }.share 0).length = 2 := by decide +kernel
/-- A list of pairs (0, 1), (1, 0) and (2, 0) under SELF; a cell grid with a periodic dimension; a test that a candidate passes; exclusion. -/
def tListed : State := tPut 0x2B000 (tFields 24 [(4, 4, 1), (8, 4, 1), (16, 4, 2)]) (tRun iNop)
def tSrc (k : Nat) : PairLaunch := tPL (tPD [(0x40, 8, 0x2B000), (0x48, 4, k + 144), (0x4C, 4, 3)]) 1
theorem met_list : (tSrc 1).desc.sourceWords = 6 ∧ tListed.readSource (tSrc 1) 6 [] = ([0, 1, 1, 0, 2, 0], none) ∧ (tSrc 1).desc.kind.getLsbD 4 = true ∧
    ((tSrc 1).desc.listSource [0, 1, 1, 0, 2, 0] false).cands.length = 1 ∧ ((tSrc 1).desc.listSource [0, 1, 1, 0, 2, 0] false).skipped = 2 ∧
    ((tPD [(0x48, 4, 146), (0x4C, 4, 2)]).listSource [0, 1, 7, 1, 1, 5] true).cands = [⟨0, 1, 7, 0⟩] := by decide +kernel
/-- A range map of 1 × 3 pixels of which two are kept; the cells' tables of one cell: whole, and with an entry that breaks the rule. -/
theorem met_range : (3 : Nat) = (((tPD [(0x48, 4, 131), (0x4C, 4, 2 * 4096 + 2 ^ 28)]).geo.extractLsb' 0 12).toNat + 1) * (((tPD [(0x48, 4, 131), (0x4C, 4, 2 * 4096 + 2 ^ 28)]).geo.extractLsb' 12 12).toNat + 1) ∧
    ((tPD [(0x48, 4, 131), (0x4C, 4, 2 * 4096 + 2 ^ 28)]).rangeSource [1, 3, 2]).cands.length = 2 ∧ ((tPD [(0x48, 4, 131), (0x4C, 4, 2 * 4096 + 2 ^ 28)]).rangeSource [1, 3, 2]).skipped = 1 := by
  decide +kernel
def tCells : PairLaunch := tPL (tPD [(0x40, 8, 0x2B000), (0x48, 4, 144), (0x4C, 4, 1 + 1024 + 1048576)]) 1
def tCellTab (n : Nat) : State := tPut 0x2B004 (tFields 4 [(0, 4, n)]) (tRun iNop)
theorem met_cells : tCells.desc.kind.extractLsb' 0 4 = 0#4 ∧ tCells.desc.kind.getLsbD 4 = true ∧ tCells.desc.src = 0x2B000 ∧
    [0, 1].all (fun k => match (tCellTab 2).thRead tCells fmtRaw 4 (0x2B000 + BitVec.ofNat 64 (4 * k)) 4 with | .ok _ => true | _ => false) = true ∧
    (tCellTab 2).readSource tCells 2 [] = ([0, 2], none) ∧ ((tCellTab 3).readSource tCells 2 []).2.isSome = true ∧ (tCells.desc.cellSource [0, 2]).cands.length = 4 := by decide +kernel
theorem met_stencil : 2 < ((tPD [(0x4C, 4, 3 + 1024 + 1048576)]).geo.extractLsb' 0 10).toNat * ((tPD [(0x4C, 4, 3 + 1024 + 1048576)]).geo.extractLsb' 10 10).toNat *
    ((tPD [(0x4C, 4, 3 + 1024 + 1048576)]).geo.extractLsb' 20 10).toNat := by decide +kernel
theorem met_all : 1 < (tPD []).countA ∧ 1 < (tPD []).countJ := by decide +kernel
def tTested (k : Nat) (pos : Nat := 0x2C000) : PairLaunch := tPL (tPD [(0x20, 8, pos), (0x30, 4, 0x3F800000), (0x48, 4, k), (0x50, 8, 0x2D000)]) 1
def tReads12 (s : State) (p : PairLaunch) (k : Nat) : Bool :=
  match s.thRead p fmtRawF32 4 (p.desc.posA + BitVec.ofNat 64 (16 * k)) 12 with | .ok bs => bs.length == 12 | _ => false
theorem met_judge : (match (tRun iNop).judge (tTested 20) ⟨0, 1, 0, 0⟩ with | .ok (.accepted _) => true | _ => false) = true ∧ (tTested 20).desc.kind.getLsbD 7 = false ∧
    (tTested 20).desc.posA ≠ 0 ∧ (tTested 20).desc.oneSet = true ∧ (tTested 20).desc.excl ≠ 0 ∧ tReads12 (tRun iNop) (tTested 20) 0 = true ∧ tReads12 (tRun iNop) (tTested 20) 1 = true ∧
    [0, 1].all (fun k => match (tRun iNop).thRead (tTested 20) fmtRaw 16 (0x2D000 + BitVec.ofNat 64 (16 * k)) 16 with | .ok _ => true | _ => false) = true ∧
    (match (tPut 0x2D000 [1] (tRun iNop)).judge (tTested 84) ⟨0, 1, 0, 0⟩ with | .ok .excluded => true | _ => false) = true := by decide +kernel
/-- Candidates that are rejected, that have no positions, and whose reads fail. -/
theorem met_judge_else : (match (tPut 0x2C000 [0, 0, 0x80, 0x40] (tRun iNop)).judge (tTested 20) ⟨0, 1, 0, 0⟩ with | .ok .rejected => true | _ => false) = true ∧
    (tTested 148 0).desc.posA = 0 ∧ (match (tPaged (tRun iNop)).judge (tTested 20 (tPage 5)) ⟨0, 1, 0, 0⟩ with | .error _ => true | _ => false) = true ∧
    (match (tPaged (tRun iNop)).exclClass (tTested 20 (tPage 5)) ⟨0, 1, 0, 0⟩ with | .ok l => !l | _ => false) = true ∧
    (match (tPaged (tRun iNop)).exclClass { tTested 20 with desc := { (tTested 20).desc with excl := BitVec.ofNat 64 (tPage 5) } } ⟨0, 1, 0, 0⟩ with | .error _ => true | _ => false) = true ∧
    (tPL (tPD []) 1).desc.excl = 0 := by decide +kernel
theorem met_items : ((itemsOf [.rejected, .accepted ⟨0, 0, 1, 0, 0, 0, 0, 0, 0⟩])[0]?).isSome = true := by decide +kernel

/-- PLAUNCH: a limit broken, bins that never fit, and one that is accepted; as many bins as a cluster has, and twice as many there. -/
noncomputable def iPlaunch : Instr := .plaunch (fA 8 4 0)
def tPlaunch (fs : List (Nat × Nat × Nat)) (i : Instr) : State := tPut 0x28000 (tPDesc fs) (tPair 0x28000 i)
def tPArea (s : State) (l : Lane) (e : Env) (q : State → PDesc → Bool) : Bool :=
  l == .thr ⟨1, 0, 0⟩ && decide (e.prot = 0) && (match (s.settle ⟨1, 0, 0⟩).access e.core e.ctx e.blk ⟨.rw, false, fmtRaw, false⟩ 64 (e.pair 4) 192 with
    | (s2, .ok (keys, _)) => (match s2.readBytes e (e.pair 4) (keys.take 128) with | (s3, .ok bs) => q s3 (PDesc.of bs) | _ => false)
    | _ => false)
def tFits (s3 : State) (e : Env) (d : PDesc) : Bool := (s3.mapClusters (coreCluster e.core) d.clusters).all (fun k => (s3.cluster k).healthy &&
  decide (binsAsked d (s3.mapClusters (coreCluster e.core) d.clusters) k ≤ Config.clusterBins))
def tSick (s : State) : State := { s with clusters := (List.range 255).map (fun k => (k + 1, { Cluster.new with healthy := false })) }
theorem met_plaunch_area : Lone (tPair 0x28020) iPlaunch (fun s _ _ _ _ e =>
    tErr ((s.settle ⟨1, 0, 0⟩).access e.core e.ctx e.blk ⟨.rw, false, fmtRaw, false⟩ 64 (e.pair 4) 192)) := alone_of (by decide +kernel)
theorem met_plaunch : Lone (tPlaunch [(0xC, 4, 8)]) iPlaunch (fun s _ _ _ l e => tPArea s l e (fun _ d => d.bad.isSome)) ∧
    Lone (tPlaunch [(8, 4, 65536)]) iPlaunch (fun s _ _ _ l e => tPArea s l e (fun s3 d => d.bad.isNone && tFits s3 e d)) ∧
    Lone (fun i => tSick (tPlaunch [(8, 4, 131072), (0x6C, 4, 2)] i)) iPlaunch (fun s _ _ _ l e => tPArea s l e (fun s3 d => d.bad.isNone && !tFits s3 e d)) :=
  ⟨alone_of (by decide +kernel), alone_of (by decide +kernel), alone_of (by decide +kernel)⟩
noncomputable def iPcancel : Instr := .pcancel (fA 3 4 0)
def tNumbered (st num : Nat) (i : Instr) : State := { tPair 5 i with pairs := [(9, { tPL (tPD []) st with num := num })] }
def tNamed (s : State) (e : Env) (q : Nat × PairLaunch) : Bool :=
  q.2.cluster == s.numCluster e.blk 1 5 && q.2.num == (e.pair 4).toNat && q.2.ctx == e.ctx && !q.2.begunDrain
theorem met_pcancel : Lone (tNumbered 4 5) iPcancel (fun s _ _ _ _ e => decide (e.prot = 0) && s.pairs.all (fun q => !tNamed s e q)) ∧
    Lone (tNumbered 2 5) iPcancel (fun s _ _ _ _ e => decide (e.prot = 0) && s.pairs.length == 1 && s.pairs.all (tNamed s e)) := ⟨alone_of (by decide +kernel), alone_of (by decide +kernel)⟩

/-- Instructions of a pair thread, whose record is 64 bytes: its last word, and one beyond; a bin that exists, one that does not, and 16 entries staged. -/
noncomputable def iPreci (o : Word) : Instr := .preci (fA 3 0xCF 0 o)
def tPairT (d : PDesc) (staged : Nat) (i : Instr) : State :=
  let s := tThread (tKind .pair i) (fun th => { th with staged := List.replicate staged ⟨2, 0, 0⟩ })
  { s with pairs := Tab.upd s.pairs 1 (fun p => { p with desc := d }) }
def tItem (s : State) (e : Env) (q : PairItem → PairLaunch → Bool) : Bool := match e.th.item, s.pair? (s.lidOf e.blk) with | some it, some p => q it p | _, _ => false
theorem met_pair_fields : Lone (tPairT (tPD []) 0) (.pdsq (fA 3 0 0)) (fun _ _ _ _ _ e => (itemRead (.pdsq (fA 3 0 0))).isSome && e.th.item.isSome) := alone_of (by decide +kernel)
def tRec (s : State) (e : Env) (o : Nat) : State × Except FInfo (List Nat × List DWord) := s.access e.core e.ctx e.blk tRead 4 (BitVec.ofNat 64 (0x2A000 + 4 * o)) 4
theorem met_records : Lone (tPairT (tPD []) 0) (iPreci 15) (fun s _ _ _ _ e => (recordRead (iPreci 15)).isSome && tItem s e (fun _ p => p.desc.recA == 0x2A000 && decide (4 * 15 + 4 ≤ p.desc.strideA)) &&
      (match tRec s e 15 with | (s1, .ok (keys, _)) => tOk (s1.readBytes e (0x2A000 + 60) keys) | _ => false)) ∧
    Lone (tPairT (tPD []) 0) (iPreci 16) (fun s _ _ _ _ e => tItem s e (fun _ p => decide (p.desc.strideA < 4 * 16 + 4))) ∧
    Lone (tPairT (tPD [(0, 8, 0xFFFFFFFF0000)]) 0) (iPreci 0) (fun s _ _ _ _ e => tItem s e (fun _ _ => true) && tErr (s.access e.core e.ctx e.blk tRead 4 0xFFFFFFFF0000 4)) :=
  ⟨alone_of (by decide +kernel), alone_of (by decide +kernel), alone_of (by decide +kernel)⟩
noncomputable def iPcon (b : BitVec 8) : Instr := .pconOpp (fA 0 4 b)
theorem met_stages : Lone (tPairT (tPD []) 15) (iPcon 0xD0) (fun s _ _ _ _ e => (stages (iPcon 0xD0)).isSome && tItem s e (fun _ p => p.desc.kind.getLsbD 4) && decide (e.th.staged.length < 16)) ∧
    Lone (tPairT (tPD []) 16) (iPcon 0xD0) (fun _ _ _ _ _ e => decide (16 ≤ e.th.staged.length)) ∧
    Lone (tPairT (tPD []) 0) (iPcon 0xD1) (fun s _ _ _ _ e => tItem s e (fun _ p => decide ((p.desc.kind.extractLsb' 8 4).toNat + 1 ≤ (e.val 0xD1 0).toNat))) ∧
    Lone (tPairT (tPD [(0x48, 4, 132)]) 0) (iPcon 0xD0) (fun s _ _ _ _ e => tItem s e (fun _ p => !p.desc.kind.getLsbD 12 && !p.desc.kind.getLsbD 4)) ∧
    Lone (tPairT (tPD []) 3) (.pdrop (fA 0 0 0)) (fun _ _ _ _ _ _ => true) :=
  ⟨alone_of (by decide +kernel), alone_of (by decide +kernel), alone_of (by decide +kernel), alone_of (by decide +kernel), alone_of (by decide +kernel)⟩

/-- Launch 9 in a state, with fields changed, beside others. -/
def tPS (p : PairLaunch) (others : List (Nat × PairLaunch)) : State := { tLaunched id (tRun iNop) with pairs := others ++ [(9, p)], launches := [(9, { tLaunch1 with count := 1 })] }
def tMay (p : PairLaunch) (others : List (Nat × PairLaunch)) (q : State → Bool) : Bool := !(tPS p others).pairCancelled 9 p && q (tPS p others)
/-- What TestedOn asks of a launch: its clusters mapped to distinct ones, nothing failed and nothing to post. -/
def tTestable (s : State) (p : PairLaunch) : Bool := p.accFaults.isEmpty && p.phys.length == p.desc.clusters && decide p.phys.Nodup && s.ctxs.all (fun c => c.2.waiting.isEmpty)
theorem met_start : tMay (tPL (tPD []) 0) [] (fun s => tTestable s (tPL (tPD []) 0) && !s.thPosting 0 && s.pairs.all (fun q => decide (9 ≤ q.1)) && (s.cluster 0).healthy &&
      decide ((tPL (tPD []) 0).phys = [0]) && decide (s.binsHeld 0 + binsAsked (tPD []) [0] 0 ≤ Config.clusterBins)) = true ∧
    tMay (tPL (tPD []) 0) [(8, tPL (tPD []) 0)] (fun s => s.pairs.any (fun q => decide (q.1 < 9) && q.2.state == 0 && !s.pairCancelled q.1 q.2)) = true ∧
    tMay (tPL (tPD []) 0) [(8, tPL (tPD [(8, 4, 65535)]) 2)] (fun s => decide (Config.clusterBins < s.binsHeld 0 + binsAsked (tPD []) [0] 0)) = true ∧
    (tPS { tPL (tPD []) 0 with cancelled := true } []).pairCancelled 9 { tPL (tPD []) 0 with cancelled := true } = true ∧ { tPL (tPD []) 0 with accFaults := [0] }.accFaults ≠ [] ∧
    tMay { tPL (tPD []) 1 with tested := true } [] (fun s => !(tPD []).kind.getLsbD 5 && !s.thPosting 0) = true ∧ (tPL (tPD []) 1).tested = false := by decide +kernel
theorem met_tested : tTestable (tPS (tPL (tPD []) 1) []) (tPL (tPD []) 1) = true ∧ (match (tPS (tPL (tPD []) 1) []).readSource (tPL (tPD []) 1) 0 [] with | (_, f) => f.isNone) = true ∧
    (((tPaged (tPS (tSrc 1) [])).readSource { tSrc 1 with desc := { (tSrc 1).desc with src := BitVec.ofNat 64 (tPage 5) } } 6 []).2.isSome) = true := by decide +kernel
/-- An emitting launch of two pairs whose list has room for one, before and after its testing. -/
def tEmit (st : Nat) : PairLaunch := { tPL (tPD [(0x48, 4, 148 + 32), (0x60, 8, 1)]) st with items := tItems, tested := true }
theorem met_emit : (tEmit 2).share 0 = tItems ∧ (tEmit 2).desc.outB.extractLsb' 0 32 = 1 ∧ (tEmit 2).desc.kind.getLsbD 5 = true ∧
    (match emitOne (tEmit 2) 0 (tPS (tEmit 2) []) 0, (tPS (tEmit 2) []).engAccess 0 1 ⟨.write, false, fmtRaw, true⟩ 4 0x29000 12 with
      | .ok _, .ok [(_, n, pte)] => n == 12 && pteLoc pte != 3
      | _, _ => false) = true ∧ (tPS (tEmit 1) []).pairCancelled 9 (tEmit 1) = false ∧ (tEmit 1).accFaults = [] := by decide +kernel
def tRunning : PairLaunch := { tPL (tPD []) 2 with items := tItems }
def tDone : PairLaunch := { tRunning with nextItem := [(0, 2)] }
theorem met_batch : tMay tRunning [] (fun s => decide (0 < (tPD []).clusters) && s.dieOpen (coreDie 3) && (s.cluster 0).healthy && decide (3 / 4 = tRunning.phys.getD 0 0) &&
      decide (4 / 4 ≠ tRunning.phys.getD 0 0) && !(((tRunning.share 0).drop (Tab.get 0 tRunning.nextItem 0)).take 32).isEmpty && (s.coreFits 3 1 0).isSome) = true ∧
    (((tDone.share 0).drop (Tab.get 0 tDone.nextItem 0)).take 32).isEmpty = true := by decide +kernel
def tApply : PairLaunch := { tRunning with apply := [(⟨0, 0, 1, 0, 0, 0, 0, 0, 0⟩, [⟨1, 0x3F800000, 0⟩, ⟨0, 0x40000000, 0⟩])] }
theorem met_apply : tApply.apply.all (fun a => a.2.all (fun x => decide (x.form < 4))) = true ∧ (tPS tApply []).poison = [] ∧ (tPS tApply []).binsPosting 9 = false ∧
    (tCtx (tPS tApply []) (fun c => { c with waiting := [⟨⟨0x15, 0, 2, 0, 0, 9, 0, 0, 0⟩, .bins 9⟩] })).binsPosting 9 = true := by decide +kernel
/-- Drains: a bin with a value, a full one, one with an error. -/
def tBin2 (b : BinBits) : PairLaunch := { tDone with state := 4, bins := [(0, b)] }
def tDrain (b : BinBits) (bad : Bool) : Bool :=
  let s := { tPS (tBin2 b) [] with poison := if bad then [2 * (binKey 9 0 / 8)] else [] }
  (match drainOne 9 (tBin2 b) 0 s 0 with | .ok _ => true | _ => false) && s.memBad [binKey 9 0] == bad &&
    (match s.engAccess 0 1 ⟨.write, false, fmtRawF32, true⟩ 4 0x29000 4 with | .ok [(_, n, pte)] => n == 4 && pteLoc pte != 3 | _ => false)
theorem met_drain : tDrain 5 false = true ∧ tDrain (BitVec.ofNat 128 (2 ^ 104)) false = true ∧ tDrain (BitVec.ofNat 128 (2 ^ 123)) false = true ∧ tDrain 5 true = true ∧
    (BitVec.ofNat 128 (2 ^ 104) : BinBits).extractLsb' 120 3 = 0 := by decide +kernel
theorem met_drain_stays : { tDone with running := [0] }.running ≠ [] ∧ { tDone with failed := [1] }.failed ≠ [] ∧ ({ tDone with again := [1] }.again ≠ [] ∧ tDone.desc.kind.getLsbD 5 = false) := by
  decide +kernel
def tFailed : PairLaunch := { tDone with failed := [1] }
theorem met_suspend : tMay tFailed [] (fun s => s.pairQuiet 9 tFailed && decide (Tab.get 0 tFailed.nextItem 0 = (tFailed.share 0).length)) = true ∧ tFailed.desc.clusters = 1 ∧
    tFailed.accFaults = [] ∧ tFailed.again = [] := by decide +kernel
def tDrained : PairLaunch := { tDone with state := 4, pos := [(0, 2)] }
def tCancelled : PairLaunch := { tDone with cancelled := true }
theorem met_ends : (tPS tDrained []).thPosting 0 = false ∧ tDrained.accFaults = [] ∧ tFailed.failed ≠ [] ∧ (tPS { tPL (tPD []) 1 with accFaults := [0] } []).pairQuiet 9 { tPL (tPD []) 1 with accFaults := [0] } = true ∧
    ((tPS { tRunning with state := 3, accFaults := [0] } []).pair? 9).any (fun p => p.state == 3 && p.accFaults != []) = true ∧
    (match (tPS { tRunning with state := 3, accFaults := [0] } []).writeStatus { tRunning with state := 3, accFaults := [0], killed := true } 6 false 2 with | .ok _ => true | _ => false) = true := by
  decide +kernel
theorem met_complete : Tab.get 0 tDrained.pos 0 = tDrained.desc.drainSize 0 ∧ (match (tPS tDrained []).writeStatus tDrained 5 false 0 with | .ok _ => true | _ => false) = true ∧
    (tPS tCancelled []).pairCancelled 9 tCancelled = true ∧ tCancelled.begunDrain = false ∧ (tPS tCancelled []).pairQuiet 9 tCancelled = true ∧
    (match (tPS tCancelled []).writeStatus tCancelled 6 true 2 with | .ok _ => true | _ => false) = true := by decide +kernel
theorem met_pair_end : (Tab.find (tPS tDrained []).launches 9).isSome = true ∧ (Tab.find (tPS tDrained []).ctxs 0).any (fun c => c.phase.isNone) = true ∧
    ((tPS { tDrained with num := 1 } []).cluster 0 |>.tl 1).done + 1 = 1 ∧ ((tPS { tFailed with state := 3 } []).pair? 9).any (fun p => p.state == 3) = true := by decide +kernel

/-! ## Hypotheses met: the Granary -/

/-- Descriptors of PKQ and PKG; QDIM whose tables outgrow a unit by the least, and just fit. -/
def tGDesc (fs : List (Nat × Nat × Nat)) : List Byte := tFields 64 ([(0x18, 8, 0x28000), (0x30, 2, 32), (0x32, 2, 32), (0x34, 2, 4), (0x36, 1, 1), (0x37, 1, 1)] ++ fs)
def tGD (fs : List (Nat × Nat × Nat)) : GDesc := GDesc.of (tGDesc fs)
def tPkg : List (Nat × Nat × Nat) := [(0x28, 8, 0x28008), (0x32, 2, 0)]
theorem met_granary : (tGD []).bad false 0 = none ∧ (tGD tPkg).bad true 0 = none ∧ (tGD [(0, 8, 1)]).qaddr.toNat % 2 = 1 ∧
    (let d := tGD [(0x32, 2, 512), (0x34, 2, 8192), (0x37, 1, 1)]
     2 * d.h * d.c * d.qdim = 8388608 ∧ d.bad false 0 = none) ∧
    (let d := tGD [(0x32, 2, 544), (0x34, 2, 8192), (0x37, 1, 1)]
     8388608 < 2 * d.h * d.c * d.qdim ∧ { d with h := 1, c := 4, k := 1, qdim := 32 }.bad false 0 = none ∧ d.k ≤ d.c ∧ d.qdim % 32 = 0) := by decide +kernel
theorem met_units : (0 : Nat) < 64 ∧ (31 : Nat) / 32 = 0 ∧ (63 : Nat) / 32 = 1 := by decide
noncomputable def iPkq : Instr := .pkq (fA 8 4 0)
def tGran (n : Nat) (busy : Bool) (va : Nat) (fs : List (Nat × Nat × Nat)) (i : Instr) : State :=
  let o : GranOp := ⟨1, 0, 0, ⟨1, 0, 0⟩, false, tGD []⟩
  let s := tPut 0x28000 (tGDesc fs) (tPair va i)
  { s with grans := [(0, ⟨List.replicate n o, if busy then some (o, ⟨[], [], false, none⟩) else none, []⟩)] }
def tGranAt (s : State) (e : Env) (q : State → List Byte → Bool) : Bool :=
  decide (e.prot = 0) && (match (s.settle ⟨1, 0, 0⟩).access e.core e.ctx e.blk tRead 64 (e.pair 4) 64 with
    | (s1, .ok (keys, _)) => (match s1.readBytes e (e.pair 4) keys with | (s2, .ok bs) => q s2 bs | _ => false)
    | _ => false)
def tGRoom (s : State) (e : Env) : Bool := let g := Tab.get GranUnit.new s.grans (granUnitOf (coreCluster e.core)); decide (g.queue.length < if g.run = none then 17 else 16)
theorem met_pkq : Lone (tGran 0 false 0x28020 []) iPkq (fun s _ _ _ _ e => (granaryOf iPkq).isSome && tErr ((s.settle ⟨1, 0, 0⟩).access e.core e.ctx e.blk tRead 64 (e.pair 4) 64)) ∧
    Lone (tGran 0 false 0x28000 [(0, 8, 1)]) iPkq (fun s _ _ _ _ e => tGranAt s e (fun _ bs => ((GDesc.of bs).bad false (field bs 0x3E 2)).isSome)) ∧
    Lone (tGran 16 false 0x28000 []) iPkq (fun s _ _ _ l e => l == .thr ⟨1, 0, 0⟩ && tGranAt s e (fun s2 bs => ((GDesc.of bs).bad false (field bs 0x3E 2)).isNone && tGRoom s2 e)) ∧
    Lone (tGran 16 true 0x28000 []) iPkq (fun s _ _ _ l e => l == .thr ⟨1, 0, 0⟩ && tGranAt s e (fun s2 bs => ((GDesc.of bs).bad false (field bs 0x3E 2)).isNone && !tGRoom s2 e)) :=
  ⟨alone_of (by decide +kernel), alone_of (by decide +kernel), alone_of (by decide +kernel), alone_of (by decide +kernel)⟩
theorem met_pkstat : Lone (tPair 0) (.pkstat (fA 3 4 0)) (fun _ _ _ _ _ e => decide ((e.pair 4).toNat = 0)) := alone_of (by decide +kernel)
/-- Units: with an operation to serve, idle, and done with a failure, with writes, and with a sum. -/
def tServing (r : GranResult) : State := { tRun iNop with grans := [(0, ⟨[], some (⟨1, 0, 0, ⟨1, 0, 0⟩, false, tGD []⟩, r), []⟩)] }
def tServed2 (r : GranResult) : Bool := ((tServing r).granUnheld ⟨1, 0, 0, ⟨1, 0, 0⟩, false, tGD []⟩ r).isNone && (Tab.find (tServing r).ctxs 0).any (fun c => c.phase.isNone)
theorem met_unit : (Tab.get GranUnit.new (tGran 1 false 0 [] iNop).grans 0).queue.length = 1 ∧ (Tab.get GranUnit.new (tGran 1 false 0 [] iNop).grans 0).run.isNone = true ∧
    (tGran 1 false 0 [] iNop).enginePosting 0 3 = false ∧ (Tab.get GranUnit.new (tGran 1 true 0 [] iNop).grans 0).run.isSome = true := by decide +kernel
theorem met_unit_done : tServed2 ⟨[], [], false, some (0x10, none, false)⟩ = true ∧ tServed2 ⟨[(0x28000, 0x28000, 0x2007, [1, 2])], [], false, none⟩ = true ∧
    tServed2 ⟨[], [(0x28000, 0x28000, 0, 0x3F800000, 0x40000000)], false, none⟩ = true ∧ pteLoc 0x2007 ≠ 3 := by decide +kernel

/-! ## Hypotheses met: tile programs and matrix units -/

/-- FORK: an entry with a low bit, room for one more, none. -/
noncomputable def iFork : Instr := .fork (fA 8 4 9)
def tTileReq (n : Nat) : TileReq := ⟨n, ⟨1, 0, 0⟩, 0x20000, 5⟩
def tForks (n va : Nat) (i : Instr) : State := (tPair va i).updCluster 0 (fun c => { c with tileQ := List.replicate n (tTileReq 1) })
def tForkAt (s : State) (e : Env) (q : Nat → Bool) : Bool := q ((s.settle ⟨1, 0, 0⟩).cluster (coreCluster e.core)).tileQ.length
theorem met_fork : Lone (tForks 0 0x20002) iFork (fun _ _ _ _ l e => l == .thr ⟨1, 0, 0⟩ && decide (e.prot = 0) && decide ((e.pair 4).toNat % 4 ≠ 0)) ∧
    Lone (tForks 7 0x20004) iFork (fun s _ _ _ l e => l == .thr ⟨1, 0, 0⟩ && tForkAt s e (fun n => decide (n < 8))) ∧
    Lone (tForks 8 0x20004) iFork (fun s _ _ _ l e => l == .thr ⟨1, 0, 0⟩ && tForkAt s e (fun n => decide (8 ≤ n))) :=
  ⟨alone_of (by decide +kernel), alone_of (by decide +kernel), alone_of (by decide +kernel)⟩
/-- RDV: 5 programs issued; number 0, number 6, number 5 ended and queued, and number 5 of 261 issued. -/
noncomputable def iRdv : Instr := .rdv (fA 8 4 0)
def tForked (n issued st : Nat) (i : Instr) : State := (tPair n i).updCluster 0 (fun c => { c with tls := c.tls.set 2 ⟨issued, 0, []⟩, tileStat := [(n, ⟨st, 0, false⟩)] })
def tNum2 (s : State) (e : Env) (q : Cluster → Nat → Stat → Bool) : Bool :=
  let n := (e.pair 4).toNat
  let k := s.cluster (s.numCluster e.blk 2 n)
  k.tile.isNone && q k n (Tab.get ⟨0, 0, false⟩ k.tileStat n)
theorem met_rdv : Lone (tForked 0 5 0) iRdv (fun s _ _ _ _ e => tNum2 s e (fun _ n _ => n == 0)) ∧
    Lone (tForked 6 5 0) iRdv (fun s _ _ _ _ e => tNum2 s e (fun k n _ => decide ((k.tl 2).issued < n))) ∧
    Lone (tForked 5 5 2) iRdv (fun s _ _ _ _ e => tNum2 s e (fun k n st => n != 0 && decide (n ≤ (k.tl 2).issued) && decide (2 ≤ st.state ∧ st.state < 4))) ∧
    Lone (tForked 5 261 0) iRdv (fun s _ _ _ _ e => tNum2 s e (fun k n _ => decide (n + 256 ≤ (k.tl 2).issued))) ∧
    Lone (tForked 5 260 1) iRdv (fun s _ _ _ _ e => tNum2 s e (fun k n st => decide (n ≤ (k.tl 2).issued) && decide (st.state < 2) && decide ((k.tl 2).issued < n + 256))) ∧
    Lone (tForked 5 5 0) (.forkstat (fA 3 4 0)) (fun s _ _ _ _ e => tNum2 s e (fun _ _ st => decide (st.state < 4 ∧ st.cause < 64))) :=
  ⟨alone_of (by decide +kernel), alone_of (by decide +kernel), alone_of (by decide +kernel), alone_of (by decide +kernel), alone_of (by decide +kernel), alone_of (by decide +kernel)⟩
/-- Sequencers: idle with a program queued, running one, with an operation left on a unit; a program that has exited. -/
def tMatQ (q : List (MatOp × Nat × Nat × Nat)) (s : State) : State := s.updMat 0 (fun u => { u with queue := q })
def tSeqr (q : List TileReq) (run : Option Bool) : State :=
  (tRun iNop).updCluster 0 (fun k => { k with tileQ := q, tile := run.map (fun e => ⟨1, ⟨1, 0, 0⟩, Thread.new 0x20000, e, false⟩), tls := k.tls.set 2 ⟨1, 0, []⟩ })
theorem met_tile_start : ((tSeqr [] none).cluster 0).tileQ = [] ∧ ((tSeqr [] (some false)).cluster 0).tile ≠ none ∧ ((tMatQ [(.mzero 0, 0, 1, 0)] (tSeqr [] none)).mat 0).queue ≠ [] ∧
    (((tSeqr [tTileReq 1] none).cluster 0).tileQ = [tTileReq 1] ∧ ((tSeqr [tTileReq 1] none).cluster 0).tile = none ∧ (tSeqr [tTileReq 1] none).mats = [] ∧
      ((tSeqr [tTileReq 1] none).block? 1).isSome = true) := by decide +kernel
theorem met_tile_end : ((tSeqr [] (some true)).cluster 0).tile.any (fun r => r.ended && r.num == 1) = true ∧ (tSeqr [] (some true)).mats = [] ∧
    (((tSeqr [] (some true)).cluster 0).tl 2).issued < 1 + 256 ∧ (tSeqr [] (some true)).ctxs.all (fun p => p.2.phase.isNone) = true ∧
    (((tSeqr [] (some true)).cluster 0).tl 2).done + 1 = 1 ∧ (tMatQ [(.mzero 0, 0, 1, 0)] (tSeqr [] (some true))).matBusy 0 1 = true ∧
    ((tSeqr [] (some false)).cluster 0).tile.any (fun r => !r.ended) = true := by decide +kernel

/-- MAT words: with values in k4 to k7; a full queue; a bad operand. -/
def tK (vs : List Word) (i : Instr) : State :=
  (tTile i).updTile 0 (fun r => { r with th := (vs.zipIdx).foldl (fun th v => { th with w := th.w.setIfInBounds (4 + v.2) v.1 }) r.th })
def tFull17 (i : Instr) : State := tMatQ (List.replicate 17 (.mzero 0, 0, 1, 0)) (tTile i)
def tAsks (s : State) (i : Instr) (l : Lane) (e : Env) (q : Option (MatOp × List RegVal) → Bool) : Bool :=
  match matAsks i with
  | some (f, ask) => l == .tile 0 && (s.cluster 0).tile.isSome && (match ask s e (unitOf e f.d) (s.mat (unitOf e f.d)) with | .ok x => q (some x) | .error _ => q none)
  | none => false
def tUnit (s : State) (e : Env) (d : BitVec 7) : Nat := (s.mat (unitOf e d)).queue.length
/-- Two bf16 operands of 32 rows of 64 bytes in the region. -/
def tSpec : List Word := [0x00400000, 0x01000000, 0x00400800, 0x01000000]
theorem met_mat_ok : Lone tTile (.mzero (fA 0 0 0)) (fun s _ _ _ l e => tAsks s (.mzero (fA 0 0 0)) l e Option.isSome && decide (tUnit s e 0 < 17)) ∧
    Lone (tK tSpec) (.mma (fA 0 4 6)) (fun s _ _ _ l e => tAsks s (.mma (fA 0 4 6)) l e Option.isSome) ∧
    Lone (tK [0x00800000, 0]) (.mdrainh (fA 8 4 0)) (fun s _ _ _ l e => tAsks s (.mdrainh (fA 8 4 0)) l e (fun _ => true)) :=
  ⟨alone_of (by decide +kernel), alone_of (by decide +kernel), alone_of (by decide +kernel)⟩
theorem met_mat_bad : Lone tTile (.mwin (fA 0 0xCF 0 41)) (fun s _ _ _ l e => tAsks s (.mwin (fA 0 0xCF 0 41)) l e Option.isNone) ∧
    Lone tTile (.mwin (fA 0 0xCF 0 40)) (fun s _ _ _ l e => tAsks s (.mwin (fA 0 0xCF 0 40)) l e Option.isSome) ∧
    Lone tFull17 (.mzero (fA 0 0 0)) (fun s _ _ _ l e => tAsks s (.mzero (fA 0 0 0)) l e Option.isSome && decide (17 ≤ tUnit s e 0)) :=
  ⟨alone_of (by decide +kernel), alone_of (by decide +kernel), alone_of (by decide +kernel)⟩

/-- Operands at the limits: formats 1, 2, 11 and 12; a base off its granule; a region that holds the last row and one that does not. -/
def tSp (fmt base : Nat) (rot : Nat := 0) : DWord := BitVec.ofNat 64 (fmt * 2 ^ 55 + rot * 2 ^ 52 + 4 * 2 ^ 20 + base)
def tWarps : Nat := ((tTile iNop).block? 1).elim 0 (fun b => b.warps.length)
theorem met_scr_operand : ((tSp 1 0).extractLsb' 55 4).toNat < 2 ∧ 11 < ((tSp 12 0).extractLsb' 55 4).toNat ∧ Machine.matRow ((tSp 11 0 1).extractLsb' 55 4).toNat % 16 ≠ 0 ∧
    (tSp 11 0 1).extractLsb' 52 3 ≠ 0 ∧ ((tSp 2 1).extractLsb' 0 20).toNat % 2 ≠ 0 ∧ ((tSp 11 4).extractLsb' 0 20).toNat % 4 = 0 ∧ (tSp 2 0).extractLsb' 59 5 = 0 := by decide +kernel
theorem met_reg_operand : tWarps = 1 ∧ tWarps ≤ ((1 : Word).extractLsb' 0 3).toNat ∧ ((0x400 : Word).extractLsb' 8 7).toNat % 8 ≠ 0 ∧
    ((tTile iNop).block? 1).any (fun b => decide (b.regs < ((0x7800 : Word).extractLsb' 8 7).toNat + 16) && decide (((0x7000 : Word).extractLsb' 8 7).toNat + 16 ≤ b.regs)) = true := by decide +kernel
theorem met_drain_operand : (tSp 1 0).extractLsb' 55 4 ≠ 0 ∧ ((tSp 0 2).extractLsb' 0 20).toNat % 4 ≠ 0 ∧ (tSp 0 2).extractLsb' 59 5 = 0 ∧ (tSp 0 2).extractLsb' 55 4 = 0 ∧
    (tSp 0 2).extractLsb' 32 20 = 0 ∧ (0x100000 : DWord).extractLsb' 20 44 ≠ 0 ∧ ((8 : DWord).extractLsb' 20 44 = 0 ∧ ((8 : DWord).extractLsb' 0 20).toNat % 16 ≠ 0) := by decide +kernel

theorem met_medge : Lone (tK [0, 0xFFFFFFE0]) (.medge (fA 0 0xCF 5 0x202020)) (fun _ _ _ _ _ e => e.a (fA 0 0xCF 5 0x202020) == 0x202020 && decide ((e.b (fA 0 0xCF 5 0x202020)).toInt = -32)) ∧
    Lone (tK [0, 33]) (.medge (fA 0 0xCF 5 0x202020)) (fun _ _ _ _ _ e => decide (32 < (e.b (fA 0 0xCF 5 0x202020)).toInt)) ∧
    Lone (tK [0, 0]) (.medge (fA 0 0xCF 5 0x202100)) (fun _ _ _ _ _ e => decide (((e.a (fA 0 0xCF 5 0x202100)).extractLsb' 0 6).toNat < 1)) ∧
    Lone tTile (.mfmt (fA 0 0xD4 0)) (fun _ _ _ _ _ e => decide ((e.a (fA 0 0xD4 0)).toNat ≤ 4)) ∧ Lone tTile (.mfmt (fA 0 0xD5 0)) (fun _ _ _ _ _ e => decide (4 < (e.a (fA 0 0xD5 0)).toNat)) :=
  ⟨alone_of (by decide +kernel), alone_of (by decide +kernel), alone_of (by decide +kernel), alone_of (by decide +kernel), alone_of (by decide +kernel)⟩

/-- Barrier objects of a tile program: in the last 8 bytes of the region, beyond it, misaligned; full; an operation left. -/
def tObjAt (off : Nat) (lo : Word) (busy : Bool) (i : Instr) : State :=
  (if busy then tMatQ [(.mzero 0, 0, 1, 0)] else id) ((tK [BitVec.ofNat 32 off, 1] i).scrWrite (atKeys off (leBytes 4 lo.toNat)))
def tBarIn (s : State) (l : Lane) (e : Env) (n : Nat) : Bool := l == .tile 0 && (s.cluster 0).tile.any (fun r => r.num == 1) && (s.block? e.blk).any (fun b => b.twin.isNone) &&
  (e.a (fA 0 4 5)).toNat == n && decide (e.scrBase ≤ n ∧ n + 8 ≤ e.scrBase + e.scrSize) && s.poison.isEmpty
def tObjOf (s : State) (e : Env) (off : Nat) : BarObj := barOf (s.scrWord (unitOf e 0) off) (s.scrWord (unitOf e 0) (off + 4))
theorem met_msync : Lone (tObjAt 0 0 true) (.msync (fA 0 0 0)) (fun s _ _ _ _ _ => s.matBusy 0 1) ∧ Lone (tObjAt 0 0 false) (.msync (fA 0 0 0)) (fun s _ _ _ _ _ => !s.matBusy 0 1) :=
  ⟨alone_of (by decide +kernel), alone_of (by decide +kernel)⟩
theorem met_mbar : Lone (tObjAt 4088 1 true) (.mbar (fA 0 4 0)) (fun s _ _ _ l e => tBarIn s l e 4088 && s.matBusy 0 1) ∧
    Lone (tObjAt 4088 1 false) (.mbar (fA 0 4 0)) (fun s _ _ _ l e => tBarIn s l e 4088 && !s.matBusy 0 1 && ((tObjOf s e 4088).arrive .arrive).isSome) ∧
    Lone (tObjAt 4088 0 false) (.mbar (fA 0 4 0)) (fun s _ _ _ l e => tBarIn s l e 4088 && !s.matBusy 0 1 && ((tObjOf s e 4088).arrive .arrive).isNone) ∧
    Lone (tObjAt 4084 1 false) (.mbar (fA 0 4 0)) (fun _ _ _ _ _ e => decide ((e.a (fA 0 4 5)).toNat % 8 ≠ 0)) ∧
    Lone (tObjAt 4096 1 false) (.mbar (fA 0 4 0)) (fun _ _ _ _ _ e => (e.a (fA 0 4 5)).toNat == 4096 && decide (e.scrBase + e.scrSize < 4096 + 8)) :=
  ⟨alone_of (by decide +kernel), alone_of (by decide +kernel), alone_of (by decide +kernel), alone_of (by decide +kernel), alone_of (by decide +kernel)⟩
theorem met_mwaitb : Lone (tObjAt 4088 1 false) (.mwaitb (fA 0 4 5)) (fun s _ _ _ l e => tBarIn s l e 4088 && (tObjOf s e 4088).ph != (e.b (fA 0 4 5)).getLsbD 0) ∧
    Lone (tObjAt 4088 1 false) (.mwaitb (fA 0 4 4)) (fun s _ _ _ _ e => (tObjOf s e 4088).ph == (e.b (fA 0 4 4)).getLsbD 0) := ⟨alone_of (by decide +kernel), alone_of (by decide +kernel)⟩

/-- A unit with an operation of each kind at its front. -/
def tUnitOps : List MatOp := [.mwin 0 5, .mzero 7, .mma true 1 (.scr 0 (tSp 2 0)) (.reg 1 0 0) MatCfg.new, .drain 2 0 (tSp 0 0) MatCfg.new, .msave 0 0, .mrst 0 0]
def tOps (x : MatOp) : State := tMatQ [(x, 0, 1, 0)] (tTile iNop)
theorem met_unit_ops : tUnitOps.all (fun x => (tOps x).poison.isEmpty && ((tOps x).cluster 0).tile.isSome && ((tOps x).mat 0).queue == [(x, 0, 1, 0)] &&
    (match ((tOps x).cluster 0).tile with | some r => ((tOps x).block? r.t.blk).any (fun b => b.twin.isNone) | none => false)) = true ∧ ((tTile iNop).mat 0).queue = [] ∧
    (0 : Int) ≤ 40 ∧ ((BitVec.ofNat 32 (leVal ((tOps (.mrst 0 0)).scr.bytes 16384 4)) : Word).toInt = 0) := by decide +kernel

/-! ## Hypotheses met: the copy engine -/

/-- Commands of one row of 16 bytes: from memory to memory, from a page that is not there, to scratchpad, and all-or-nothing on even and on odd versions. -/
def tCmd (src dst : Nat) (w3 : Nat) : CopyCmd := ⟨1, 0, 0, ⟨1, 0, 0⟩, BitVec.ofNat 64 src, BitVec.ofNat 64 dst, 0x10010, BitVec.ofNat 64 w3, none⟩
def tCopy (k : CopyCmd) : State := (tPut 0x2A000 [1, 2, 3] (tPaged (tRun iNop))).updCluster 0 (fun c => { c with ceQ := [k], tls := c.tls.set 0 ⟨1, 0, []⟩ })
def tCopyOk (k : CopyCmd) (q : State → Bool) : Bool := ((tCopy k).cluster 0).ceRun.isNone && !(tCopy k).enginePosting 0 0 && (k.w2.extractLsb' 16 16).toNat == 1 && q (tCopy k)
def tScrAt (a : Nat) : Nat := 2 ^ 56 + a
theorem met_copy : tCopyOk (tCmd (tPage 5) 0x2B000 0) (fun s => match s.copySrc (tCmd (tPage 5) 0x2B000 0) 0 with | .error _ => true | _ => false) = true ∧
    tCopyOk (tCmd 0x2A000 0x2B000 0) (fun s => match s.copySrc (tCmd 0x2A000 0x2B000 0) 0, s.engAccess 0 1 (copyWant (tCmd 0x2A000 0x2B000 0)) 1 0x2B000 16 with
      | .ok bs, .ok [(_, n, pte)] => bs.length == n && pteLoc pte != 3
      | _, _ => false) = true ∧
    tCopyOk (tCmd 0x2A000 (tScrAt 64) 0) (fun s => (match s.copySrc (tCmd 0x2A000 (tScrAt 64) 0) 0 with | .ok _ => true | _ => false) && tBlk s (fun b => b.twin.isNone)) = true ∧
    tCopyOk (tCmd (tScrAt 64) 0x2B000 0) (fun s => !s.scrBad ((List.range 16).map (fun i => 64 + i)) && tBlk s (fun b => b.twin.isNone)) = true := by decide +kernel
def tVersion (v : Nat) (k : CopyCmd) : State := tPut 0x2AFF0 (leBytes 8 v) (tCopy k)
def tAon : CopyCmd := tCmd 0x2A000 0x2B000 4
def tVchk : CopyCmd := tCmd 0x2A000 0x2B000 8
/-- A command in a stage, over a source tile whose version is `v` and a destination tile whose version is 0. -/
def tSrcVer (v : Nat) (k : CopyCmd) : State := tPut 0x29FF0 (leBytes 8 v) (tCopy k)
def tAtStage (v : Nat) (k : CopyCmd) (st : CopyStage) : State   := (tSrcVer v k).updCluster 0 (fun c => { c with ceQ := [], ceRun := some (k, st) })
def tHdrOk (s : State) (k : CopyCmd) (how : Access) (va : Nat) (q : Nat → Bool) : Bool := match s.tileHdr k how va with | .ok key => q key | .error _ => false
def tWritable (s : State) (k : CopyCmd) (va : Nat) : Bool := match s.engAccess k.ctx 1 ⟨.write, false, fmtCopy, true⟩ 1 (BitVec.ofNat 64 va) 16 with | .ok _ => true | _ => false
theorem met_copy_aon : tHdrOk (tSrcVer 3 tVchk) tVchk .read 0x2A000 (fun key => ((tSrcVer 3 tVchk).version 1 key).getLsbD 0) = true ∧
    tHdrOk (tSrcVer 2 tVchk) tVchk .read 0x2A000 (fun key => !((tSrcVer 2 tVchk).version 1 key).getLsbD 0) = true ∧
    tHdrOk (tVersion 2 tAon) tAon .rw 0x2B000 (fun key => !((tVersion 2 tAon).version 1 key).getLsbD 0) = true ∧ tWritable (tVersion 2 tAon) tAon 0x2B000 = true ∧
    (match (tVersion 2 tAon).copySrc tAon 0 with | .ok _ => true | _ => false) = true ∧ tAon.w3.getLsbD 2 = true ∧ tAon.w3.getLsbD 3 = false ∧ tVchk.w3.getLsbD 3 = true := by decide +kernel
/-- Headers that fail, a destination that does, and an odd destination version. -/
theorem met_copy_headers : tHdrOk (tVersion 2 tVchk) tVchk .read (tPage 5) (fun _ => true) = false ∧ tHdrOk (tVersion 2 tAon) tAon .rw (tPage 5) (fun _ => true) = false ∧
    tWritable (tVersion 2 tAon) tAon 0x200D0000 = false ∧ tHdrOk (tVersion 3 tAon) tAon .rw 0x2B000 (fun key => ((tVersion 3 tAon).version 1 key).getLsbD 0) = true := by decide +kernel
/-- What the checks of an all-or-nothing command keep: its header, and the parts of its one row, none of them another device's and none with a store to come before. -/
def tAonKept : CopyCmd := { tAon with dest := some (0x2AFF0, [[(0x2B000, 16, 0x2007)]]) }
theorem met_copy_kept : (match (tVersion 2 tAon).tileHdr tAon .rw 0x2B000, RowPlaces (tVersion 2 tAon) tAon 0 with
      | .ok key, .ok ps => tAonKept == { tAon with dest := some (key, [ps]) }
      | _, _ => false) = true ∧ pteLoc 0x2007 ≠ 3 ∧ ((tAtStage 2 tAonKept .start).memBad [0x2AFF0]) = false ∧
    ({ tAtStage 2 tAonKept (.lock 0x2AFF0 [[1]]) with poison := [2 * (0x2AFF0 / 8)] }).memBad [0x2AFF0] = true ∧ tAon.dest = none := by decide +kernel
theorem met_copy_still : NothingHeld (tAtStage 2 tAonKept (.write 0x2AFF0 0 [[1]])) 1 ∧ NoBlockStores (tAtStage 2 tAonKept (.write 0x2AFF0 0 [[1]])) 1 [0x2B000] := by
  refine ⟨fun b hb => ?_, fun b hb p hp => ?_⟩
  · exact .inl (by have h : ((tAtStage 2 tAonKept (.write 0x2AFF0 0 [[1]])).block? 1).all (fun b => !b.fixed) = true := by decide +kernel
                   have ho : (tAtStage 2 tAonKept (.write 0x2AFF0 0 [[1]])).origin 1 = 1 := by decide +kernel
                   rw [ho] at hb; rw [hb] at h; simpa using h)
  · have h : ((tAtStage 2 tAonKept (.write 0x2AFF0 0 [[1]])).block? 1).all (fun b => b.out.isEmpty) = true := by decide +kernel
    rw [hb] at h
    simp only [Option.all_some, List.isEmpty_iff] at h
    rw [h] at hp
    cases hp
/-- A destination row on a page of another device, which is reached. -/
def tAwayCopy : State := tCtx (tCopy (tCmd 0x2A000 (tPage 10) 0)) (fun c => { c with npeers := 1, peers := 0x60000 })
theorem met_copy_away : (match tAwayCopy.engAccess 0 1 ⟨.write, false, fmtCopy, true⟩ 1 (BitVec.ofNat 64 (tPage 10)) 16 with
      | .ok [(key, n, pte)] => n == 16 && pteLoc pte == 3 && !tAwayCopy.peerBad 0 (key - memKey 3 0) &&
          ((Tab.find tAwayCopy.ctxs 0).bind (fun x => peerOf tAwayCopy.mem x (key - memKey 3 0))).any (fun p => tAwayCopy.reaches p.1)
      | _ => false) = true := by decide +kernel
/-- Each stage of a command in execution; a command that waits for the engine. -/
theorem met_copy_stages : Stands (tAtStage 3 tVchk .wait) 0 tVchk .wait ∧ Stands (tAtStage 2 tVchk (.read 0x2AFF0 2)) 0 tVchk (.read 0x2AFF0 2) ∧
    Stands (tAtStage 2 tVchk (.again 0x2AFF0 2 [])) 0 tVchk (.again 0x2AFF0 2 []) ∧ Stands (tAtStage 2 tAonKept (.lock 0x2AFF0 [[1]])) 0 tAonKept (.lock 0x2AFF0 [[1]]) ∧
    Stands (tAtStage 2 tAonKept (.write 0x2AFF0 0 [[1]])) 0 tAonKept (.write 0x2AFF0 0 [[1]]) ∧ Stands (tAtStage 2 tAonKept (.unlock 0x2AFF0 0)) 0 tAonKept (.unlock 0x2AFF0 0) ∧
    Stands (tAtStage 2 tAon (.done none)) 0 tAon (.done none) ∧ Stands (tCopy tAon) 0 tAon .start :=
  ⟨.inl (by decide +kernel), .inl (by decide +kernel), .inl (by decide +kernel), .inl (by decide +kernel), .inl (by decide +kernel), .inl (by decide +kernel), .inl (by decide +kernel),
   .inr ⟨rfl, by decide +kernel, ⟨[], by decide +kernel⟩, by decide +kernel⟩⟩
theorem met_copy_idle : ((tRun iNop).cluster 0).ceQ = [] ∧ ((tRun iNop).cluster 0).ceRun = none ∧ (tCopy tAon).enginePosting 0 0 = false ∧
    (tCtx (tCopy tAon) (fun c => { c with waiting := [⟨⟨0x10, 0, 3, 0, 0, 1, 1, 0, 1⟩, .engine 0 0⟩] })).enginePosting 0 0 = true := by decide +kernel
/-- Elements: on a scalar page and on a block page, misaligned, without permission, of another format. -/
def tElem (va : Nat) (q : DWord → Bool) : Bool := match (tPaged (tRun iNop)).engLeaf 0 .read (BitVec.ofNat 64 va) with | .ok (_, pte) => q pte | .error _ => false
theorem met_copy_elements : tElem (tPage 7) (fun p => fmtElem p && permitted p .read false && !isBfp (pteFmt p) && decide (tPage 7 % baseAlign (pteFmt p) = 0)) = true ∧
    tElem (tPage 7 1) (fun p => fmtElem p && decide (tPage 7 1 % baseAlign (pteFmt p) ≠ 0)) = true ∧ tElem (tPage 8) (fun p => fmtElem p && permitted p .read false && isBfp (pteFmt p)) = true ∧
    tElem (tPage 11) (fun p => permitted p .read false && !fmtElem p) = true ∧ tElem (tPage 5) (fun _ => true) = false ∧
    (match (tPaged (tRun iNop)).engRead 0 1 ⟨.read, false, fun p => pteFmt p == pteFmt (tE2 (BitVec.ofNat 64 (tPage 7))), false⟩ 1 (BitVec.ofNat 64 (tPage 7)) (elemSize (pteFmt (tE2 (BitVec.ofNat 64 (tPage 7))))) with
      | .ok _ => true | _ => false) = true ∧ (match elemRead (tPaged (tRun iNop)) 0 1 (BitVec.ofNat 64 (tPage 8)) 3 with | .ok _ => true | _ => false) = true := by decide +kernel
/-- Commands at their end: done, with a sync word of target 0 and one of target 8, and failed. -/
def tEnding (k : CopyCmd) (f : Option (Nat × DWord)) (target : Nat) : State :=
  ((tRun iNop).updCluster 0 (fun c => { c with ceRun := some (k, .done (f.map (fun x => ⟨x.1, some x.2, false⟩))), tls := c.tls.set 0 ⟨1, 0, []⟩ })).scrWrite (atKeys 16 (leBytes 4 target))
def tEnds (k : CopyCmd) (f : Option (Nat × DWord)) (t : Nat) : Bool := tBlk (tEnding k f t) (fun b => b.twin.isNone) && (Tab.find (tEnding k f t).ctxs 0).any (fun c => c.phase.isNone) &&
  decide ((((tEnding k f t).cluster 0).tl 0).issued < 1 + 256) && decide ((((tEnding k f t).cluster 0).tl 0).done + 1 = 1)
theorem met_copy_ends : tEnds (tCmd 0 0 0) none 0 = true ∧ tEnds (tCmd 0 0 0x110) none 0 = true ∧ tEnds (tCmd 0 0 0x110) none 8 = true ∧ tEnds (tCmd 0 0 0x110) (some (8, 0x2B000)) 0 = true ∧
    (tCmd 0 0 0x110).w3.getLsbD 4 = true ∧ (tRun iNop).clusters = [] := by decide +kernel

/-! ## Hypotheses met: holds, the package, steps -/

/-- Holds whose end has come, and some whose has not. -/
def tHeldBy (s : State) (h : Hold) : State := tThread s (fun th => { th with hold := some h })
def tHoldOk (s : State) : Bool :=
  tBlk s (fun b => b.saved.isNone && b.prot == 0 && b.twin.isNone && b.primary && !s.commitDue b) &&
    (match s.thread? ⟨1, 0, 0⟩ with | some th => th.live && (s.env? (.thr ⟨1, 0, 0⟩) 7 th.pc th.cont).isSome | none => false)
def tPlain : State := tSync [(1, false)] [] iNop
theorem met_holds : tHoldOk (tHeldBy tPlain (.acq 0x50000 false)) = true ∧ tHoldOk (tHeldBy tPlain (.bar 0 true true)) = true ∧ tHoldOk (tHeldBy tPlain (.swwait 0 1)) = true ∧
    tHoldOk (tHeldBy tPlain (.tlwait 0 0 0)) = true ∧ tHoldOk (tHeldBy tPlain (.fence 1)) = true ∧ tHoldOk (tHeldBy (tPh 0 (some (tPhase false)) iNop) (.phwait 1)) = true ∧
    (tPlain.sync 0x50000).1.contains (1, false) = true ∧ (tPlain.sync 0x50000).1.contains (1, true) = false ∧ tPlain.clusters = [] := by decide +kernel
/-- Of two threads the first waits at COMMIT. -/
def tFirst : State := (tTwo iNop).updBlock 1 (fun b => { b with warps := b.warps.map (fun w =>
  { w with threads := w.threads.zipIdx.map (fun x => { x.1 with hold := if x.2 = 0 then some .commit else none }) }) })
theorem met_hold_commit : tHoldOk tFirst = true ∧ (tFirst.thread? ⟨1, 0, 0⟩).any (fun th => th.hold == some .commit) = true ∧ tHoldOk tPlain = true := by decide +kernel

theorem met_silo_group : (63 : Nat) < 64 ∧ (7 : Nat) < 8 := by decide
theorem met_grants : [10, 20].sum ≤ 30 ∧ 29 < [10, 20].sum := by decide
theorem met_grant_period : (List.replicate 256 5).length = 256 ∧ [114, 0, 0, 0].getD 0 0 < ((tRun iNop).die 0).trip + 10 := by decide +kernel
theorem met_fence_link : (3 : Nat) < 4 ∧ (0x3F : Nat) / 64 = 0 ∧ (23 : Nat) < 24 ∧ ((0x800001 : BitVec 24) &&& ~~~(0 ||| BitVec.ofNat 24 (2 ^ 23)) ≠ 0) ∧
    ((0x800000 : BitVec 24) &&& ~~~(0 ||| BitVec.ofNat 24 (2 ^ 23)) = 0) := by decide +kernel

/-- A ready device whose function 0 has a context descriptor in host memory at 64 × n. -/
def tHost (busy : Bool) (h : List (Nat × Nat × Nat)) (ctxs : Tab Ctx) : State :=
  let s := { State.reset with mem := tMem (atKeys (2 * 2 ^ 52 + 64) (tFields 64 ([(0x10, 8, 0x20000)] ++ h))), ctxs := ctxs, dev := { Device.new with ready := true } }
  s.updFn 0 (fun g => { g with ctxArg := 64, ctxRes := if busy then 0 else 1 })
def tDescAt (s : State) : List Byte := s.mem.bytes (2 * 2 ^ 52 + 64) 64
def tBadField (h : List Byte) : Bool := field h 0 8 % 65536 != 0 || decide (Config.hbmBytes ≤ field h 0 8) || field h 0x10 8 == 0 || field h 0x10 8 % 4 != 0 || field h 0x21 7 != 0 ||
  decide (4096 < field h 0x38 4) || field h 0x3C 4 != 0
theorem met_takes : Takes (tHost false [] []) 0 ∧ ¬ Takes (tHost true [] []) 0 ∧ (Tab.get FnRegs.new (tHost false [] []).fns 0).ctxArg.toNat % 64 = 0 := by
  refine ⟨⟨?_, ?_, ?_⟩, fun h => ?_, ?_⟩
  · decide +kernel
  · decide +kernel
  · decide +kernel
  · exact absurd h.2.2 (by decide +kernel)
  · decide +kernel
def tCreate (h : List (Nat × Nat × Nat)) : Bool × Bool × Bool :=
  let s := tHost false h []
  let c := Ctx.of 0 (tDescAt s)
  (tBadField (tDescAt s), s.loftOver c, (s.handlerCluster c.hcluster).isSome)
def tAllSick : State := { tHost false [] [] with clusters := (List.range 256).map (fun k => (k, { Cluster.new with healthy := false })) }
theorem met_create : tCreate [] = (false, false, true) ∧ (tCreate [(0x38, 4, 4097)]).1 = true ∧ (tCreate [(0x38, 4, 4096)]).1 = false ∧ (tCreate [(8, 2, 65535)]).1 = false ∧
    (tCreate [(8, 2, 65535)]).2.1 = true ∧ (tAllSick.handlerCluster (Ctx.of 0 (tDescAt tAllSick)).hcluster).isNone = true ∧ (63 : Nat) < 64 := by decide +kernel
def tOwned (f : Ctx → Ctx) : State := tHost false [] [(0, f placedCtx)]
theorem met_owned : (Tab.find (tOwned id).ctxs 0).any (fun c => c.fn == 0 && c.handler.isNone && ((tOwned id).handlerCluster c.hcluster).isSome) = true ∧
    (Tab.find (tOwned (fun c => { c with handler := some 1 })).ctxs 0).any (fun c => c.handler.isSome) = true ∧
    (Tab.find (tOwned (fun c => { c with fn := 1 })).ctxs 0).any (fun c => c.fn != 0) = true := by decide +kernel
theorem met_destroyed : (Tab.find (tOwned (fun c => { c with dying := true })).ctxs 0).any (fun c => c.dying && c.bound.isEmpty) = true ∧
    (tOwned (fun c => { c with dying := true })).ctxQuiet 0 = true ∧ (Tab.find (tOwned id).ctxs 0).any (fun c => !c.dying) = true := by decide +kernel

/-- Silo loads: not ready, refused for live work, for its length, for its end, and taken. -/
def tLoad2 (dst len : Nat) (s : State) : State := { s with dev := { s.dev with ready := true, siloDst := BitVec.ofNat 64 dst, siloLen := BitVec.ofNat 64 len } }
def tLoadBad (s : State) : Bool := let pa := s.dev.siloDst.toNat; let n := s.dev.siloLen.toNat
  n == 0 || n % 4096 != 0 || pa % 2 ^ 31 % 4096 != 0 || decide (2 ^ 31 < pa % 2 ^ 31 + n)
def tLive2 (s : State) : Bool := s.blocks.any (fun p => p.2.kind != .handler && coreDie p.2.core == s.dev.siloDst.toNat / 2 ^ 31 % 4 && p.2.saved.isNone)
theorem met_silogo : tLive2 (tLoad2 0 4096 (tRun iNop)) = true ∧ (tLive2 (tLoad2 (2 ^ 31 - 4096) 8192 State.reset) = false ∧ tLoadBad (tLoad2 (2 ^ 31 - 4096) 8192 State.reset) = true) ∧
    (tLive2 (tLoad2 (2 ^ 31 - 4096) 4096 State.reset) = false ∧ tLoadBad (tLoad2 (2 ^ 31 - 4096) 4096 State.reset) = false) ∧ State.reset.dev.ready = false ∧
    (tLoad2 0 0 State.reset).dev.siloLoad = none := by decide +kernel
theorem met_silo_done : ({ State.reset with dev := { Device.new with siloLoad := some ⟨0, 0, 0, 4096⟩ } } : State).dev.siloLoad.isSome = true ∧ State.reset.dev.siloLoad = none := by decide +kernel
theorem met_register_write : (tHost false [] []).dev.ready = true ∧ 0 ≤ (tHost false [] []).dev.vfs ∧ (tHost false [] []).dev.vfs < 1 ∧ 0x110 % 8 = 0 ∧ 0x114 % 8 ≠ 0 := by decide +kernel
theorem met_bar4 : (tHost false [] []).dev.ready = true ∧ (2 ^ 30 - 1) + [1#8].length ≤ 2 ^ 30 ∧
    (tHost false [] []).dev.apBase.toNat / 2 ^ 30 * 2 ^ 30 + (2 ^ 30 - 1) + [1#8].length ≤ Config.hbmBytes := by decide +kernel
theorem met_bring_up : State.reset.dev.bringUp < 6 ∧ ¬ ({ Device.new with bringUp := 6 } : Device).bringUp < 6 := by decide +kernel

/-- No image in flash; a slot that booted; a report that finds room. -/
def tImage : Image := ⟨0x465A5645, 1, 1, 5, 0, [], [], [], [], []⟩
theorem met_boot : State.reset.dev.image 1 = none ∧ State.reset.dev.config = none ∧ State.reset.dev.bootSlot = [] ∧
    ({ Device.new with ready := true, flash := [(2, List.replicate 64 0)], bootSlot := [2] } : Device).bootSlot.head? = some 2 := by decide +kernel
theorem met_attest : (Tab.get FnRegs.new (tHost false [] []).fns 0).defer = [] ∧ (Tab.get FnRegs.new (tHost false [] []).fns 0).evFull = false ∧
    (Tab.get FnRegs.new (tHost false [] []).fns 0).attNonce.length = 4 := by decide +kernel

/-! ## Hypotheses met: decoding and stepping -/

noncomputable def tWf (i : Instr) : Bool := i.wf && i.cls.isSome
theorem met_encode : tWf (.mma (fA 0x7F 0 0)) = true ∧ tWf (.iadd (fA 0x7F 0xCF 0xC8 0xFFFFFFFF)) = true ∧ tWf (.br ⟨0, -1⟩) = true ∧ tWf (.switch (tSwitch 0xD5)) = true := by
  decide +kernel
/-- The first word of a clause in execution, and a vote that issues it. -/
def tPass : State := { tRun (.iadd (fA 3 4 5)) with agenda := [.pass 0] }
theorem met_pass : tPass.issues.head?.any (fun iss => match decode iss.cls iss.words with | .ok (i, _) => i == .iadd (fA 3 4 5) | _ => false) = true := by decide +kernel
noncomputable def tOutcome (i : Instr) (s : State) : Option State := match exec i s with | .next t => some t | _ => none
theorem met_event : (tOutcome (.issueVote 1 0) { (tVotes 0).tick with agenda := [] }).any (fun t => t.issues.length == 1 &&
      t.issues.any (fun iss => match decode iss.cls iss.words with | .ok (i, _) => i == .iadd (fA 3 4 5) | _ => false)) = true ∧
    (tOutcome (.timerEvent 1) { (tVotes 0).tick with agenda := [] }).any (fun t => t.issues.isEmpty) = true := by decide +kernel
noncomputable def tTileIdle : State := { tTile (.mzero (fA 0 0 0)) with issues := [] }
theorem met_tile_clause : (tTileIdle.tick.tileClause 0).issues.any (fun iss => match decode iss.cls iss.words with | .ok (i, _) => i == .mzero (fA 0 0 0) | _ => false) = true ∧
    (({ (tRun iNop) with issues := [] } : State).tick.tileClause 0).issues = [] := by decide +kernel
theorem met_line : (match (tVotes 0).fetchLine 0 0 1 tAt0, (tVotes 0).access 0 0 1 ⟨.fetch, false, fmtRaw, true⟩ 64 0x20000 64 with | (_, .ok _), (_, .ok _) => true | _, _ => false) = true := by
  decide +kernel
theorem met_canonical : State.reset.Canonical := ⟨by decide, by decide⟩
theorem met_going : (tRun iNop).issues ≠ [] ∧ State.reset.issues = [] ∧ (Instr.timerEvent 1).parts = none ∧ iNop.parts ≠ none := by decide +kernel

/-! ## Hypotheses met: work, messages and levels once more -/

/-- A group whose other rank is another function of this device; no link at all. -/
def tNear : List Byte := tFields 64 [(0, 4, 7), (4, 4, 2), (8, 2, 2), (0xA, 2, 1), (0xC, 2, 1)] ++ tFields 16 [(11, 1, 1)]
def tMsgNear (fs : List (Nat × Nat × Nat)) (i : Instr) : State := tPut 0x28040 tNear (tMsg fs i)
def tOwn (s : State) (g : Group) (k : Nat) : Bool := (g.ranks[k]?).any (fun x => x.1 == s.dev.fid)
theorem met_send_reached : Lone (tMsgNear (tSend 1 0x29000 (16 * 4096))) iSend (fun s _ _ _ l e => tMsgAt s l e (fun s1 bs => tGrp s1 e bs (fun s2 g => tOwn s g 1 &&
    tSource s2 e 64 0x29000 64 (fun s3 keys => tOk (s3.readBytes e 0x29000 keys) && (s3.block? e.blk).any (fun b => b.held.isEmpty))))) := alone_of (by decide +kernel)
theorem met_send_unreached : Lone (fun i => { tMsg (tSend 1 0x29000 (16 * 4096)) i with dev := { Device.new with ready := true, links := 0 } }) iSend (fun s _ _ _ l e =>
    tMsgAt s l e (fun s1 bs => tGrp s1 e bs (fun s2 g => !tOwn s g 1 && s.dev.links == 0 && s.clusters.all (fun c => c.2.msgs.isEmpty) &&
      tSource s2 e 64 0x29000 64 (fun s3 keys => tOk (s3.readBytes e 0x29000 keys) && (Tab.find s3.ctxs e.ctx).any (fun c => c.phase.isNone))))) := alone_of (by decide +kernel)
theorem met_unreached : (0 : BitVec 24) &&& ~~~0 &&& Config.linksTo 9 = 0 := by simp
theorem met_rem_reached : Lone (tMsgNear (tRem 1 1)) iRem (fun s _ _ _ l e => tMsgAt s l e (fun s1 bs => tRems s1 e bs 1 (tPage 11 16) (fun s5 g ps => !tRemUsed s5 g && tOneWin ps &&
    g.me == 0 && tOwn s g 1))) := alone_of (by decide +kernel)
theorem met_reaches : State.reset.reaches 0 = true := by decide +kernel
/-- Flits: of a message with no payload, with 224 bytes of it and with one more. -/
def tM0 (n : Nat) : OutMsg := .m0 5 1 ⟨false, 0, 0⟩ (List.replicate n 7)
theorem met_flits : (tM0 64).packet.isSome = true ∧ max 1 ((224 + 223) / 224) = 1 ∧ max 1 ((225 + 223) / 224) = 2 ∧ (5 : Nat) < 2 ^ 24 ∧
    (List.replicate 224 (7 : Byte)).length ≤ 224 := by decide +kernel

/-- Work of a thread that holds an operation, and of one that holds none; a launch and items that wait for that commit. -/
def tKept : State := tP1 (tHolds none)
def tAfter (l : Launch) : Launch := { l with after := [(1, 0)] }
theorem met_work : tBlk tKept (fun b => b.primary && b.epoch == 0 && b.held.any (fun h => h.tid == 0) && b.held.all (fun h => h.tid != 1)) = true ∧
    (Tab.find (tLaunched tAfter tKept).launches 1).any (fun l => l.after.contains (1, 0)) = true ∧ { tGather 1 with after := [(1, 0)] }.after.contains (1, 0) = true ∧
    (match tKept.env? (.thr ⟨1, 0, 0⟩) 0 0x20000 0 with | some e => e.tid == 0 && e.blk == 1 | none => false) = true := by decide +kernel

/-- Launches that a cancel names: with a queued record, blocks to place, items, a live thread, a pair launch, and with none of them. -/
def tOnly (b : Bool) (f : Launch → Launch) : State := let s := tLaunched f (tRun iNop); if b then s else { s with blocks := [] }
theorem met_some_left : (tReadies [tReadyRec] []).dies.any (fun d => d.2.ready.any (fun r => r.lid == 1)) = true ∧
    (tOnly false (fun l => { l with placed := 1 })).launches.any (fun l => decide (l.2.lo + l.2.placed + l.2.skips.length < l.2.hi)) = true ∧
    (tReadies [] [tGather 1]).clusters.any (fun c => c.2.formed.any (fun g => g.lid == 1 && !g.items.isEmpty)) = true ∧
    tBlk (tOnly true id) (fun b => b.lid == 1 && b.primary && b.kind != .handler && b.warps.any (fun w => w.threads.any (fun th => th.live))) = true ∧
    (Tab.find (tPS (tPL (tPD []) 0) []).pairs 9).any (fun p => !p.begunDrain) = true := by decide +kernel
/-- Block 2, of launch 2, with a thread in a wait that a cancel ends, beside the issuing block 1 of launch 1. -/
def tOther (s : State) : State :=
  match s.block? 1 with
  | some b => { s with blocks := Tab.ins s.blocks 2 { b with lid := 2, warps := b.warps.map (fun w => { w with threads := w.threads.map (fun th => { th with hold := some (.tlwait 0 0 1) }) }) },
                       launches := s.launches ++ [(2, { tLaunch1 with count := 1 })] }
  | none => s
theorem met_cancel_live : Lone (tLev 2 (fun s => tOther (tLive s))) (iCancel 0xD1) (fun s _ _ _ _ e => decide ((e.val 0xD1 0).toNat = 1) && tId e == 2 &&
    (Tab.find s.launches 2).any (fun x => x.ctx == e.ctx && !x.complete && !x.cancelled) && (s.block? e.blk).any (fun b => b.lid != 2) &&
    s.blocks.all (fun p => p.2.lid != 2 || (p.2.stopCause.isNone && p.2.twin.isNone)) && s.dies.isEmpty && s.clusters.all (fun c => c.2.gather.isEmpty && c.2.formed.isEmpty) &&
    (s.thread? ⟨2, 0, 0⟩).any (fun th => th.live && th.hold == some (.tlwait 0 0 1))) := alone_of (by decide +kernel)
/-- Launch 2 with every block placed and none that runs. -/
theorem met_cancel_idle : Lone (tLev 2 (fun s => let s := tLive s; { s with launches := s.launches ++ [(2, tLaunch1)] })) (iCancel 0xD1) (fun s _ _ _ _ e =>
    decide ((e.val 0xD1 0).toNat = 1) && tId e == 2 && (Tab.find s.launches 2).any (fun x => x.ctx == e.ctx && !x.complete && decide (x.hi ≤ x.lo + x.placed)) &&
    s.blocks.all (fun p => p.2.lid != 2) && s.dies.isEmpty && s.clusters.isEmpty && s.pairs.isEmpty) := alone_of (by decide +kernel)
theorem met_countr_block : Lone (tLev 0 tLive) (iCountr 0xD0) (fun s _ _ _ _ e => e.val 0xD0 0 == 0 && tId e == 0 && (s.block? e.blk).isSome) ∧
    Lone (tLev 9 (fun s => { tPS (tPL (tPD []) 1) [] with issues := s.issues, blocks := s.blocks, mem := s.mem })) (iCountr 0xD1) (fun s _ _ _ _ e =>
      (Tab.find s.launches (levelNamed s e 1 (tId e))).any (fun x => x.ctx == e.ctx) && (Tab.find s.pairs (levelNamed s e 1 (tId e))).isSome) ∧
    Lone (tLev 0 tLive) (iCountr 0xD2) (fun s _ _ _ _ e => e.val 0xD2 0 == 2 && (Tab.find s.ctxs e.ctx).isSome) ∧ Lone (tLev 0 tLive) (iCountr 0xD3) (fun s _ _ _ _ e => e.val 0xD3 0 == 3 && (Tab.find s.ctxs e.ctx).isSome) :=
  ⟨alone_of (by decide +kernel), alone_of (by decide +kernel), alone_of (by decide +kernel), alone_of (by decide +kernel)⟩

/-- A successor counter that lets its record go, which the die has room for; a block that leaves with a store in flight. -/
def tSuccRec : State := tPut 0x28040 (tTask []) (tSucc 0 0x28000 1)
theorem met_successor_goes : (match tSuccRec.engRead 0 0 ⟨.read, false, fmtRaw, true⟩ 64 0x28040 64 with | .ok bs => bs == tTask [] | _ => false) = true ∧ tSuccRec.lidCancelled 1 = false ∧
    tSuccRec.recOk ⟨0, 0, 0, 0, false, []⟩ (TaskRec.of (tTask [])) = true ∧ tSuccRec.cutOff ((TaskRec.of (tTask [])).under ⟨0, 0, 0, 0, false, []⟩) = false := by decide +kernel
def tLeaves : State := tThread tExited (fun th => { th with stq := [⟨[0x28000], [1], none⟩] })
theorem met_block_stores : tBlk tLeaves (fun b => b.out.isEmpty && b.warps.all (fun w => w.threads.all (fun th => !th.live && th.owed.isEmpty && th.stq.all (fun o => o.peer.isNone)))) = true ∧
    tLeaves.clusters = [] ∧ tLeaves.forked 1 = false := by decide +kernel
theorem met_levels_ready : (tReadies [{ tReadyRec with task := TaskRec.of (tTask [(0x1C, 4, 1)]), graph := 5 }] []).dies.any (fun d => d.2.ready.any (fun r =>
    r.task.flags.toNat % 4 == 1 && r.ctx == 0 && r.graph == 5)) = true := by decide +kernel

/-! ## Hypotheses met: the Granary's work, copies, matrix operands -/

/-- A state with a page of format 1; an operation at unit 0. -/
def tF32 (s : State) : State := tPut 0x30070 (leBytes 8 0x60027) (tPaged s)
def tGOp (bwd : Bool) (fs : List (Nat × Nat × Nat)) : GranOp := ⟨1, 0, 0, ⟨1, 0, 0⟩, bwd, tGD fs⟩
def tGS (o : GranOp) (tabs : List GranTab) : State := { tF32 (tRun iNop) with grans := [(0, ⟨[o], none, tabs⟩)] }
def tFwd (fs : List (Nat × Nat × Nat)) : GranOp := tGOp false ([(0, 8, tPage 7), (8, 8, tPage 7), (0x10, 8, tPage 7), (0x18, 8, tPage 7)] ++ fs)
def tGOk {α : Type} (x : Except FInfo α) : Bool := match x with | .ok _ => true | .error _ => false
def tGTab (o : GranOp) : GranTab := ⟨0, o.desc.tag, o.desc.h, o.desc.c, o.desc.qdim, List.replicate 256 0⟩
theorem met_granary_tables : (tFwd []).desc.tag = 0 ∧ tGOk ((tGS (tFwd []) []).granRead (tFwd []) 2 (tFwd []).desc.k1base 128) = true ∧ (tFwd [(0x38, 2, 7)]).desc.tag = 7 ∧
    (tGS (tFwd [(0x38, 2, 7)]) [tGTab (tFwd [(0x38, 2, 7)])]).memBad [granKey 0 0 7] = false ∧
    { tGS (tFwd [(0x38, 2, 7)]) [] with poison := [2 * (granKey 0 0 7 / 8)] }.memBad [granKey 0 0 7] = true ∧ (List.replicate 256 (0 : Byte)).length ≤ 8388608 := by decide +kernel
/-- PKQ whose query, tables, rows and output pass, and whose query, tables or output fail. -/
def tFwdOut (obase : Nat) : GranOp := tFwd [(0x20, 8, obase)]
def tOutWant (s : State) (o : GranOp) : Bool := tGOk (s.engAccess 0 1 ⟨.write, false, fun p => pteFmt p == 0 || pteFmt p == 1, false⟩ 1 o.desc.obase 128)
theorem met_pkq_serves : (tGS (tFwdOut 0x2B000) []).enginePosting 0 3 = false ∧ tGOk ((tGS (tFwdOut 0x2B000) []).granRead (tFwdOut 0x2B000) 2 (BitVec.ofNat 64 (tPage 7)) 64) = true ∧
    tGOk ((tGS (tFwdOut 0x2B000) []).granTables 0 (tFwdOut 0x2B000)) = true ∧ (tFwdOut 0x2B000).desc.stride = 64 ∧ tGOk ((tGS (tFwdOut 0x2B000) []).granRead (tFwdOut 0x2B000) 2 (BitVec.ofNat 64 (tPage 7)) 64) = true ∧
    tOutWant (tGS (tFwdOut 0x2B000) []) (tFwdOut 0x2B000) = true ∧ tOutWant (tGS (tFwdOut (tPage 7)) []) (tFwdOut (tPage 7)) = false ∧
    tGOk ((tGS (tFwd []) []).engAccess 0 1 ⟨.write, false, fmtRaw, false⟩ 1 (tFwd []).desc.iwbase 0) = true := by decide +kernel
theorem met_pkq_fails : tGOk ((tGS (tGOp false []) []).granRead (tGOp false []) 2 (tGOp false []).desc.qaddr 64) = false ∧
    tGOk ((tGS (tGOp false [(0, 8, tPage 7)]) []).granTables 0 (tGOp false [(0, 8, tPage 7)])) = false := by decide +kernel
/-- PKG of one entry, into bins of page 11; an entry beyond C²; one whose record fails. -/
def tBwd (va rec : Nat) : GranOp := tGOp true [(0, 8, tPage 14), (0x18, 8, va), (0x28, 8, rec), (0x32, 2, 0)]
def tBinsAt (s : State) (o : GranOp) (key : Nat) : Bool :=
  match s.engAccess 0 1 ⟨.write, true, fmtBin true, false⟩ 16 o.desc.vbase (16 * 32) with | .ok [(k, n, _)] => k == key && n == 512 && !s.memBad (partKeys [(k, n, 0)]) | _ => false
theorem met_pkg_serves : tGOk ((tGS (tBwd (tPage 11) 0x28008) []).granRead (tBwd (tPage 11) 0x28008) 0 0x28008 8) = true ∧
    tGOk ((tGS (tBwd (tPage 11) 0x28008) []).granRead (tBwd (tPage 11) 0x28008) 1 (BitVec.ofNat 64 (tPage 14)) 128) = true ∧ (tBwd (tPage 11) 0x28008).desc.rowdim = 32 ∧
    tBinsAt (tGS (tBwd (tPage 11) 0x28008) []) (tBwd (tPage 11) 0x28008) 0x50000 = true ∧ (tBwd (tPage 11) 0x28008).desc.h * (tBwd (tPage 11) 0x28008).desc.k = 1 ∧
    leVal ((tPut 0x28008 [16] (tGS (tBwd (tPage 11) 0x28008) [])).mem.bytes 0x28008 4) = (tBwd (tPage 11) 0x28008).desc.c * (tBwd (tPage 11) 0x28008).desc.c ∧
    tGOk ((tGS (tBwd (tPage 11) (tPage 5)) []).granRead (tBwd (tPage 11) (tPage 5)) 0 (BitVec.ofNat 64 (tPage 5)) 8) = false := by decide +kernel
/-- An operation that is done but writes where its block holds nothing: the object's page is bound to block 1, which does not hold it. -/
def tUnheld : State := tCtx (tServing ⟨[(0x28000, 0x28000, 0x2007, [1, 2])], [], false, none⟩) (fun c => { c with bound := [(0x50000, 0x28000, 64)] })
theorem met_unit_unheld : tUnheld.unheld 0 1 0x28000 2 = true ∧ (tServing ⟨[(0x28000, 0x28000, 0x2007, [1, 2])], [], false, none⟩).unheld 0 1 0x28000 2 = false := by decide +kernel

/-- Rows of a command: in memory with an uncorrectable error, in scratchpad with one, in a member's region, decoded; and to a member's region. -/
def tGroupB (i : Instr) : State := (tRun i).updBlock 1 (fun b => { b with group := some (1, 0), scrSize := 4096 })
def tPlaceOk (s : State) (k : CopyCmd) (q : Except FInfo (List Byte) → Bool) : Bool := q (s.copySrc k 0)
def tDsmem (off : Nat) : Nat := 2 * 2 ^ 56 + off
theorem met_copy_places : tPlaceOk { tCopy (tCmd 0x2A000 0x2B000 0) with poison := [2 * (0x2A000 / 8)] } (tCmd 0x2A000 0x2B000 0) (fun x => !tGOk x) = true ∧
    { tCopy (tCmd (tScrAt 64) 0x2B000 0) with poison := [2 * (64 / 8) + 1] }.scrBad ((List.range 16).map (fun i => 0 * 262144 + 64 + i)) = true ∧
    ((tGroupB iNop).block? 1).any (fun b => b.group.isSome && b.saved.isNone && b.twin.isNone && ((tGroupB iNop).member b 1 0).any (fun k => decide (16 ≤ k.scrSize)) &&
      ((tGroupB iNop).member b 1 5).isNone && ((tGroupB iNop).member b 1 0).any (fun k => decide (k.scrSize < 4088 + 16))) = true ∧
    ((tCmd (tDsmem 0) (tDsmem 64) 0).w0.extractLsb' 56 2).toNat = 2 ∧ ((tCmd (tDsmem 0) (tDsmem 64) 0).w0.extractLsb' 0 52).toNat = 0 := by decide +kernel
theorem met_copy_op1 : (tCmd (tPage 7) 0x2B000 1).w3.extractLsb' 0 2 = 1#2 ∧
    (List.range 16).all (fun i => tGOk (elemRead (tPaged (tRun iNop)) 0 1 (BitVec.ofNat 64 (tPage 7)) i)) = true ∧
    tGOk (elemRead (tPaged (tRun iNop)) 0 1 (BitVec.ofNat 64 (tPage 5)) 0) = false ∧
    (match (tPaged (tRun iNop)).engAccess 0 1 ⟨.write, false, fmtRaw, true⟩ 1 0x2B000 32 with | .ok ps => ps.all (fun p => pteLoc p.2.2 != 3) | _ => false) = true := by decide +kernel
/-- The rows of a stage. -/
theorem met_rows : RowsCopied (tCmd 0x2A000 0x2B000 0) 0 1 (tCopy (tCmd 0x2A000 0x2B000 0)) (tCopy (tCmd 0x2A000 0x2B000 0)) none :=
  ⟨rfl, rfl⟩
def tErrScr : State := { tEnding (tCmd 0 0 0x110) none 0 with poison := [2 * (16 / 8) + 1] }
theorem met_copy_ends_bad : tErrScr.scrBad ((List.range 12).map (fun i => 0 * 262144 + 16 * ((tCmd 0 0 0x110).w3.extractLsb' 8 14).toNat + i)) = true ∧
    (tEnding (tCmd 0 0 0x110) none 0).scrBad ((List.range 12).map (fun i => 0 * 262144 + 16 * ((tCmd 0 0 0x110).w3.extractLsb' 8 14).toNat + i)) = false ∧
    ((tEnding (tCmd 0 0 0x110) none 0).block? 1).any (fun b => b.saved.isNone && b.core == 0) = true := by decide +kernel

/-- Tile code whose barrier object holds an uncorrectable error; units with a full queue, and with a record to post. -/
def tBadObj (i : Instr) : State := { tObjAt 4088 1 false i with poison := [2 * (4088 / 8) + 1] }
theorem met_mat_poison : Lone tBadObj (.mbar (fA 0 4 0)) (fun s _ _ _ l e => l == .tile 0 && s.scrBad ((List.range 8).map (fun k => unitOf e 0 * 262144 + 4088 + k))) ∧
    Lone tBadObj (.mwaitb (fA 0 4 5)) (fun s _ _ _ l e => l == .tile 0 && s.scrBad ((List.range 8).map (fun k => unitOf e 0 * 262144 + 4088 + k))) ∧
    Lone (fun i => tMatQ (List.replicate 17 (.mzero 0, 0, 1, 0)) (tObjAt 4088 1 false i)) (.mwaitb (fA 0 4 5)) (fun s _ _ _ _ e => decide (17 ≤ tUnit s e 0)) ∧
    Lone (tObjAt 4084 1 false) (.mwaitb (fA 0 4 5)) (fun _ _ _ _ _ e => decide ((e.a (fA 0 4 5)).toNat % 8 ≠ 0)) ∧
    Lone (tObjAt 4096 1 false) (.mwaitb (fA 0 4 5)) (fun _ _ _ _ _ e => (e.a (fA 0 4 5)).toNat == 4096) :=
  ⟨alone_of (by decide +kernel), alone_of (by decide +kernel), alone_of (by decide +kernel), alone_of (by decide +kernel), alone_of (by decide +kernel)⟩
theorem met_settings_full : Lone (fun i => tMatQ (List.replicate 17 (.mzero 0, 0, 1, 0)) (tK [0, 0xFFFFFFE0] i)) (.medge (fA 0 0xCF 5 0x202020)) (fun s _ _ _ _ e => decide (17 ≤ tUnit s e 0)) ∧
    Lone (fun i => tMatQ (List.replicate 17 (.mzero 0, 0, 1, 0)) (tTile i)) (.mfmt (fA 0 0xD4 0)) (fun s _ _ _ _ e => decide (17 ≤ tUnit s e 0) && decide ((e.a (fA 0 0xD4 0)).toNat ≤ 4)) :=
  ⟨alone_of (by decide +kernel), alone_of (by decide +kernel)⟩
def tPosting (u : FUnit) (s : State) : State := tCtx s (fun c => { c with waiting := [⟨tFRec, u⟩] })
theorem met_unit_posts : (tPosting (.mat 0) (tRun iNop)).ctxs.any (fun p => p.2.waiting.any (fun q => q.unit == .mat 0)) = true ∧
    (tPosting (.tile 0) (tRun iNop)).ctxs.any (fun p => p.2.waiting.any (fun q => q.unit == .tile 0)) = true ∧
    (tTile iNop).ctxs.all (fun p => p.2.waiting.isEmpty) = true ∧ tBlk (tTile iNop) (fun b => b.saved.isNone && b.twin.isNone && b.warps.all (fun w => w.threads.all (fun th => th.badW.isEmpty))) = true := by
  decide +kernel
theorem met_reg_operand_ok : ((tTile iNop).block? 1).any (fun b => b.warps.length == 1 && decide (16 ≤ b.regs)) = true ∧ (0 : Word).extractLsb' 3 5 = 0 ∧ (0 : Word).extractLsb' 15 17 = 0 := by decide +kernel
theorem met_save_operand : (16 : DWord).extractLsb' 20 44 = 0 ∧ (fA 2 4 0).d.extractLsb' 3 2 = 0 ∧ ((16 : DWord).extractLsb' 0 20).toNat % 16 = 0 := by decide +kernel

/-! ## Hypotheses met: holds, the package, decoding and waits -/

/-- TLBINV held for an operation that its block still holds, and for one whose interval has ended; fences whose end has not come. -/
def tInv (epoch : Nat) : State := tHeldBy (tPlain.updBlock 1 (fun b => { b with held := [tHeldOp] })) (.tlbinv [⟨1, epoch, false, [0]⟩])
theorem met_holds_tlbinv : tBlk (tInv 0) (fun x => x.epoch == 0 && !x.reexec && (x.held[0]?).any (fun h => match h.act with | .store o => !o.keys.isEmpty | _ => true)) = true ∧
    tBlk (tInv 3) (fun x => x.epoch != 3) = true ∧ tHoldOk (tInv 0) = true ∧ tHoldOk (tInv 3) = true ∧
    tHoldOk (tHeldBy (tInFlight iNop) (.fence 5)) = true ∧ (((tInFlight iNop).thread? ⟨1, 0, 0⟩).any (fun th => !th.stq.isEmpty)) = true ∧
    (match tPlain.thread? ⟨1, 0, 0⟩ with | some th => th.stq.isEmpty | none => false) = true ∧ tBlk tPlain (fun b => b.out.isEmpty) = true ∧ tPlain.clusters = [] ∧
    tHoldOk (tHeldBy tPlain (.waitev 1 3 0 true)) = true ∧ tBlk tPlain (fun b => tPlain.evpend b &&& 1 == 0) = true := by decide +kernel

/-- A job in execution on die 0; operations of the message engine towards this device and in flight; a switch's sequence. -/
def tJob : State := tCtx (tRun iNop) (fun c => { c with jobs := [(7, ⟨0, false, false, false, []⟩)] })
theorem met_fences : (Tab.find tJob.ctxs 0).any (fun c => (Tab.find c.jobs 7).any (fun l => !l.complete)) = true ∧ (tJob.cluster 0).healthy = true ∧ (tJob.cluster 64).healthy = true ∧
    ({ tJob with dev := { Device.new with ready := true } } : State).dev.ready = true ∧ (tFlying 0).clusters.any (fun c => c.2.msgs.any (fun m => m.kind != 2)) = true ∧ Routed Device.new Device.new.fid := by
  refine ⟨by decide +kernel, by decide +kernel, by decide +kernel, by decide +kernel, by decide +kernel, .inl rfl⟩
theorem met_unrouted : ¬ Routed { Device.new with links := 0 } 9 := by
  rintro (h | h)
  · revert h; decide
  · simp at h
/-- Register reads, recovery, and a launch in execution on the die of a load. -/
theorem met_reads : (tHost false [] []).dev.vfs = 0 ∧ 0 ≤ (tHost false [] []).dev.vfs ∧ (tHost false [] []).dev.vfs < 1 := by decide +kernel
theorem met_recovery : ({ Device.new with recovery := true } : Device).recovery = true ∧ (0 : Nat) + [1#8].length ≤ 2 ^ 30 ∧ (tHost false [] []).dev.recovery = false := by decide +kernel
def tLiveDie : State := tLoad2 0 4096 (tLaunched (fun l => { l with dies := [0] }) (tRun iNop))
theorem met_silo_live : tLiveDie.launches.any (fun p => !p.2.complete && p.2.dies.contains 0) = true ∧ tLiveDie.dev.ready = true ∧ tLiveDie.dev.siloLoad.isNone = true ∧
    (tLoad2 0 4096 State.reset).launches = [] := by decide +kernel

/-- A GLEAN put off and taken up. -/
theorem met_put_off : ({ tRun iNop with agenda := [.putOff ⟨1, 0, 0⟩, .takeUp ⟨1, 0, 0⟩] } : State).agenda.length = 2 := by decide +kernel
/-- Two clauses on one lane of which only the first may pass; a clause on another lane. -/
def tOneLane : State := { tTwo iNop with issues := [⟨.lanes 1 0 [0], tAt0, placedLine .gen (encode iNop), 1, 1⟩, ⟨.lanes 1 0 [1], tAt0, placedLine .gen (encode iNop), 1, 1⟩], agenda := [.pass 1] }
theorem met_apart : ¬ (∀ j ∈ tOneLane.issues.take 1, Apart (tOneLane.issues.getD 1 ⟨.tile 0, 0, [], 0, 0⟩) j) ∧
    Apart ⟨.lanes 1 0 [0], 0, [], 1, 1⟩ ⟨.lanes 1 0 [8], 0, [], 1, 1⟩ := by
  refine ⟨fun h => ?_, ?_⟩
  · have := h ⟨.lanes 1 0 [0], tAt0, placedLine .gen (encode iNop), 1, 1⟩ (by decide +kernel)
    exact this rfl rfl 1 (by decide) 0 (by decide) rfl
  · intro _ _ m hm n hn
    simp only [List.mem_singleton] at hm hn
    subst hm; subst hn; decide

/-- Operand checks at the bounds: 8 lane and 16 warp registers, 1 valid latch, lane code and tile code. -/
def tDec (tile : Bool) : DecodeCtx := ⟨8, 16, tile, false, false, 1⟩
theorem met_operand_checks : (0xC9 : BitVec 8).toNat = 0xC9 ∧ (0xBF : BitVec 8).toNat ≤ 0xBF ∧ (0xC1 : BitVec 8).toNat - 0xC0 + 1 = 2 ∧ (tDec false).yn < 2 ∧ (7 : BitVec 8).toNat < (tDec false).regs ∧
    ¬ (8 : BitVec 8).toNat < (tDec false).regs ∧ (0x8F : BitVec 8).toNat - 0x80 < (tDec false).unif ∧ (6 : BitVec 7).toNat % 2 = 0 ∧ (6 : BitVec 7).toNat + 2 ≤ (tDec false).regs ∧
    (tDec true).tile = true ∧ (Op.plaunch.info.barred (tDec true)) = true := by decide +kernel

/-- Clauses of one word of the general class behind a header, at the start of a line; each header that is illegal; the last word of a line. -/
def tLine (h w : Word) : List Word := (h :: w :: List.replicate 16 0).take 16
def tHdr1 : Word := placedHeader .gen 1
def tNopW : Word := (encode iNop).headD 0
def tFaultAt (pc : DWord) (line : List Word) : Option (Nat × Nat) := clauseFault (tDec false) pc line
theorem met_headers : tFaultAt 0x20000 (tLine 0 0) = some (1, 0) ∧ tFaultAt 0x20000 (tLine (tHdr1 ||| 0x8000) tNopW) = some (1, 0) ∧
    tFaultAt 0x20000 (tLine ((tHdr1 &&& 0xFFFF8FFF) ||| 0x6000) tNopW) = some (1, 0) ∧ tFaultAt 0x20000 (tLine ((tHdr1 &&& 0xFFFF8FFF) ||| 0x40) tNopW) = some (1, 0) ∧
    tFaultAt 0x20000 (tLine (tHdr1 ||| 0x20000) tNopW) = some (1, 0) ∧ tFaultAt 0x2003C ((List.replicate 15 0 ++ [tHdr1])) = some (1, 0) ∧ tFaultAt 0x20000 (tLine tHdr1 tNopW) = none := by decide +kernel
/-- The walk: a word of no instruction, an operand that fails, a word that runs beyond the clause, control before the end, and words that pass. -/
def tWords (w : Word) : List Word := w :: List.replicate 14 0
def tReadOf (w : Word) (q : Op → Shape → Bool) : Bool := match readWord .gen (tWords w ++ List.replicate 9 0) with | .ok (op, sh, _) => q op sh | .error _ => false
theorem met_walk_words : tReadOf 0xFF000000 (fun _ _ => true) = false ∧ tReadOf 0x30090000 (fun op sh => (checkWord (tDec false) op.info sh).isSome) = true ∧
    tReadOf 0x300500CF (fun op sh => (checkWord (tDec false) op.info sh).isNone && decide (1 < 1 + extraWords op.info sh)) = true ∧
    tReadOf 0x88000000 (fun op sh => (checkWord (tDec false) op.info sh).isNone && decide (1 + extraWords op.info sh < 2) && op.info.is .ctl) = true ∧
    tReadOf tNopW (fun op sh => (checkWord (tDec false) op.info sh).isNone && decide (1 + extraWords op.info sh ≤ 1) && !op.info.is .ctl) = true ∧ hN tHdr1 = 1 := by decide +kernel
theorem met_walk_clauses : Walk .gen tHdr1 1 (tDec false) (tWords tNopW) none ∧ Walk .gen tHdr1 2 (tDec false) [] none := by
  have h : Walk .gen tHdr1 2 (tDec false) [] none := .done (by decide +kernel)
  refine ⟨?_, h⟩
  have hr : ∃ op sh rest, readWord .gen (tWords tNopW ++ List.replicate 9 0) = .ok (op, sh, rest) ∧ checkWord (tDec false) op.info sh = none ∧ extraWords op.info sh = 0 ∧
      needsSlot op.info sh = false ∧ op.info.is .ctl = false := ⟨_, _, _, rfl, by decide +kernel, by decide +kernel, by decide +kernel, by decide +kernel⟩
  obtain ⟨op, sh, rest, h1, h2, h3, h4, h5⟩ := hr
  refine .next h1 h2 ?_ ?_ ?_ ?_ ?_
  · rw [h3]; decide +kernel
  · intro j hj hj'; omega
  · simp [h4]
  · simp [h5]
  · rw [h3]; exact .done (by decide +kernel)
/-- A thread alone in its warp whose clause does not decode, and one whose line cannot be fetched. -/
def tBadClause : State := tPut 0x20000 (leBytes 4 0) (tVotes 0)
def tNoLine : State := tThread (tVotes 0) (fun th => { th with pc := 0x30000000 })
def tVoteOk (s : State) : Bool := tBlk s (fun b => b.saved.isNone && b.twin.isNone && b.stopAt.isEmpty && b.kind == .kernel && b.warps.length == 1 &&
  b.warps.all (fun w => w.threads.length == 1 && w.threads.all (fun th => th.votes && th.cont == 0))) && !(s.busyLanes 1 0).contains 0
theorem met_decode_faults : tVoteOk tBadClause = true ∧ (match tBadClause.fetchLine 0 0 1 tAt0 with
      | (s1, .ok line) => hdrWM (line.getD (linePos tAt0) 0) == 0 && (s1.env? (.thr ⟨1, 0, 0⟩) (hdrSS (line.getD (linePos tAt0) 0)) tAt0 0).any (fun e => clauseFault e.dec tAt0 line == some (1, 0))
      | _ => false) = true ∧ tVoteOk tNoLine = true ∧ (match tNoLine.fetchLine 0 0 1 0x30000000 with | (_, .error x) => x.cause != 0x10 | _ => false) = true := by decide +kernel

/-- A word whose participant owes something. -/
def tSeesWord (s : State) (i : Instr) (q : Op → Issue → Env → Bool) : Bool :=
  match i.parts, s.issues with
  | some (op, _), iss :: _ => iss.lanes.any (fun l => match s.env? l (hdrSS iss.hdr) iss.pc iss.idx with | some e => q op iss e | none => false)
  | _, _ => false
def tOwing (i : Instr) (os : List Owed) : State := tThread (tRun i) (fun th => { th with owed := os })
def tWaitsOn (i : Instr) (v : RegVal) : Bool := tSeesWord (tOwing i [⟨0, 5, false, [v]⟩]) i (fun _ _ e => e.th.owed.any (fun o => o.wr.contains v))
theorem met_slots : tSeesWord (tHdr (tOwing iNop [⟨0, 5, false, []⟩]) 0x40) iNop (fun _ iss e => iss.hdr.getLsbD 6 && e.th.owed.any (fun o => o.slot == 0) &&
      (List.range 16).all (fun j => !(decide (1 ≤ j) && iss.hdr.getLsbD (15 + j)))) = true ∧
    tSeesWord (tOwing (.ld32 (fM 5 4)) (List.replicate 63 ⟨0, 5, false, []⟩)) (.ld32 (fM 5 4)) (fun op _ e => op.info.is .long && decide (e.slot < 6) &&
      decide (63 ≤ e.th.owed.countP (fun o => o.slot == e.slot))) = true := by decide +kernel
theorem met_owed_words : tWaitsOn (.iadd (fA 3 4 5)) (.w 4 0) = true ∧ tWaitsOn (.iadd (fA 3 4 5)) (.w 5 0) = true ∧ tWaitsOn (.iadd (fA 3 4 5)) (.w 3 0) = true ∧
    tWaitsOn (.icmpEq (fA 1 5 4)) (.p 1 false) = true ∧ tWaitsOn (.pand (fA 1 2 3)) (.p 2 false) = true ∧ tWaitsOn (.qaddf (fA 1 7 0)) (.q 1 ⟨0, 0⟩) = true ∧
    tWaitsOn (.qrnd (fA 12 0 0)) (.q 0 ⟨0, 0⟩) = true ∧ tWaitsOn (.atomAdd (fM 5 4)) (.w 5 0) = true ∧ tWaitsOn (.atomAdd (fM 5 4)) (.w 4 0) = true := by decide +kernel

/-- H on a clause of one NOP, with a clause of one NOP behind it; two lanes at two addresses. -/
def tTwice : State :=
  let l := (placedHeader .gen 1 ||| 0x80000000) :: encode iNop ++ [placedHeader .gen 1] ++ encode iNop ++ List.replicate 16 0
  let s := tPut 0x20000 (wordsToBytes (l.take 16)) (tTwo iNop)
  { s with issues := [⟨.lanes 1 0 [0, 1], tAt0, l.take 16, 1, 1⟩], tlbs := [(0, [])] }
def tHLine : List Word := ((placedHeader .gen 1 ||| 0x80000000) :: encode iNop ++ [placedHeader .gen 1] ++ encode iNop ++ List.replicate 16 0).take 16
def tHReady (s : State) : Bool :=
  match iNop.parts, s.issues with
  | some (op, sh), iss :: _ => iss.lanes != [] && decide iss.lanes.Nodup && !s.passWaits iss op sh && iss.lanes.all (tLane s iss op sh) && (iss.after op sh).last && iss.hdr.getLsbD 31
  | _, _ => false
def tWarm : State := (tTwice.fetchLine 0 0 1 (nextClause tAt0 tHLine)).1
theorem met_hold_bit : tHReady tWarm = true ∧ (match tWarm.fetchLine 0 0 1 (nextClause tAt0 tHLine) with
      | (s1, .ok line) => s1 == tWarm && (lineOps false (nextClause tAt0 tHLine) line).all (fun p => !p.2.info.is .coll) &&
          (match tWarm.issues with | iss :: _ => (tSeen tWarm iss).all (fun e => (clauseFault e.dec (nextClause tAt0 tHLine) line).isNone && e.th.stop.isNone) | [] => false)
      | _ => false) = true := by decide +kernel
def tSplit : State := (tTwo iNop).updBlock 1 (fun b => { b with warps := b.warps.map (fun w => { w with threads := w.threads.zipIdx.map (fun x =>
  { x.1 with pc := if x.2 = 0 then 0x20000 else 0x20008 }) }) })
def tSplitM : State := tPut 0x20008 (wordsToBytes (placedHeader .gen 1 :: encode iNop)) tSplit
def tTagged (u : State) : State := { u with tags := u.tags + 1 }
theorem met_hold_split : (match (tTagged tSplitM).startWarp 1 0 [0] 0x20000 (tSplitM.tags + 1) with
      | (s1, some _) => (match (tTagged s1).startWarp 1 0 [1] 0x20008 (s1.tags + 1) with | (_, some _) => true | _ => false)
      | _ => false) = true ∧ (tSplitM.thread? ⟨1, 0, 0⟩).any (fun th => th.live && th.stop.isNone && th.pc == 0x20000) = true ∧
    (tSplitM.thread? ⟨1, 0, 1⟩).any (fun th => th.live && th.stop.isNone && th.pc == 0x20008) = true ∧ tSplitM.collAt 0 0 1 0x20000 = false ∧ tSplitM.collAt 0 0 1 0x20008 = false := by decide +kernel

/-! ## Hypotheses met: merged requests, recording and re-runs -/

/-- Two threads of one warp whose w4 names one word, its translation at hand. -/
noncomputable def iMerge : Instr := .atomAdd (fM 5 4)
def tMergeOf (i : Instr) : State := let s := tW (tPaged (tTwo i)) 4 [0x28000, 0]; (s.access 0 0 1 ⟨.write, true, fmtRaw, true⟩ 4 0x28000 4).1
theorem met_merge_rounds : Met tMergeOf iMerge (fun s _ _ _ es => (atomOf iMerge).isSome && es.length == 2 && !s.memBad [0x28000, 0x28001, 0x28002, 0x28003] && s.clusters.isEmpty &&
    es.all (fun e => e.prot == 0 && e.th.stq.isEmpty && (match s.access e.core e.ctx e.blk ⟨.write, true, fmtRaw, true⟩ 4 0x28000 4 with
      | (s1, .ok (keys, ps)) => s1 == s && keys == [0x28000, 0x28001, 0x28002, 0x28003] && !ps.isEmpty
      | _ => false)) && tBlk s (fun b => b.out.isEmpty)) := met_of (by decide +kernel)
def tReqAt (tag key : Nat) : AtomReq := { tReq (.atom .add) 1 with key := key, parts := [⟨⟨1, 0, 0⟩, tag, [1], 0x28000, 1⟩] }
theorem met_joins : (tReqAt 6 0x28000).key = (tReqAt 9 0x28000).key ∧ (tReqAt 6 0x28000).parts.all (fun x => decide (5 < x.tag)) = true ∧ (tReqAt 5 0x28000).parts.all (fun x => decide (5 < x.tag)) = false ∧
    (tReqAt 6 0x28004).key ≠ (tReqAt 9 0x28000).key := by decide +kernel

/-- A thread of a launch with RECORD, whose context logs at 0x2E000 in one unit of 64 KiB, or re-runs what stands there. -/
def tRecL (l : Launch) : Launch := { l with desc := { l.desc with lflags := 8 } }
def tRecord (re : Bool) (pos : Nat) (i : Instr) : State :=
  tCtx (tLaunched tRecL (tPaged (tRun i))) (fun c => { c with recctl := if re then 1 else 0, recbase := 0x2E000, recsize := 1, recpos := pos, recmap := if re then [(1, 5)] else [] })
def tLogged (type : Nat) (i : Instr) : State := tPut 0x2E000 (recValue type 5 0 0 0x28000 77) (tRecord true 0 i)
noncomputable def iClk : Instr := .clk (fA 4 0 0)
def tRecorded (s : State) (q : Block → Ctx → Bool) : Bool := match s.recorder 1 with | some (b, c, _) => q b c | none => false
theorem met_logged_clock : Lone (tRecord false 0) iClk (fun s _ _ _ l _ => l == .thr ⟨1, 0, 0⟩ && tRecorded s (fun b c => b.primary && !c.recctl.getLsbD 0)) ∧
    Lone (tLogged 5) iClk (fun s _ _ _ l e => l == .thr ⟨1, 0, 0⟩ && tRecorded s (fun b c => c.recctl.getLsbD 0 && c.logged b.lid == some 5 &&
      loggedValue (s.recLog c) 5 5 b.idx 0 e.th.clks == some 77)) := ⟨alone_of (by decide +kernel), alone_of (by decide +kernel)⟩
theorem met_log_full : tRecorded (tRecord false 65536 iClk) (fun b c => !c.recctl.getLsbD 0 && decide (65536 * c.recsize.toNat < c.recpos + 64 * ((tRecord false 65536 iClk).recDue b.ctx + 1))) = true ∧
    (match iClk.parts, (tRecord false 65536 iClk).issues with | some _, iss :: _ => iss.who == .lanes 1 0 [0] | _, _ => false) = true := by decide +kernel
/-- Its value-returning ATOM at the head of an owner's queue. -/
def tRecAtom (s : State) : State :=
  (tThread s (fun th => { th with owed := [tOwe false [.w 3 0]] })).updCluster 0 (fun c => { c with atomQ := [tReq (.atom .add) 1] })
def tRecAtomOk (s : State) (q : Block → Ctx → Bool) : Bool := tRecorded s q && ((s.cluster 0).atomQ == [tReq (.atom .add) 1]) &&
  (s.thread? ⟨1, 0, 0⟩).any (fun th => th.owed.any (fun o => o.tag == 5 && o.wr.length == 1)) && (tReq (.atom .add) 1).kind.size == 4 && (tReq (.atom .add) 1).parts.all (fun p => p.nth != 0)
theorem met_logged_atom : tRecAtomOk (tRecAtom (tRecord false 0 iNop)) (fun b c => b.primary && !c.recctl.getLsbD 0) = true ∧
    tRecAtomOk (tRecAtom (tLogged 4 iNop)) (fun b c => c.recctl.getLsbD 0 && c.logged b.lid == some 5 && loggedValue ((tLogged 4 iNop).recLog c) 4 5 b.idx 0 0 == some 77) = true := by decide +kernel
/-- Entries: one that fits, one that is read back, and the end of a log. -/
theorem met_log_entries : (Tab.find (tRecord false 0 iNop).ctxs 0).any (fun c => (tRecord false 0 iNop).rawKey c 0x2E000 == some 0x2E000) = true ∧ (0x2E000 : DWord).toNat % 65536 + 64 ≤ 65536 ∧
    (Tab.find (tLogged 5 iNop).ctxs 0).any (fun c => (tLogged 5 iNop).rawBytes c 0x2E000 64 == recValue 5 5 0 0 0x28000 77 && decide (0 + 64 ≤ 65536 * c.recsize.toNat) &&
      ((tLogged 5 iNop).rawBytes c 0x2E040 64).headD 0 == 0 && decide (65536 * c.recsize.toNat < 65536 + 64)) = true := by decide +kernel
/-- LAUNCH of a launch with RECORD: without inputs and with one region, with a log that is full, with 17 regions, and on a re-run of an empty log. -/
def tRecLaunch (re : Bool) (pos recin : Nat) (n : Nat) (i : Instr) : State :=
  tCtx (tPut 0x2D000 (tFields 32 [(0, 4, n), (16, 8, 0x28000), (24, 8, 64)]) (tLaunchRec [] [(0x34, 4, 8)] false 0x28000 i)) (fun c =>
    { c with recctl := if re then 1 else 0, recbase := 0x2E000, recsize := 1, recpos := pos, recin := BitVec.ofNat 64 recin })
def tRecPlan (s : State) (l : Lane) (e : Env) (q : State → Ctx → Plan → Bool) : Bool :=
  tPlan s l e (fun r p => !tRecCut p.1 e r && (match p.2 with | .ok x => x.desc.lflags.getLsbD 3 && (Tab.find p.1.ctxs e.ctx).any (fun c => q p.1 c x) | _ => false))
theorem met_recorded : Lone (tRecLaunch false 0 0 0) iLaunch (fun s _ _ _ l e => tRecPlan s l e (fun _ c _ => c.recin == 0 && !c.recctl.getLsbD 0)) ∧
    Lone (tRecLaunch false 0 0x2D000 1) iLaunch (fun s _ _ _ l e => tRecPlan s l e (fun s2 c _ => c.recin != 0 && leVal (s2.rawBytes c c.recin 4) == 1)) ∧
    Lone (tRecLaunch false 65536 0 0) iLaunch (fun s _ _ _ l e => tRecPlan s l e (fun _ c p => decide (65536 * c.recsize.toNat < c.recpos + (64 + p.bytes.length)))) ∧
    Lone (tRecLaunch false 0 0x2D000 17) iLaunch (fun s _ _ _ l e => tRecPlan s l e (fun s2 c _ => c.recin != 0 && decide (16 < leVal (s2.rawBytes c c.recin 4)))) ∧
    Lone (tRecLaunch true 0 0 0) iLaunch (fun s _ _ _ l e => tRecPlan s l e (fun s2 c _ => c.recctl.getLsbD 0 && (s2.recLog c).isEmpty)) :=
  ⟨alone_of (by decide +kernel), alone_of (by decide +kernel), alone_of (by decide +kernel), alone_of (by decide +kernel), alone_of (by decide +kernel)⟩
/-- Window writes while a launch records: logged, with the log full, and on re-runs whose log holds an arrival and none. -/
def tArrEntry (s : State) : State := tPut 0x2E000 (tFields 128 [(0, 1, 3), (4, 4, 64), (8, 6, 5), (0x10, 8, 1)]) s
def tRecLiveIn (s : State) (q : Ctx → Bool) : Bool := !(s.recLive 0).isEmpty && (Tab.find s.ctxs 0).any q
theorem met_logged_arrival : tRecLiveIn (tRecord false 0 iNop) (fun c => !c.recctl.getLsbD 0 && decide (c.recpos + 128 ≤ 65536 * c.recsize.toNat)) = true ∧
    tRecLiveIn (tRecord false 65536 iNop) (fun c => decide (65536 * c.recsize.toNat < c.recpos + 128)) = true ∧
    tRecLiveIn (tRecord true 0 iNop) (fun c => (recArrivals ((tRecord true 0 iNop).recLog c)).isEmpty) = true ∧
    tRecLiveIn (tArrEntry (tRecord true 0 iNop)) (fun c => (recArrivals ((tArrEntry (tRecord true 0 iNop)).recLog c)).length == 1) = true ∧
    ((tArrived (tRecord false 0 iNop)).windowWrite 0 0 (tHostRec [])).isSome = true := by decide +kernel

/-! ## Hypotheses met: roundings, elements, barriers and phases once more -/

theorem met_xu_special : (f32 0x7FC00000).isNan = true ∧ ((f32 0xBF800000).isNan = false ∧ (0xBF800000 : Word).msb = true ∧ (0xBF800000 : Word) ≠ 0x80000000) ∧ f32 0xFF800000 = .inf true ∧
    (0xFF800000 : Word).msb = true := by decide +kernel
/-- Exponents of 2^A at the limits: -149, -127, -126, 127 and 128. -/
def tExp (v : Word) (k : Int) : Bool := match f32 v with | .fin s m e => decide (signInt s (m * 2 ^ e.toNat) = k * 2 ^ (-e).toNat) | _ => false
theorem met_xu_exponents : tExp 0xC3150000 (-149) = true ∧ tExp 0xC2FE0000 (-127) = true ∧ tExp 0xC2FC0000 (-126) = true ∧ tExp 0x42FE0000 127 = true ∧ tExp 0x43000000 128 = true := by decide +kernel
theorem met_xu_rounded : f32 0x3F800000 = .fin false (2 ^ 23) (-23) ∧ f32 0xC0400000 = .fin true (3 * 2 ^ 22) (-22) ∧ (2 ^ 23 : Nat) ≠ 0 := by decide +kernel
/-- Table 4-1 at each format's largest value, and a step above it; a mode whose random fraction is the largest. -/
def tTopStep (x : FormatRow) : Bool := let m := x.top / 2 ^ (x.top.log2 + 1 - x.prec)
  let e : Int := x.minE + (x.top.log2 + 1 - x.prec : Nat)
  let q := max x.minE (e + (m.log2 : Int) + 1 - (x.prec : Int))
  decide (roundMag .rn false m e q * 2 ^ (q - x.minE).toNat ≤ x.top) && decide (x.top < roundMag .rn false (m + 1) e (max x.minE (e + ((m + 1).log2 : Int) + 1 - (x.prec : Int))) *
    2 ^ (max x.minE (e + ((m + 1).log2 : Int) + 1 - (x.prec : Int)) - x.minE).toNat)
theorem met_formats : formatTable.all tTopStep = true ∧ (∀ r, Mode.sr 65535 = .sr r → r < 2 ^ 16) ∧ ((0x7F7F0000 : Word).extractLsb' 0 31).toNat ≤ 0x7F7F0000 := by
  refine ⟨by decide +kernel, fun r h => ?_, by decide +kernel⟩
  injection h with h; omega
/-- Bins: with each flag, with a value in range and at 2^104, and with OVF. -/
def tOver (b : BinBits) : Bool := b.getLsbD 123 || decide (2 ^ 104 ≤ (b.extractLsb' 0 120).toInt.natAbs)
theorem met_drains : (1#128 <<< 120).getLsbD 120 = true ∧ ((3#128 <<< 121).getLsbD 121 = true ∧ (3#128 <<< 121).getLsbD 122 = true ∧ (3#128 <<< 121).getLsbD 120 = false) ∧
    (tOver 5 = false ∧ (5 : BinBits).getLsbD 120 = false) ∧ tOver (1#128 <<< 104) = true ∧ (tOver (1#128 <<< 123) = true ∧ (1#128 <<< 123 : BinBits).getLsbD 122 = false) ∧
    (1#128 <<< 121).getLsbD 122 = false := by decide +kernel

/-- EXIT of a thread in search mode with a part of the loft, in a block of each kind that the rule tells apart. -/
def tLeft (s : State) : State := tThread s (fun th => { th with loftRs := true, search := { th.search with mode := true } })
def iExit : Instr := .exit (fA 0 0 0)
theorem met_exit_kinds : Lone (fun i => tLeft (tRun i)) iExit (fun s _ _ _ l e => l == .thr ⟨1, 0, 0⟩ && e.th.loftRs && e.th.search.mode && tBlk s (fun b => b.prot == 0 && b.kind == .kernel && (Tab.find s.ctxs b.ctx).isSome)) ∧
    Lone (fun i => tProt 1 0 (tLeft (tRun i))) iExit (fun s _ _ _ _ _ => tBlk s (fun b => b.prot != 0)) ∧ Lone (tKind .item) iExit (fun s _ _ _ _ _ => tBlk s (fun b => b.kind == .item)) ∧
    Lone (tKind .pair) iExit (fun s _ _ _ _ e => tBlk s (fun b => b.kind == .pair) && e.th.item.isSome) ∧ Lone tTile iExit (fun s _ _ _ l _ => l == .tile 0 && (s.cluster 0).tile.isSome) :=
  ⟨alone_of (by decide +kernel), alone_of (by decide +kernel), alone_of (by decide +kernel), alone_of (by decide +kernel), alone_of (by decide +kernel)⟩

/-- A walk whose last entry holds an uncorrectable error, with no translation at hand. -/
def tSpoilt : State := { tPaged (tRun iNop) with poison := [2 * ((0x30000 + 8 * 7) / 8)] }
theorem met_spoilt : tSpoilt.tlbHit 0 0 (BitVec.ofNat 64 (tPage 7)) = none ∧ tSpoilt.walkBad 0 (BitVec.ofNat 64 (tPage 7)) = true ∧ tSpoilt.walkBad 0 (BitVec.ofNat 64 (tPage 0)) = false := by decide +kernel
/-- Element bases: odd on a page of format 2, misaligned on a block page, on a page of LOC 3, of another format; and an element on another page than its base, of
another format and of its own. -/
def tEl (va : Nat) (q : DWord → Bool) : Bool := match ((tPaged (tRun iNop)).translate 0 0 (BitVec.ofNat 64 va)).2 with | some (_, pte) => q pte | none => false
def tAskew (va : Nat) (p : DWord) : Bool := (decide (5 ≤ pteFmt p ∧ pteFmt p ≤ 11) && decide (va % 4 ≠ 0)) || (pteFmt p == 2 && decide (va % 2 ≠ 0))
theorem met_element_checks : tEl (tPage 7 1) (tAskew (tPage 7 1)) = true ∧ tEl (tPage 8 2) (tAskew (tPage 8 2)) = true ∧ tEl (tPage 6) (fun p => !tAskew (tPage 6) p && !permitted p .write false) = true ∧
    tEl (tPage 11) (fun p => permitted p .read false && !fmtElem p) = true ∧
    tEl (tPage 7) (fun p => (elemAt p (BitVec.ofNat 64 (tPage 7)) 32768).va == BitVec.ofNat 64 (tPage 8) && elemSpans false (elemAt p (BitVec.ofNat 64 (tPage 7)) 32768) == [(0, 2)]) = true ∧
    tEl (tPage 8) (fun p => pteFmt p == 5) = true ∧ tEl (tPage 7 6) (fun p => (elemAt p (BitVec.ofNat 64 (tPage 7)) 3).va == BitVec.ofNat 64 (tPage 7 6) && permitted p .read false) = true := by decide +kernel
theorem met_element_read : (match (tPaged (tRun iNop)).env? (.thr ⟨1, 0, 0⟩) 0 0x20000 0 with
    | some e => (match (tPaged (tRun iNop)).element e ⟨.read, false, fmtElem, true⟩ (elemSpans false) (BitVec.ofNat 64 (tPage 7)) 3 with | (s1, .ok (_, keys, _)) => s1.clusters.isEmpty && !s1.memBad keys | _ => false)
    | none => false) = true := by decide +kernel
/-- LDE.BF16X2 of which the first element fails, and the second alone: the last element of page 8 is followed by none. -/
def iLde2 : Instr := .ldeBf16x2 (fA 7 4 0xCF 0 32767)
theorem met_lde_each : Lone (tPair (tPage 5)) (.ldeBf16x2 (fA 7 4 0xD2)) (fun s _ _ _ _ e => tErr (s.loadElem e false (e.pair 4) 2)) ∧
    Lone (tPair (tPage 7)) iLde2 (fun s _ _ _ _ e => tOk (s.loadElem e false (e.pair 4) 32767) && tErr ((s.loadElem e false (e.pair 4) 32767).1.loadElem e false (e.pair 4) 32768)) :=
  ⟨alone_of (by decide +kernel), alone_of (by decide +kernel)⟩

/-- Blocks of 16 values: with a NaN, of zeros, with exponent 127 and with the least exponent. -/
def tBlock16 (x : NumVal) : List NumVal := x :: List.replicate 15 (.fin false 0 0)
theorem met_blocks : (tBlock16 .nan).length = 16 ∧ (tBlock16 .nan).contains .nan = true ∧ (tBlock16 (.fin false 1 0))[0]? = some (.fin false 1 0) ∧ below 1 0 (127 - 126) ∧ ¬ below 1 0 (127 - 127) ∧
    below 1 (-149) (1 - 126) := by unfold below; decide +kernel
/-- Values of an issue on pages of each format, with and without SR. -/
theorem met_ste_formats : [0x20, 0x40, 0x60, 0x80, 0x180, 0xA0].map (fun p => pteFmt p) = [1, 2, 3, 4, 12, 5] ∧ pteSr 0x840 = true ∧ (31 : Nat) < 32 := by decide +kernel
/-- STE of one thread that is alone on a block of page 8, and one whose value is in flight on page 7; no store of another thread. -/
noncomputable def iSte : Instr := .steF32 (fA 7 4 0xD3)
def tSteOf (s : State) (es : List Env) (q : SteOut → Bool) : Bool := q (s.steAll false (fA 7 4 0xD3) false es)
theorem met_partial : Met (tPair (tPage 8)) iSte (fun s _ _ iss es => tSteOf s es (fun o => o.vals.length == es.length && o.vals.all (fun x => decide (5 ≤ pteFmt x.dst.pte ∧ pteFmt x.dst.pte ≤ 11) &&
      !s.unheld x.env.ctx x.env.blk x.dst.va x.dst.n) && decide (1 < geoElems 0) && o.vals.length == 1) && iss.lanes.length == 1 && tBlk s (fun b => b.kind == .kernel)) := met_of (by decide +kernel)
theorem met_ste_cells : Met (tPair (tPage 7)) iSte (fun s _ _ _ es => tSteOf s es (fun o => o.faults.isEmpty) && es.all (fun e => e.prot == 0) && s.clusters.isEmpty &&
    (s.pick (fun th => !th.stq.isEmpty)).isEmpty && tBlk s (fun b => b.out.isEmpty)) := met_of (by decide +kernel)

/-- Barrier objects and sync words: misaligned, outside the region and with an uncorrectable error, for each instruction. -/
def tBarS (off : Word) (bad : Bool) (i : Instr) : State := let s := tOff off i; if bad then { s with poison := [2 * (off.toNat / 8) + 1] } else s
def tBars : List Instr := [.bar (fA 0 4 0), .barwait (fA 0 4 5), .bartest (fA 1 4 5)]
def tSws : List Instr := [.swarm (fA 7 4 5), .swwait (fA 0 4 5), .swtest (fA 1 4 5)]
def tBarBad (s : State) (e : Env) (n : Nat) : Bool := s.scrBad ((List.range n).map (fun k => e.core * 262144 + (e.th.rw 4).toNat + k))
def tLoneAll (is : List Instr) (mk : Instr → State) (q : State → Env → Bool) : Bool := is.all (fun i => tAlone (mk i) i (fun _ _ _ _ e => q (mk i) e))
theorem met_barriers_turned : tLoneAll tBars (tBarS 4 false) (fun _ e => decide ((e.th.rw 4).toNat % 8 ≠ 0)) = true ∧
    tLoneAll tBars (tBarS 4096 false) (fun _ e => decide (e.scrBase + e.scrSize < (e.th.rw 4).toNat + 8)) = true ∧
    tLoneAll tBars (tBarS 4088 true) (fun s e => tBarBad s e 8 && decide ((e.th.rw 4).toNat + 8 ≤ e.scrBase + e.scrSize)) = true := by decide +kernel
theorem met_words_turned : tLoneAll tSws (tBarS 8 false) (fun _ e => decide ((e.th.rw 4).toNat % 16 ≠ 0)) = true ∧
    tLoneAll tSws (tBarS 4096 false) (fun _ e => decide (e.scrBase + e.scrSize < (e.th.rw 4).toNat + 16)) = true ∧
    tLoneAll tSws (tBarS 4080 true) (fun s e => tBarBad s e 16 && decide ((e.th.rw 4).toNat + 16 ≤ e.scrBase + e.scrSize)) = true := by decide +kernel

/-- A phase that ends loads the one it names as its NEXT with what waited for it; one it does not name loses that. -/
def tEnded (nx : Nat) : State := tPhased (fun p => { p with ended := true, next := nx, pending := [(0, ⟨1, 0, 0, 0, 0⟩)] })
def tHdrOf (id : Nat) : List Byte := tFields 64 [(0, 6, id), (0x10, 4, 1), (0x20, 6, 3)]
theorem met_phase_at_load : (Tab.find (tEnded 2).ctxs 0).any (fun c => c.phase.any (fun q => q.next == hdrNat (tHdrOf 2) 0 6 && q.pending.any (fun x => x.2 != PhCount.zero))) = true ∧
    (Tab.find (tEnded 9).ctxs 0).any (fun c => c.phase.any (fun q => q.next != hdrNat (tHdrOf 2) 0 6 && !q.pending.isEmpty)) = true ∧ (0 : Nat) < hdrNat (tHdrOf 2) 0x10 4 := by decide +kernel
/-- Requests of several participants, of each kind that the rule tells apart. -/
theorem met_atoms : (tReq (.atom .fadd2) 1).kind = .atom .fadd2 ∧ (tReq .redxF 1).kind = .redxF ∧ (tReq .redxI 1).kind = .redxI ∧ (tReq .binclr 0).kind = .binclr ∧
    (atomNew .add 5 [1]).isSome = true := by decide +kernel

/-! ## Hypotheses met: what consumed errors, commits, moves and banks need -/

/-- A register that the word reads, and a return-stack entry that RET takes, hold an uncorrectable error. -/
def tBadRead (s : State) (i : Instr) : Bool := tWord s i (fun op sh _ _ e => e.badRead op sh && (checkWord e.dec op.info sh).isNone && (!op.info.is .priv || e.sys))
theorem met_bad_read : tBadRead (tThread (tRun (.iadd (fA 3 4 5))) (fun th => { th with badW := [5] })) (.iadd (fA 3 4 5)) = true ∧
    tBadRead (tThread (tRun (.ret (fA 0 0 0))) (fun th => { th with stack := [0x20000, 0x20000], badRet := [1] })) (.ret (fA 0 0 0)) = true := by decide +kernel

/-- A failed access of the Thresher, the launch suspended without a failed item, and still at work. -/
theorem met_fresume_access : Lone (fun i => tLaunchP 3 (tSeq 1 false (.pairAccess 9 0) i)) (.fresume (fA 3 4 0)) (fun s _ _ _ _ e =>
      tSeqIs s e (fun q => q.state == 1 && q.qrec.unit == .pairAccess 9 0) && tPairAt s 3 && (Tab.find s.pairs 9).any (fun p => p.failed.isEmpty)) ∧
    Lone (fun i => tLaunchP 2 (tSeq 1 false (.pairAccess 9 0) i)) (.fresume (fA 3 4 0)) (fun s _ _ _ _ e =>
      tSeqIs s e (fun q => q.state == 1 && q.qrec.unit == .pairAccess 9 0) && tPairAt s 2) := ⟨alone_of (by decide +kernel), alone_of (by decide +kernel)⟩

/-- Stores of a thread: two that wait, one that nothing before it keeps back, one that stands behind another thread's at the same byte. -/
def tStores (out : List (TRef × StoreOp)) : State :=
  (tThread (tRun iNop) (fun th => { th with stq := [⟨[0x28000], [1], none⟩, ⟨[0x28001], [2], none⟩] })).updBlock 1 (fun b => { b with out := out })
theorem met_store_visible : ((tStores []).thread? ⟨1, 0, 0⟩).any (fun th => decide (th.stq.length = 2) && th.stq.all (fun o => o.peer.isNone)) = true ∧
    tBlk (tStores [(⟨1, 0, 1⟩, ⟨[0x28001], [9], none⟩)]) (fun b => b.out.all (fun p => p.1 != ⟨1, 0, 0⟩ && p.2.keys.all (fun k => k != 0x28000))) = true ∧
    tBlk (tStores [(⟨1, 0, 1⟩, ⟨[0x28000], [9], none⟩), (⟨1, 0, 0⟩, ⟨[0x28000], [1], none⟩)]) (fun b => decide (b.out.length = 2)) = true := by decide +kernel
theorem met_second_choice : (choices [tVoter 0 0x20040 0, tVoter 1 0x20000 0, tVoter 2 0x20080 0]).2 = some 0x20040 := by decide

/-- A protected block whose one thread waits at a BAR, since its checkpoint. -/
def tAtBar : State := tThread (tP1 (tRun iNop)) (fun th => { th with hold := some (.bar 8 false true) })
theorem tAtBars {b : Block} (h : b.warps.all (fun w => w.threads.all (fun th => th.owed.isEmpty && th.stop.isNone && th.hold == some (.bar 8 false true))) = true) : AtCommit b := by
  intro w hw th ht
  simp only [List.all_eq_true, Bool.and_eq_true, List.isEmpty_iff, Option.isNone_iff_eq_none, beq_iff_eq] at h
  obtain ⟨⟨h1, h2⟩, h3⟩ := h w hw th ht
  exact ⟨h1, .inr ⟨h2, .inr (.inl ⟨_, _, h3⟩)⟩⟩
theorem met_commit_bar : tBlk tAtBar (fun b => b.prot == 1 && b.kind == .kernel && b.twin.isNone && b.primary &&
      b.warps.all (fun w => w.threads.all (fun th => th.owed.isEmpty && th.stop.isNone && th.live && th.hold == some (.bar 8 false true))) &&
      (b.ckpt.bind (fun ws => ws[0]?.bind (fun w => w.threads[0]?))).any (fun th => th.hold.isNone)) = true ∧
    (tAtBar.barAt 0 8).ph = false ∧ ((tAtBar.scrWrite (atKeys 8 (leBytes 8 (2 ^ 32)))).barAt 0 8).ph = true := by decide +kernel

/-- The two copies of a P2 block at COMMIT; in the second, each copy holds a store of its own. -/
def tCopies (f : Block → Block) : State :=
  match (tHolds (some .commit)).block? 1 with
  | some b => { tHolds (some .commit) with blocks := [(1, { b with prot := 2, twin := some 2, held := [tHeldOp], ckpt := some b.warps }),
      (2, f { b with prot := 2, twin := some 1, primary := false, core := 1, held := [tHeldOp], ckpt := some b.warps })] }
  | none => State.reset
def tCopiesMet (s : State) (q : Block → Block → Bool) : Bool :=
  match s.block? 1, s.block? 2 with
  | some b, some o => b.twin == some 2 && o.twin == some 1 && b.primary && !o.primary && b.prot == 2 && o.prot == 2 && b.kind == .kernel &&
      [b, o].all (fun x => x.warps.all (fun w => w.threads.all (fun th => th.owed.isEmpty && th.stop.isNone && th.hold == some .commit))) &&
      b.warps.any (fun w => w.threads.any (fun th => th.live)) && (Tab.find s.ctxs b.ctx).isSome && o.ctx == b.ctx && q b o
  | _, _ => false
theorem met_twin_commits : tCopiesMet (tCopies id) (fun b o => b.signature == o.signature) = true ∧
    tCopiesMet (tCopies (fun o => { o with held := [] })) (fun b o => b.signature != o.signature && !b.fixed && !b.reexec && !b.badShadow && !o.fixed && !o.reexec && !o.badShadow) = true ∧
    tCopiesMet (tCopies (fun o => { o with held := [], fixed := true })) (fun b o => b.signature != o.signature && o.fixed) = true := by decide +kernel

/-- A forwarding entry whose time has passed. -/
theorem met_forwarding : ((⟨1, 0, 5, []⟩ : Forward).till ≤ 1000) ∧ (1001 : Nat) ≤ (⟨1, 0, 1001, []⟩ : Forward).till := by decide
/-- The places of a thread's registers, of its return-stack entries, and of a shadow bank. -/
theorem met_error_places : (((1 * 8 + 0) * 32 + 0) * 256 + 127 < 2 ^ 240 - 2 ^ 200) ∧ ((127 : Nat) < 128) ∧ ¬ (128 : Nat) < 128 ∧ ((tRun iNop).thread? ⟨1, 0, 0⟩).isSome = true ∧
    ((tRun iNop).block? 1).isSome = true ∧ (0x28000 : Nat) < 2 ^ 200 := by decide +kernel

/-! ## Hypotheses met: q registers, gleaning, stores to peers, held requests -/

/-- The block of an engine's or a tile program's store has nothing to come before it at some bytes. -/
def tStill (s : State) (blk : Nat) (keys : List Nat) : Bool :=
  match s.block? (s.origin blk) with
  | some b => (!b.fixed || b.held.isEmpty) && b.out.all (fun p => p.2.keys.all (fun k => !keys.contains k))
  | none => true
theorem still_of {s : State} {blk : Nat} {keys : List Nat} (h : tStill s blk keys = true) : NothingHeld s blk ∧ NoBlockStores s (s.origin blk) keys := by
  unfold tStill at h
  refine ⟨fun b hb => ?_, fun b hb p hp k hk => ?_⟩
  · rw [hb] at h
    simp only [Bool.and_eq_true, Bool.or_eq_true, Bool.not_eq_true', List.isEmpty_iff] at h
    exact h.1
  · rw [hb] at h
    simp only [Bool.and_eq_true, List.all_eq_true, Bool.not_eq_true', List.contains_eq_mem, decide_eq_false_iff_not] at h
    exact h.2 p hp k hk

/-- Two threads of one warp whose q3 have different windows. -/
def tTwoQ (i : Instr) : State := (tTwo i).updBlock 1 (fun b => { b with warps := b.warps.map (fun w =>
  { w with threads := w.threads.zipIdx.map (fun x => { x.1 with q := x.1.q.setIfInBounds 3 ⟨5, BitVec.ofNat 8 x.2⟩ }) }) })
theorem met_q_windows : Met tTwoQ (.qred (fA 3 0 0)) (fun _ _ _ iss es => es.any (fun x => es.any (fun y => (x.th.rq 3).win != (y.th.rq 3).win)) && iss.lanes.length == 2) ∧
    Met tTwoQ (.qscan (fA 3 0 0)) (fun s _ _ _ es => es.any (fun x => es.any (fun y => (x.th.rq 3).win != (y.th.rq 3).win)) && (s.block? 1).any (fun b => b.kind == .kernel)) :=
  ⟨met_of (by decide +kernel), met_of (by decide +kernel)⟩

/-- The lowest tid stands first. -/
theorem met_uniform_first : Met tTwo (.sadd (fA 3 4 5)) (fun _ _ _ _ es => es.head?.any (fun e0 => es.all (fun e => decide (e0.tid ≤ e.tid)))) := met_of (by decide +kernel)

/-- A choice point to take, and none; a thief that owes nothing above FLOOR; held thieves, all of them and with a victim left. -/
def tPicks (s : State) (q : Option (Nat × Nat × TRef × Choice) → Bool) : Bool :=
  !s.isTwin 1 && (match s.env? (.thr ⟨1, 0, 0⟩) 7 0x20000 1, s.block? 1 with
    | some e, some b => b.warps.all (fun w => decide (w.threads.length ≤ 32)) && q (s.gleanPick e b)
    | _, _ => false)
theorem met_glean_picks : tPicks (tThief [tChoice 3 1] (.glean ⟨0, -1⟩)) (fun p => p.isSome) = true ∧ tPicks (tThief [] (.glean ⟨0, -1⟩)) (fun p => p.isNone) = true := by decide +kernel
theorem met_glean_takes : Lone (tThief [tChoice 3 1]) (.glean ⟨0, -1⟩) (fun s _ _ _ _ e => decide (e.prot = 0) && !s.putOff.contains ⟨1, 0, 0⟩ &&
    (s.targetOk e (targetAt e e.idx (-1))).2 && ((s.targetOk e (targetAt e e.idx (-1))).1.block? e.blk).any (fun b => (b.thread? 0 1).any (fun vt =>
      !vt.owes ((List.range (128 - e.th.search.floor)).map (fun i => Reg.w (e.th.search.floor + i))) &&
      !e.th.owes (.w 1 :: (List.range (128 - e.th.search.floor)).map (fun i => Reg.w (e.th.search.floor + i)))))) := alone_of (by decide +kernel)
def tGleaning (victim : List Choice) (both : Bool) : State :=
  (tThief victim iNop).updBlock 1 (fun b => { b with warps := b.warps.map (fun w =>
    { w with threads := w.threads.zipIdx.map (fun x => { x.1 with hold := if x.2 = 0 ∨ both = true then some (.glean 0x20000 1) else none }) }) })
def tGleanHeld (s : State) (q : Block → Bool) : Bool := tBlk s (fun b => b.saved.isNone && q b) &&
  (match s.thread? ⟨1, 0, 0⟩ with
   | some th => th.live && th.hold == some (.glean 0x20000 1) && (match s.env? (.thr ⟨1, 0, 0⟩) 7 th.pc th.cont with | some e => (s.steal e ⟨1, 0, 0⟩).isNone | none => false)
   | none => false)
theorem met_glean_over : tGleanHeld (tGleaning [] true) (fun b => b.warps.all (fun w => w.threads.all (fun x => x.hold == some (.glean 0x20000 1) && x.stop.isNone && x.search.sheaf.isEmpty))) = true ∧
    tGleanHeld (tGleaning [] false) (fun b => b.warps.any (fun w => w.threads.any (fun x => x.live && x.hold.isNone))) = true := by decide +kernel

/-- A page of another device whose entry in the peer table holds an error. -/
theorem met_checks_poisoned : (match (({ tAwayCopy with poison := [2 * (0x60000 / 8)] } : State).translate 0 0 (BitVec.ofNat 64 (tPage 10))).2 with
    | some (k, pte) => pteLoc pte == 3 && ({ tAwayCopy with poison := [2 * (0x60000 / 8)] } : State).peerBad 0 (k - 3 * 2 ^ 52)
    | none => false) = true := by decide +kernel

/-- Stores to peers: the first of an issue and one that joins, in flight and held; those of an STE. -/
def tPeerSt (i : Instr) : State := tCtx (tPair (tPage 10) i) (fun c => { c with npeers := 1, peers := 0x60000 })
def tJoins : StoreOp := ⟨[3 * 2 ^ 52 + 0x60000], [1], some ((1, 1), [⟨1, 0, 1⟩])⟩
def tFirstOut (s : State) : State := s.updBlock 1 (fun b => { b with out := [(⟨1, 0, 1⟩, tJoins)] })
def tFirstHeld (s : State) : State := s.updBlock 1 (fun b => { b with prot := 1, jcount := 0, held := [⟨0, 16, 1, 0x20000, [1], .store tJoins⟩] })
def tAway16 (s : State) (e : Env) : Bool := match s.access e.core e.ctx e.blk tWrite 16 (addrOf e (fM 8 4) 16) 16 with
  | (_, .ok (keys, _)) => keys.all (fun k => decide (3 * 2 ^ 52 ≤ k))
  | _ => false
theorem met_peer_stores : Lone tPeerSt iSt (fun s _ _ _ l e => l == .thr ⟨1, 0, 0⟩ && decide (e.prot = 0) && tAway16 s e && s.clusters.isEmpty && (s.pick (fun th => !th.stq.isEmpty)).isEmpty) ∧
    Lone (fun i => tFirstOut (tPeerSt i)) iSt (fun s _ _ iss _ e => decide (e.prot = 0) && tAway16 s e && tBlk s (fun b => b.out.any (fun p => p.2.peer.map (fun q => q.1) == some (iss.id, iss.idx)))) ∧
    Lone (fun i => tProt 1 4094 (tPeerSt i)) iSt (fun s _ _ _ _ e => tAway16 s e && tBlk s (fun b => b.held.isEmpty && b.primary && decide (b.jcount + (16 + 7) / 8 ≤ 4096))) ∧
    Lone (fun i => tFirstHeld (tPeerSt i)) iSt (fun s _ _ iss _ e => tAway16 s e && tBlk s (fun b => b.twin.isNone && decide (b.jcount + (16 + 7) / 8 ≤ 4096) &&
      b.held.all (fun h => (peerOfIssue h (iss.id, iss.idx)).isSome))) :=
  ⟨alone_of (by decide +kernel), alone_of (by decide +kernel), alone_of (by decide +kernel), alone_of (by decide +kernel)⟩
theorem met_store_away_not : Lone (fun i => tProt 1 4094 (tPair 0x2FFF0 i)) iSt (fun s _ _ _ _ e => match s.access e.core e.ctx e.blk tWrite 16 (addrOf e (fM 8 4) 16) 16 with
    | (_, .ok (keys, _)) => keys.all (fun k => decide (k < 3 * 2 ^ 52)) && tBlk s (fun b => b.primary)
    | _ => false) := alone_of (by decide +kernel)
theorem met_store_tile_still : Lone (fun i => tW (tPaged (tTile i)) 4 [0x2FFF0, 0]) iSt (fun s _ _ _ l e => l == .tile 0 && (match s.access e.core e.ctx e.blk tWrite 16 (addrOf e (fM 8 4) 16) 16 with
    | (_, .ok (keys, _)) => keys.all (fun k => decide (k < 3 * 2 ^ 52)) && tStill s e.blk keys && s.origin e.blk == e.blk
    | _ => false)) := alone_of (by decide +kernel)
def tTwoPeer (i : Instr) : State :=
  tCtx (tW (tPaged (tTwo i)) 4 [BitVec.ofNat 32 (tPage 14), 0]) (fun c => { c with npeers := 1, peers := 0x60000 })
theorem met_ste_peers : Met (fun i => tTwoPeer i) iSte (fun s _ _ iss es => tSteOf s es (fun o => o.faults.isEmpty && es.all (fun e => !(steCells false o.vals e.m).isEmpty &&
      (steCells false o.vals e.m).all (fun c => decide (3 * 2 ^ 52 ≤ c.1)))) && es.all (fun e => e.prot == 0 && e.lane == .thr ⟨1, e.tid / 32, e.m⟩) && s.clusters.isEmpty &&
    tBlk s (fun b => b.out.all (fun p => p.2.peer.map (fun q => q.1) != some (iss.id, iss.idx)))) := met_of (by decide +kernel)
theorem met_ste_here : Met (tPair (tPage 7)) iSte (fun s _ _ _ es => tSteOf s es (fun o => es.all (fun e => (steCells false o.vals e.m).all (fun c => decide (c.1 < 3 * 2 ^ 52))))) :=
  met_of (by decide +kernel)
/-- A half that is a NaN, and one that is not. -/
theorem met_halves : ((0x7F81#16).extractLsb' 7 8 = 255 ∧ (0x7F81#16).extractLsb' 0 7 ≠ 0) ∧ ¬ ((0x7F80#16).extractLsb' 7 8 = 255 ∧ (0x7F80#16).extractLsb' 0 7 ≠ 0) := by decide

/-- SILOWAIT on pages of each place, without a leaf, and where the walk meets an error. -/
def tTranslates (s : State) (e : Env) (q : Option (Nat × DWord) → Bool) : Bool :=
  !((s.tlbHit e.core e.ctx (e.pair 4)).isNone && s.walkBad e.ctx (e.pair 4)) && decide ((e.b (fA 0 4 0xCF 0 6280)).toNat ≤ 6280) && q (s.translate e.core e.ctx (e.pair 4)).2
theorem met_silowait_leaf : Lone (tSilo 6 (16000 + 1200)) (iSilowait 0xCF 6280) (fun s _ _ _ _ e => tTranslates s e (fun x => x.any (fun y => pteLoc y.2 == 1))) ∧
    Lone (fun i => tCtx (tSilo 10 0 i) (fun c => { c with npeers := 1 })) (iSilowait 0xCF 6280) (fun s _ _ _ _ e => tTranslates s e (fun x => x.any (fun y => pteLoc y.2 == 3))) ∧
    Lone (tSilo 5 0) (iSilowait 0xCF 6280) (fun s _ _ _ _ e => tTranslates s e (fun x => x.isNone)) ∧
    Lone (fun i => { tSilo 6 0 i with poison := [2 * (0 / 8)] }) (iSilowait 0xCF 6280) (fun s _ _ _ _ e => (s.tlbHit e.core e.ctx (e.pair 4)).isNone && s.walkBad e.ctx (e.pair 4)) :=
  ⟨alone_of (by decide +kernel), alone_of (by decide +kernel), alone_of (by decide +kernel), alone_of (by decide +kernel)⟩

/-- Bytes for a peer of two threads of an issue, of which the fence's thread is one. -/
theorem met_fence_peer : Lone (fun i => (tRun i).updBlock 1 (fun b => { b with out := [(⟨1, 0, 1⟩, ⟨[3 * 2 ^ 52], [1], some ((7, 1), [⟨1, 0, 1⟩, ⟨1, 0, 0⟩])⟩)] })) (.fence (fA 0 0xD3 0)) (fun s _ _ _ l _ =>
    l == .thr ⟨1, 0, 0⟩ && tBlk s (fun b => b.out.any (fun p => p.2.peer.any (fun q => q.2.contains ⟨1, 0, 0⟩)))) := alone_of (by decide +kernel)

/-- Who may be granted: a shared request beside shared holders, not beside an exclusive one; an exclusive request only alone. -/
theorem met_grants_each : ((∀ h ∈ [((2 : Nat), false)], h.2 = false) ∧ [((2 : Nat), false)].length < 65535) ∧ ¬ (∀ h ∈ [((2 : Nat), true)], h.2 = false) ∧ ([] : List (Nat × Bool)) = [] ∧
    [((2 : Nat), false)] ≠ [] := by decide

/-- A block that holds a store, a contribution and an addition, in an interval that can be taken back and in one that can not; requests of its threads. -/
def tProtB (p : Nat) (fixed : Bool) (hs : List HeldOp) : State := (tRun iNop).updBlock 1 (fun b => { b with prot := p, fixed := fixed, held := hs })
def tHeldReqs (fixed : Bool) : State := tProtB 1 fixed [⟨0, 4, 0, 0x28000, [1, 0, 0, 0], .store ⟨[0x28000, 0x28001, 0x28002, 0x28003], [1, 0, 0, 0], none⟩⟩,
  ⟨1, 4, 0, 0x28000, [1, 0, 0, 0], .req (tReq (.atom .add) 1)⟩, ⟨2, 16, 0, 0x29000, [0, 0, 128, 63], .req { tReq .redxF 1 with key := 0x29000 }⟩]
theorem met_held_order : [false, true].all (fun x => tBlk (tHeldReqs x) (fun b => b.kind != .pair && b.fixed == x &&
      b.held.all (fun h => match h.act with | .req q => decide (q.key % q.kind.size = 0) | _ => true))) = true ∧
    (({ tReq (.atom .add) 1 with parts := [⟨⟨1, 0, 0⟩, 5, [1], 0x28000, 0⟩] } : AtomReq).parts.all (fun q => q.t.blk == 1 && q.nth == 0)) = true := by decide +kernel

/-! ## Hypotheses met: logical cores, handlers, moves -/

/-- A phase of a job whose logical cluster 0 is held by cluster 1, which has its own too, and whose logical cluster 5 is held by cluster 9. -/
def tHeld13 (cs : Tab Nat) : State := tCtx (tPh 0 (some (tPhase false)) iNop) (fun c => { c with phases := [(1, ⟨7, false, false, false, []⟩)], jobs := [(7, ⟨0, false, false, false, cs⟩)] })
def tHolder (s : State) (core : Nat) (q : List Nat → Bool) : Bool := q ((List.range 256).filter (fun k => s.physCore 0 (4 * k) == core))
theorem met_logical_cores : tHolder (tHeld13 [(0, 1)]) 4 (fun ks => ks == [0, 1]) = true ∧ tHolder (tHeld13 [(0, 9), (5, 9), (9, 10)]) 36 (fun ks => ks == [0, 5]) = true ∧
    tHolder (tHeld13 [(0, 1)]) 0 (fun ks => ks.isEmpty) = true ∧ ((Tab.find (tHeld13 [(0, 1)]).ctxs 0).bind (fun c => c.phase)).isSome = true := by decide +kernel

/-- FWAIT with its buffer on a page of a peer; PTEW whose walk reads an error; TLBINV of an entry that held operations have used. -/
theorem met_fwait_peer : Lone (fun i => tCtx (tQueue [(1, ⟨tFRec, .report⟩)] (tHandler (tPage 10) i)) (fun c => { c with npeers := 1 })) iFwait (fun s _ _ _ l e => l == .thr ⟨1, 0, 0⟩ &&
    tFwait s e (fun s1 keys => (Tab.find s1.ctxs e.ctx).any (fun c => !c.queue.isEmpty) && (s1.pick (fun th => !th.stq.isEmpty)).isEmpty && s1.clusters.isEmpty &&
      keys.all (fun k => decide (3 * 2 ^ 52 ≤ k)))) := alone_of (by decide +kernel)
theorem met_ptew_bad : Lone (fun i => { tHandler 0x20000001 i with poison := [0] }) iPtew (fun s _ _ _ _ e => decide ((e.pair 4).toNat % 4 = 1) && s.memBad [8 * ((e.pair 4).extractLsb' 42 10).toNat]) ∧
    Lone (tHandler 0x20000002) iPtew (fun s _ _ _ _ e => s.poison.isEmpty && decide ((e.pair 4).toNat % 4 = 2)) := ⟨alone_of (by decide +kernel), alone_of (by decide +kernel)⟩
def tTlbHeld (i : Instr) : State :=
  let s := ((tHandler 0x28000 i).translate 0 0 0x28000).1
  match s.block? 1 with
  | some b => { s with blocks := s.blocks ++ [(2, { b with kind := .kernel, prot := 1, core := 0, held := [tHeldOp] })] }
  | none => s
theorem met_tlbinv_due : Lone tTlbHeld (.tlbinv (fA 0 4 0xD1)) (fun s _ _ _ _ e => decide ((e.b (fA 0 4 0xD1)).toNat = 1) &&
    s.blocks.any (fun p => p.2.ctx == e.ctx && p.2.held.any (fun h => h.acts && (Tab.get [] s.tlbs p.2.core).any (fun x => x.ctx == e.ctx && overlaps x.base x.size h.va.toNat (max 1 h.size))))) :=
  alone_of (by decide +kernel)

/-- A vote gives out a number. -/
theorem met_vote_numbers : (match exec (.issueVote 1 0) (tVotes 0) with
    | .next t => t.issues.all (fun i => decide ((tVotes 0).tags < i.id) && decide (i.id ≤ t.tags)) && !t.issues.isEmpty
    | _ => false) = true := by decide +kernel

/-- The access that consumes an error in a protected block. -/
theorem met_consumes : Lone (fun i => tP1 (tRun i)) iNop (fun s _ _ _ l e => e.lane == l && l == .thr ⟨1, 0, 0⟩ && (s.thread? ⟨1, 0, 0⟩).isSome && tBlk s (fun b => b.kind == .kernel && b.prot != 0)) ∧
    (FInfo.acc 0x10 0x28000 .read).cause = 0x10 ∧ (FInfo.acc 0x10 0x28000 .read).imm = none := ⟨alone_of (by decide +kernel), by decide, by decide⟩

/-- Moves to another die, with and without the loft for it there; a protected block moved on its die and saved; both copies of a P2 block saved. -/
def tFar (n : Nat) : State := tCtx (tHolds (some .commit)) (fun c => { c with loft := [1, n, 0, 0], loftUsed := [0, 0, 0, 0] })
def tFarOk (s : State) (q : Bool → Bool) : Bool := tCommits s && tBlk s (fun b => tMovable s b && s.roomAt 300 b && coreDie 300 != coreDie b.core &&
  (Tab.find s.ctxs b.ctx).any (fun c => q (decide (c.loftFree 1 < b.loftSize + commitArea 0 b.warps.length + warpsLoft b.warps)))) && s.mem.wf && s.scr.wf
theorem met_move_far : tFarOk ((tFar 0).updBlock 1 (fun b => { b with loftSize := 64 })) id = true ∧ tFarOk (tFar 1) (fun x => !x) = true := by decide +kernel
def tP1Commit : State := tLofted 1 (tLaunched id (tP1 (tHolds (some .commit))))
theorem met_move_protected : tCommits tP1Commit = true ∧ tBlk tP1Commit (fun b => b.prot != 0 && b.saved.isNone && b.kind == .kernel && !b.grid && !tP1Commit.forked 1 && tP1Commit.roomAt 5 b &&
      coreDie 5 == coreDie b.core && b.held.all (fun h => match h.act with | .store o => o.peer.isNone | _ => false) &&
      (Tab.find tP1Commit.ctxs b.ctx).any (fun c => decide (20480 * b.warps.length ≤ c.loftFree (coreDie b.core)))) = true ∧ tP1Commit.mem.wf = true ∧ tP1Commit.scr.wf = true := by decide +kernel
def tCopies0 : State := let s := tCopies id; tLofted 1 ((s.updBlock 1 (fun b => { b with held := [] })).updBlock 2 (fun b => { b with held := [] }))
theorem met_save_copies : tCopiesMet tCopies0 (fun b o => b.held.isEmpty && o.held.isEmpty && b.saved.isNone && o.saved.isNone && !b.grid && !tCopies0.forked 1 &&
    (List.range 4).all (fun die => (Tab.find tCopies0.ctxs b.ctx).any (fun c => decide ((if coreDie b.core = die then 20480 * b.warps.length else 0) +
      (if coreDie o.core = die then 20480 * o.warps.length else 0) ≤ c.loftFree die)))) = true := by decide +kernel
/-- What the commit and the visibility of stores need: nothing held that has to come before. -/
theorem met_store_still : NothingHeld (tStores []) 1 := (still_of (keys := []) (by decide +kernel)).1
theorem met_serve_still : (tServes (tReq (.atom .add) 1) 1) = true ∧ tBlk (tServed (tReq (.atom .add) 1) 1) (fun b => b.held.isEmpty) = true ∧ (tServed (tReq (.atom .add) 1) 1).origin 1 = 1 := by decide +kernel

/-! ## Hypotheses met: work that waits, groups, plans, places and dispatch -/

/-- Work that waits for the commit of a thread that holds something: a record, items and a launch; a thread that holds nothing. -/
def tAfterReady : State := { tReadies [tReadyRec] [] with blocks := tKept.blocks, launches := [(1, tAfter tLaunch1)] }
theorem met_work_waits : tBlk tKept (fun b => b.primary && b.held.any (fun h => h.tid == 0 && (match h.act with | .store o => !o.keys.isEmpty && o.peer.isNone | _ => false)) &&
      b.held.all (fun h => h.tid != 33 && (match h.act with | .store o => o.peer.isNone | _ => false))) = true ∧
    tAfterReady.blocks.any (fun p => p.1 == 1 && p.2.epoch == 0) = true ∧ (Tab.find tAfterReady.launches tReadyRec.lid).any (fun l => l.after.contains (1, 0)) = true ∧
    (let s := tKept.updCluster 1 (fun c => { c with gather := [{ tGather 1 with after := [(1, 0)] }] })
     (s.die (coreDie 4)).ready.isEmpty && (s.cluster (coreCluster 4)).formed.isEmpty && (s.cluster (coreCluster 4)).gather.all (fun g => g.after.contains (1, 0))) = true := by decide +kernel

/-- Tables of process groups: this device as rank 0 of two, without it, with it twice, with a bad shape, with no rank and too many, and ones that cannot be read. -/
def tGroupAt (hs es : List (Nat × Nat × Nat)) : State :=
  tPut 0x29000 (tFields 64 ([(0, 4, 7), (4, 4, 2), (8, 2, 2), (0xA, 2, 1), (0xC, 2, 1)] ++ hs) ++ tFields 16 es) (tPaged (tRun iNop))
def tGroupIs (s : State) (base : DWord) (q : List Byte → Except FInfo (List Byte) → Bool) : Bool :=
  match unitReader 0 s 64 base 64 with
  | (s1, .ok h) => q h (unitReader 0 s1 8 (base + 64) (8 * field h 4 4)).2
  | _ => false
def tOwns (s : State) (n : Nat) (es : List Byte) : Nat := ((List.range n).filter (fun r => field es (8 * r) 8 % 2 ^ 24 == s.dev.fid && field es (8 * r) 8 / 2 ^ 24 % 16 == 0)).length
def tShape (h es : List Byte) : Bool := field h 0 4 != 0 && field h 8 2 * field h 0xA 2 * field h 0xC 2 == field h 4 4 && field h 0xE 50 == 0 &&
  (List.range (field h 4 4)).all (fun r => decide (field es (8 * r) 8 < 2 ^ 28))
def tGroupHas (s : State) (q : Bool → Nat → Bool) : Bool := (Tab.find s.ctxs 0).any (fun c => c.fn == 0) &&
  tGroupIs s 0x29000 (fun h x => match x with | .ok es => q (tShape h es) (tOwns s 2 es) | _ => false)
theorem met_group_tables : tGroupHas (tGroupAt [] [(8, 8, 9)]) (fun x n => x && n == 1) = true ∧ tGroupHas (tGroupAt [] [(0, 8, 8), (8, 8, 9)]) (fun x n => x && n == 0) = true ∧
    tGroupHas (tGroupAt [] []) (fun x n => x && n == 2) = true ∧ tGroupHas (tGroupAt [(8, 2, 1)] [(8, 8, 9)]) (fun x _ => !x) = true ∧
    tGroupHas (tGroupAt [] [(8, 8, 2 ^ 28)]) (fun x _ => !x) = true ∧
    tGroupIs (tGroupAt [(4, 4, 0)] []) 0x29000 (fun h _ => field h 4 4 == 0) = true ∧ tGroupIs (tGroupAt [(4, 4, 16385)] []) 0x29000 (fun h _ => decide (16384 < field h 4 4)) = true ∧
    tErr (unitReader 0 (tGroupAt [] []) 64 0x29004 64) = true ∧
    tGroupIs { tGroupAt [] [] with poison := [2 * (0x29040 / 8)] } 0x29000 (fun _ x => match x with | .error _ => true | _ => false) = true := by decide +kernel

/-- Descriptors at 0x28040 for PlanResults, with the loft and the clusters that are given. -/
def tPlanS (ds : List (Nat × Nat × Nat)) (loft : List Nat) (sick : Bool) : State :=
  let s := tCtx (tPut 0x28040 (tDesc ds) (tPaged (tRun iNop))) (fun c => { c with loft := loft })
  if sick then { s with clusters := (List.range 256).map (fun k => (k, { Cluster.new with healthy := decide (k = 7) })) } else s
def tPlanIs (s : State) (q : LDesc → Ctx → Bool) : Bool := match unitReader 0 s 64 0x28040 64 with
  | (s1, .ok bs) => (Tab.find s1.ctxs 0).any (q (LDesc.of bs))
  | _ => false
def tNoLog (d : LDesc) (c : Ctx) : Bool := d.lflags.getLsbD 3 && (c.recbase == 0 || c.recsize == 0)
def tNoLoft (d : LDesc) (c : Ctx) : Bool := c.loft.all (fun u => decide (u * 65536 < loftNeed d))
def tCanHold (s : State) (d : LDesc) (c : Ctx) (cl m : Nat) : Bool := decide (cl < 256) && (s.cluster cl).healthy && decide (m * loftNeed d ≤ c.loft.getD (cl / 64) 0 * 65536)
theorem met_plan_refused : tErr (unitReader 0 (tPlanS [] [1, 1, 1, 1] false) 64 0x28044 64) = true ∧ tPlanIs (tPlanS [(0x1E, 1, 33)] [1, 1, 1, 1] false) (fun d _ => !d.ok) = true ∧
    tPlanIs (tPlanS [(0x38, 8, 0x2A000)] [1, 1, 1, 1] false) (fun d _ => d.ok && d.group != 0) = true ∧
    tErr ((tPlanS [(0x38, 8, 0x2A000)] [1, 1, 1, 1] false).readGroup 0 (unitReader 0) 0x2A000) = true ∧
    tPlanIs (tPlanS [(0x34, 4, 8)] [1, 1, 1, 1] false) (fun d c => d.ok && d.group == 0 && tNoLog d c) = true ∧
    tPlanIs (tPlanS [(0x24, 4, 65600)] [1, 1, 1, 1] false) (fun d c => d.ok && !tNoLog d c && tNoLoft d c) = true ∧
    tPlanIs (tPlanS [(0x24, 4, 64)] [0, 1, 1, 1] true) (fun d c => d.ok && !tNoLog d c && !tNoLoft d c && !d.lflags.getLsbD 2 && d.lflags.toNat % 4 == 0 &&
      (List.range 256).all (fun cl => !tCanHold (tPlanS [(0x24, 4, 64)] [0, 1, 1, 1] true) d c cl 1)) = true := by decide +kernel
theorem met_plan_fits : tPlanIs (tPlanS [] [1, 1, 1, 1] true) (fun d c => d.ok && !tNoLog d c && !tNoLoft d c && tCanHold (tPlanS [] [1, 1, 1, 1] true) d c 7 1) = true ∧
    tPlanIs (tPlanS [(0x34, 4, 2)] [3, 3, 0, 0] false) (fun d c => d.ok && !tNoLoft d c && d.lflags.toNat % 4 == 2 && tCanHold (tPlanS [(0x34, 4, 2)] [3, 3, 0, 0] false) d c 0 1 &&
      tCanHold (tPlanS [(0x34, 4, 2)] [3, 3, 0, 0] false) d c 64 1) = true ∧ (0 : Nat) / 64 ≠ 64 / 64 := by decide +kernel
/-- A share of a launch of GRID, which is placed whole. -/
def tGridD : LDesc := LDesc.of (tDesc [(0x34, 4, 4)])
def tGridS (n : Nat) : State := { tRun iNop with blocks := [], ctxs := (tPlanS [] [1, 1, 1, 1] false).ctxs, launches := [(1, { tLaunch1 with desc := tGridD, hi := n, curD := 0, placed := 0 })] }
def tChain (s : State) : Nat → State
  | 0 => s
  | k + 1 => ((tChain s k).placeNext 1).getD State.reset
theorem met_grid : tGridD.ok = true ∧ tGridD.lflags.getLsbD 2 = true ∧ ((tChain (tGridS 2) 0).placeNext 1).isSome = true ∧ ((tChain (tGridS 2) 1).placeNext 1).isSome = true := by decide +kernel
theorem met_grid_stops : ((tChain (tGridS 3) 1).placeNext 1).isSome = true ∧ ((tChain (tGridS 3) 2).placeNext 1).isNone = true := by decide +kernel
theorem met_places_rest : (tGridS 2).launches.all (fun p => !p.2.complete && !p.2.victim && !(tGridS 2).lidCancelled p.1 && p.2.after.isEmpty && p.2.rest == 2) = true := by decide +kernel

/-- Regions: the lowest place between two, and none. -/
theorem met_regions : fitRegion [(0, 16), (64, 16)] 32 = some 16 ∧ fitRegion [(0, 262144)] 16 = none ∧ fitRegion [(0, 262144)] 0 = some 0 := by decide +kernel
/-- Blocks like block 1 on core 0, with a region of 16 bytes: 8 of them, and 7. -/
def tCrowd (n : Nat) : State := { tRun iNop with blocks := (List.range n).filterMap (fun k => ((tRun iNop).block? 1).map (fun b => (k + 1, { b with scrBase := 16 * k, scrSize := 16 }))) }
theorem met_core : (tCrowd 8).coreFits 0 1 16 = none ∧ (tCrowd 7).coreFits 0 1 16 = some 112 ∧ (tCrowd 7).coreFits 0 2 16 = none ∧ (tCrowd 7).blocks.all (fun p => p.2.core == 0 && p.2.saved.isNone && p.2.ckpt.isNone && p.2.slices == 1) = true := by
  decide +kernel
/-- The first core: in cluster 0, where core 0 is taken, on the cluster that follows it in package order, and none for a loft that no die has. -/
theorem met_first_core : (Tab.find (tCrowd 8).ctxs 0).isSome = true ∧ (tCrowd 8).findCore 0 1 16 0 none = some (1, 0) ∧ (tCrowd 8).findCore 0 1 16 0 (some 0) = some (32, 0) ∧
    (tCrowd 8).findCore 0 1 16 (2 ^ 40) none = none ∧ ({ tCrowd 0 with dev := { Device.new with siloLoad := some ⟨0, 0, 0, 0⟩ } } : State).findCore 0 1 16 0 none = some (256, 0) := by decide +kernel

/-- Copies of a block: on two clusters, with no second one, and where the second one's place is taken; the last block placed. -/
def tTwoD (loft : List Nat) (sick : List Nat) : State :=
  { tRun iNop with ctxs := (tPlanS [] loft false).ctxs, clusters := sick.map (fun k => (k, { Cluster.new with healthy := false })),
                   launches := [(1, { tLaunch1 with desc := LDesc.of (tDesc [(0x34, 4, 2)]), curD := 0, placed := 0 })] }
def tTwinAt (s : State) (q : Nat → Nat → Option (Nat × Nat) → Bool) : Bool := (Tab.find s.launches 1).any (fun l => l.next.isSome && l.desc.lflags.toNat % 4 == 2 &&
  (s.block? (s.tags + 1)).isNone && (Tab.find s.ctxs 0).any (fun c => (List.range 4).all (fun k =>
    let free := c.loft.getD k 0 * 65536 - c.loftUsed.getD k 0
    decide (free < loftNeed l.desc) || decide (2 * loftNeed l.desc ≤ free))) &&
  (match s.findCore l.ctx ((l.desc.threads + 31) / 32) l.desc.scratch (loftNeed l.desc) none with
    | some (core, base) => q core base (s.findCore l.ctx ((l.desc.threads + 31) / 32) l.desc.scratch (loftNeed l.desc) (some (core / 4)))
    | none => false))
/-- Region bases of the copies of block 1, moved to the second copy's core. -/
def tTaken (n : Nat) : State := let s := tTwoD [3, 0, 0, 0] []; s.updBlock 1 (fun b => { b with core := 32, scrBase := 0, scrSize := n })
theorem met_twins : tTwinAt (tTwoD [3, 0, 0, 0] []) (fun core _ x => core == 0 && x.any (fun y => decide (y.1 = 32)) && (tTwoD [3, 0, 0, 0] []).blocks.all (fun q => q.2.core != 32)) = true ∧
    tTwinAt (tTwoD [3, 0, 0, 0] ((List.range 63).map (fun k => k + 1))) (fun _ _ x => x.isNone) = true ∧
    tTwinAt (tTaken 16) (fun core base x => core == 0 && base == 0 && x.any (fun y => decide (y.1 = 32)) && (tTaken 16).blocks.any (fun q => q.2.core == 32 && q.2.saved.isNone && q.2.scrBase == 0 && q.2.scrSize == 16)) = true ∧
    (Tab.find (tLaunched id (tRun iNop)).launches 1).any (fun l => l.next.isNone) = true := by decide +kernel
theorem met_place_none : (Tab.find (tTwoD [0, 0, 0, 0] []).launches 1).any (fun l => l.next.isSome &&
    ((tTwoD [0, 0, 0, 0] []).findCore l.ctx ((l.desc.threads + 31) / 32) l.desc.scratch (loftNeed l.desc) none).isNone) = true := by decide +kernel

/-- Two units that wait, and one that fits no core; partial item warps, open and waiting for a commit. -/
def tFitting (s : State) (core : Nat) : List Waiting := ((s.die (coreDie core)).ready.map Waiting.ready ++ (s.cluster (coreCluster core)).formed.map Waiting.items).filter (fun w => (s.startOn core w).isSome)
theorem met_dispatch_best : (tFitting (tReadies [tReadyRec, { tReadyRec with lid := 2 }] [tGather 32]) 5).length = 3 := by decide +kernel
theorem met_dispatch_full : tFitting { tReadies [tReadyRec] [] with ctxs := [] } 5 = [] ∧ (({ tReadies [tReadyRec] [] with ctxs := [] } : State).die (coreDie 5)).ready ≠ [] := by decide +kernel
def tPartial (after : List (Nat × Nat)) : State := { tKept with launches := [(1, tLaunch1)] }.updCluster 1 (fun c => { c with gather := [{ tGather 1 with after := after }] })
theorem met_dispatch_partial : (tPartial []).dies = [] ∧ ((tPartial []).cluster 1).formed = [] ∧ ((tPartial []).cluster 1).gather.find? (fun g => g.after.isEmpty) = some (tGather 1) ∧
    ((tPartial [(1, 0)]).cluster 1).gather.all (fun g => g.after.any (fun a => (tPartial [(1, 0)]).block? a.1 |>.any (fun b => b.epoch == a.2))) = true := by decide +kernel

/-- Units that start: a task, one on a die under a Silo load, with no room, a launch whose descriptor fails and one that goes. -/
def tUnits (fs ds : List (Nat × Nat × Nat)) : State := tCtx (tPut 0x28040 (tDesc ds) (tReadies [{ tReadyRec with task := TaskRec.of (tTask ([(8, 8, 0x28040), (0x1C, 4, 1)] ++ fs)) }] []))
  (fun c => { c with loft := [1, 1, 1, 1] })
def tUnitPlan (s : State) (q : State × Except FInfo Plan → Bool) : Bool := (s.die 0).ready.all (fun r => r.task.flags.toNat % 4 == 1 &&
  q (s.plan (unitReader r.ctx) ⟨r.ctx, r.graph, r.phase, r.job, false, []⟩ { r.task with graph := 0, phase := 0, job := 0 }))
theorem met_units_start : (tReadies [tReadyRec] []).dev.siloLoad.isNone = true ∧ (Tab.find (tReadies [tReadyRec] []).launches tReadyRec.lid).any (fun l => l.after.isEmpty) = true ∧
    ({ tReadies [tReadyRec] [] with dev := { Device.new with siloLoad := some ⟨0, 0, 0, 0⟩ } } : State).dev.siloLoad.any (fun l => l.die == coreDie 5) = true ∧
    (tReadies [tReadyRec] []).coreFits 5 1 256 = some 0 ∧ (Tab.find (tReadies [tReadyRec] []).ctxs 0).isSome = true ∧ ((tReadies [tReadyRec] []).cluster 1).healthy = true ∧
    (tCrowd 8).coreFits 0 1 256 = none := by decide +kernel
theorem met_units_launch : tUnitPlan (tUnits [] [(0x1E, 1, 33)]) tErr = true ∧ tUnitPlan (tUnits [] []) (fun p => match p.2 with | .ok p => !p.desc.lflags.getLsbD 3 | _ => false) = true := by decide +kernel
theorem met_items_start : (tReadies [] [tGather 32]).coreFits 5 1 0 = some 0 ∧ (tCrowd 8).coreFits 0 1 0 = none ∧ (tGather 32).after = [] := by decide +kernel

/-! ## Hypotheses met: cancels and messages -/

/-- Level 5, 6 or 7 of code 2, 3 or 4 around launch 2, whose block runs beside the issuer's, with an inner graph and phase and what else a cancel stops. -/
def tWithin (f : Launch → Launch) (g : Ctx → Ctx) (i : Instr) (code : Nat) : State :=
  let s := tOther (tRun i)
  let s := { s with launches := [(2, f { tLaunch1 with count := 1, graph := 5, phase := 6, job := 7 })] }
  tW (tCtx s (fun c => g { c with graphs := [(5, ⟨6, false, false, false, []⟩)], phases := [(6, ⟨7, false, false, false, []⟩)], jobs := [(7, ⟨0, false, false, false, []⟩)] }))
    4 [BitVec.ofNat 32 (code + 3), 0]
def tCancels (code : Nat) (s : State) (e : Env) (q : Ctx → Level → Bool) : Bool := decide ((e.b (fA 3 4 (BitVec.ofNat 8 (0xD0 + code)))).toNat = code) &&
  levelNamed s e code ((e.pair 4).toNat % 2 ^ 48) == code + 3 && s.blocks.all (fun p => p.2.stopCause.isNone) && (Tab.find s.ctxs e.ctx).any (fun c =>
    (Tab.find (if code = 2 then c.graphs else if code = 3 then c.phases else c.jobs) (code + 3)).any (fun x => q c x))
def tSomeLive (s : State) : Bool := (Tab.find s.launches 2).any (fun x => x.ctx == 0 && !x.complete) && (s.block? 2).any (fun b => b.lid == 2 && b.primary && b.kind == .kernel &&
  b.warps.any (fun w => w.threads.any (fun th => th.live)))
theorem met_cancel_levels : Lone (fun i => tWithin id id i 2) (iCancel 0xD2) (fun s _ _ _ _ e => tCancels 2 s e (fun _ x => !x.complete) && tSomeLive s) ∧
    Lone (fun i => tWithin id id i 3) (iCancel 0xD3) (fun s _ _ _ _ e => tCancels 3 s e (fun c x => !x.complete && c.graphs.any (fun g => g.2.parent == 6 && !g.2.complete)) && tSomeLive s) ∧
    Lone (fun i => tWithin id id i 4) (iCancel 0xD4) (fun s _ _ _ _ e => tCancels 4 s e (fun c x => !x.complete && c.phases.any (fun p => p.2.parent == 7 && !p.2.complete)) && tSomeLive s) :=
  ⟨alone_of (by decide +kernel), alone_of (by decide +kernel), alone_of (by decide +kernel)⟩
theorem met_cancel_levels_not : Lone (fun i => tWithin id (fun c => { c with graphs := [(5, ⟨6, true, false, false, []⟩)] }) i 2) (iCancel 0xD2) (fun s _ _ _ _ e => tCancels 2 s e (fun _ x => x.complete)) ∧
    Lone (fun i => tWithin (fun l => { l with complete := true }) id i 3) (iCancel 0xD3) (fun s _ _ _ _ e => tCancels 3 s e (fun c _ => c.phase.isNone) &&
      s.launches.all (fun p => p.2.complete) && s.dies.isEmpty && s.clusters.isEmpty) := ⟨alone_of (by decide +kernel), alone_of (by decide +kernel)⟩
/-- A phase that goes on, a queued record of KIND 1 and a MSGREM of the level. -/
def tAllLeft (i : Instr) : State :=
  let s := tWithin id (fun c => { c with phase := some { tPhase false with id := 6 } }) i 3
  (s.updDie 0 (fun d => { d with ready := [{ tReadyRec with task := TaskRec.of (tTask [(0x1C, 4, 1)]), phase := 6, lid := 2 }] })).updCluster 0 (fun c => { c with msgs := [{ tOp 2 1 with lid := 2 }] })
theorem met_cancel_all : Lone tAllLeft (iCancel 0xD3) (fun s _ _ _ _ e => tCancels 3 s e (fun c x => !x.complete && c.phase.any (fun p => !p.ended && p.id == 6)) && tSomeLive s &&
    s.dies.any (fun d => d.2.ready.any (fun r => r.task.flags.toNat % 4 == 1 && r.ctx == e.ctx && r.phase == 6)) && s.clusters.any (fun c => c.2.msgs.any (fun m => m.kind == 2 && m.lid == 2))) :=
  alone_of (by decide +kernel)

/-- CANCEL and COUNTR of code 0: the own block, block 3 of its launch, running, stopped, without a live thread, not placed, abandoned and placed. -/
def tSelf (id : Nat) (f : Block → Block) (l : Launch → Launch) (i : Instr) : State :=
  let s := tOther (tLaunched l (tRun i))
  let s := s.updBlock 1 (fun b => { b with idx := 1 })
  tW (s.updBlock 2 (fun b => f { b with lid := 1, idx := 3 })) 4 [BitVec.ofNat 32 id, 0]
def tSelfD (n : Nat) (l : Launch) : Launch := { l with desc := LDesc.of (tDesc [(0x10, 4, 4)]), hi := 4, placed := n, curD := n }
def tNames0 (s : State) (e : Env) (id k : Nat) (q : Block → Bool) : Bool := decide ((e.b (fA 3 4 0xD0)).toNat = 0) && (e.pair 4).toNat % 2 ^ 48 == id &&
  (s.block? k).any (fun b => b.primary && b.twin.isNone && !s.forked k && q b) && (s.block? e.blk).any (fun o => s.blocks.all (fun p => p.1 == k ||
    !(p.2.lid == o.lid && p.2.idx == id && p.2.primary && p.2.kind != .item && p.2.kind != .pair)))
def tLives0 (b : Block) : Bool := b.warps.any (fun w => w.threads.any (fun th => th.live))
def tStops0 (b : Block) : Bool := b.warps.any (fun w => w.threads.any (fun th => th.live && th.stop.isSome))
def tStopAll (b : Block) : Block := { b with warps := b.warps.map (fun w => { w with threads := w.threads.map (fun th => { th with stop := some (tStop 0x10 1 false false) }) }) }
def tExitAll (b : Block) : Block := { b with warps := b.warps.map (fun w => { w with threads := w.threads.map (fun th => { th with live := false }) }) }
theorem met_cancel_blocks : Lone (tSelf 0 id id) (iCancel 0xD0) (fun s _ _ _ _ e => e.blk == 1 && tNames0 s e 0 1 (fun b => tLives0 b && !tStops0 b)) ∧
    Lone (tSelf 3 id id) (iCancel 0xD0) (fun s _ _ _ _ e => tNames0 s e 3 2 (fun b => b.idx == 3 && tLives0 b && !tStops0 b && b.kind == .kernel) && (s.thread? ⟨2, 0, 0⟩).any (fun th => th.hold == some (.tlwait 0 0 1))) ∧
    Lone (tSelf 3 tExitAll id) (iCancel 0xD0) (fun s _ _ _ _ e => tNames0 s e 3 2 (fun b => b.idx == 3 && !tLives0 b)) ∧
    Lone (tSelf 3 tStopAll id) (iCancel 0xD0) (fun s _ _ _ _ e => e.blk == 1 && tNames0 s e 3 2 (fun b => tStops0 b)) :=
  ⟨alone_of (by decide +kernel), alone_of (by decide +kernel), alone_of (by decide +kernel), alone_of (by decide +kernel)⟩
theorem met_cancel_none : Lone (tSelf 2 id (tSelfD 2)) (iCancel 0xD0) (fun s _ _ _ _ e => (e.pair 4).toNat % 2 ^ 48 == 2 && s.blocks.all (fun p => p.2.idx != 2) && (Tab.find s.launches 1).any (fun x =>
      !x.cancelled && decide (x.lo ≤ 2 ∧ 2 < x.hi) && x.skips.isEmpty && x.curZ == 0 && decide (x.curD ≤ 3) && hilbert x.desc.order 15 == (3, 0))) ∧
    Lone (tSelf 2 id (fun l => { tSelfD 2 l with skips := [2] })) (iCancel 0xD0) (fun s _ _ _ _ _ => (Tab.find s.launches 1).any (fun x => x.skips.contains 2)) := ⟨alone_of (by decide +kernel), alone_of (by decide +kernel)⟩
theorem met_countr_blocks : Lone (tSelf 3 id id) (iCountr 0xD0) (fun s _ _ _ _ e => tNames0 s e 3 2 (fun b => b.idx == 3)) ∧
    Lone (tSelf 2 id (fun l => { tSelfD 4 l with bads := [2] })) (iCountr 0xD0) (fun s _ _ _ _ e => (e.pair 4).toNat % 2 ^ 48 == 2 && s.blocks.all (fun p => p.2.idx != 2) &&
      (Tab.find s.launches 1).any (fun x => x.bads.contains 2 && decide (x.lo ≤ 2 ∧ 2 < max 1 x.hi) && x.skips.isEmpty && x.cuts.isEmpty && !x.cancelled)) ∧
    Lone (tSelf 9 id (tSelfD 4)) (iCountr 0xD0) (fun s _ _ _ _ _ => (Tab.find s.launches 1).any (fun x => decide (max 1 x.hi ≤ 9))) :=
  ⟨alone_of (by decide +kernel), alone_of (by decide +kernel), alone_of (by decide +kernel)⟩

/-- MSGSEND: a descriptor, a group and a source that fail, the group's table spoilt, a source that holds an error, and a store to the peer that the message follows. -/
theorem met_send_fails : Lone (fun i => tW (tMsg (tSend 1 0x29000 (16 * 4096)) i) 4 [0x28004, 0]) iSend (fun s _ _ _ l e => l == .thr ⟨1, 0, 0⟩ && decide (e.prot = 0) && !s.enginePosting (coreCluster e.core) 4 &&
      tErr (rawReader e (s.settle ⟨1, 0, 0⟩) 32 (e.pair 4) 32)) ∧
    Lone (tMsg (tSend 1 0x29000 (16 * 4096) ++ [(0, 8, 0x28044)])) iSend (fun s _ _ _ l e => tMsgAt s l e (fun s1 bs => field bs 0x1C 4 == 16 * 4096 &&
      tErr (s1.readGroup e.ctx (rawReader e) (BitVec.ofNat 64 (field bs 0 8))))) ∧
    Lone (fun i => { tMsgNear (tSend 1 0x29000 (16 * 4096)) i with poison := [2 * (0x29008 / 8)] }) iSend (fun s _ _ _ l e => tMsgAt s l e (fun s1 bs => tGrp s1 e bs (fun s2 g => tOwn s g 1 &&
      tSource s2 e 64 0x29000 64 (fun s3 keys => tErr (s3.readBytes e 0x29000 keys) && (s3.block? e.blk).any (fun b => b.held.isEmpty && b.out.isEmpty) &&
        (Tab.find s3.ctxs e.ctx).any (fun c => c.phase.isNone) && s3.clusters.all (fun c => c.2.msgs.isEmpty))))) := ⟨alone_of (by decide +kernel), alone_of (by decide +kernel), alone_of (by decide +kernel)⟩
def tFollows (i : Instr) : State := tCtx ((tPut 0x60000 (leBytes 8 0 ++ leBytes 8 4) (tMsgNear (tSend 1 0x29000 (16 * 4096)) i)).updBlock 1 (fun b =>
  { b with out := [(⟨1, 0, 1⟩, ⟨[3 * 2 ^ 52, 3 * 2 ^ 52 + 1], [1, 2], some ((9, 1), [⟨1, 0, 1⟩])⟩)] })) (fun c => { c with npeers := 1, peers := 0x60000 })
theorem met_send_follows : Lone tFollows iSend (fun s _ _ _ l e => tMsgAt s l e (fun s1 bs => tGrp s1 e bs (fun s2 g => tOwn s g 1 &&
    tSource s2 e 64 0x29000 64 (fun s4 keys => tOk (s4.readBytes e 0x29000 keys) && (Tab.find s4.ctxs e.ctx).any (fun c => (peerOf s4.mem c 0).any (fun p => (g.ranks[1]?).any (fun x => p.1 == x.1)) &&
      !s4.peerBad e.ctx 0) && (s4.block? e.blk).any (fun b => b.ctx == e.ctx && b.held.isEmpty && b.out.length == 1))))) := alone_of (by decide +kernel)

/-- MSGREM: SRC on a page of another format, DST with a window beyond the limits, windows that differ, a source that holds an error, and ranks that no link leads to. -/
def tRemS (s1 : State) (e : Env) (bs : List Byte) (src : Nat) (n : Nat) (q : State → Group → List Nat → Bool) : Bool := tGrp s1 e bs (fun s2 g =>
  match s2.access e.core e.ctx e.blk ⟨.read, false, fmtBin true, true⟩ 16 (BitVec.ofNat 64 src) (16 * n) with | (s3, .ok (keys, _)) => q s3 g keys | _ => false)
def tRemKey : Nat := (((tPaged (tRun iNop)).translate 0 0 (BitVec.ofNat 64 (tPage 11))).2.map (fun x => x.1)).getD 0
theorem met_rem_source : Lone (tMsgNear (tRem 1 1 ++ [(8, 8, 0x29000)])) iRem (fun s _ _ _ l e => tMsgAt s l e (fun s1 bs => tGrp s1 e bs (fun s2 _ =>
      tErr (s2.access e.core e.ctx e.blk ⟨.read, false, fmtBin true, true⟩ 16 (BitVec.ofNat 64 (field bs 8 8)) 16)))) ∧
    Lone (tMsgNear (tRem 1 1 0x29000)) iRem (fun s _ _ _ l e => tMsgAt s l e (fun s1 bs => tRemS s1 e bs (tPage 11) 1 (fun s3 _ keys => match s3.readBytes e (BitVec.ofNat 64 (tPage 11)) keys with
      | (s4, _) => tErr (s4.access e.core e.ctx e.blk ⟨.write, false, fmtBin true, true⟩ 16 0x29000 16)))) ∧
    Lone (fun i => { tMsgNear (tRem 1 1) i with poison := [2 * (tRemKey / 8)] }) iRem (fun s _ _ _ l e => tMsgAt s l e (fun s1 bs => tRemS s1 e bs (tPage 11) 1 (fun s3 _ keys =>
      tErr (s3.readBytes e (BitVec.ofNat 64 (tPage 11)) keys)))) ∧
    Lone (tMsg (tRem 1 1)) iRem (fun s _ _ _ l e => tMsgAt s l e (fun s1 bs => tGrp s1 e bs (fun _ g => !tOwn s g 1 && g.me == 0))) ∧
    Lone (tMsgNear (tRem 1 1 ++ [(0, 8, 0x28044)])) iRem (fun s _ _ _ l e => tMsgAt s l e (fun s1 bs => tErr (s1.readGroup e.ctx (rawReader e) (BitVec.ofNat 64 (field bs 0 8))))) :=
  ⟨alone_of (by decide +kernel), alone_of (by decide +kernel), alone_of (by decide +kernel), alone_of (by decide +kernel), alone_of (by decide +kernel)⟩

/-! ## Hypotheses met: arrivals, pairs, links, steps and logs -/

/-- An M1 whose walk meets an error; the block of an engine's stores has nothing to come before them. -/
theorem met_m1_spoilt : ({ tPaged (tRun iNop) with poison := [0] } : State).walkBad 0 0x28000 = true ∧ (0x28000 : DWord).toNat % 65536 + [1#8].length ≤ 65536 := by decide +kernel
theorem met_engine_still : tStill tRound 1 ((List.range 16).map (fun k => 0x28000 + k)) = true ∧ tStill (tPS (tEmit 2) []) 1 ((List.range 12).map (fun k => 0x29000 + k)) = true ∧
    tStill (tPS (tBin2 5) []) 1 ((List.range 4).map (fun k => 0x29000 + k)) = true ∧ tStill (tServing ⟨[], [], false, none⟩) 1 ((List.range 16).map (fun k => 0x28000 + k)) = true ∧
    tRound.origin 1 = 1 := by decide +kernel

/-- PLAUNCH of a block inside a cancelled launch. -/
theorem met_plaunch_cut : Lone (fun i => tLaunched (fun l => { l with cancelled := true }) (tPlaunch [(8, 4, 65536)] i)) iPlaunch (fun s _ _ _ l e =>
    tPArea s l e (fun s3 d => d.bad.isNone && tFits s3 e d && s3.blkCut e.blk)) := alone_of (by decide +kernel)
/-- Launches under a Silo load, with a share that has stopped, and with a record to post at a share's Thresher or at the source's. -/
def tLoadDie (s : State) : State := { s with dev := { s.dev with siloLoad := some ⟨0, 0, 0, 4096⟩ } }
def tPostBy (l c : Nat) (s : State) : State := tCtx s (fun x => { x with waiting := [⟨tFRec, .pairAccess l c⟩] })
theorem met_pair_held : (tLoadDie (tPS (tPL (tPD []) 0) [])).dev.siloLoad.any (fun x => (tPL (tPD []) 0).phys.any (fun k => x.die == k / 64)) = true ∧
    (tPL (tPD []) 1).desc.clusters ∈ { tPL (tPD []) 1 with accFaults := [1] }.accFaults ∧ ¬ (tPL (tPD []) 1).desc.clusters ∈ { tPL (tPD []) 1 with accFaults := [0] }.accFaults ∧
    (tPostBy 9 0 (tPS (tPL (tPD []) 1) [])).thPosting 0 = true ∧ 0 < (tSrc 1).desc.sourceWords - (tSrc 1).got.length ∧ (tPL (tPD []) 1).desc.sourceWords - (tPL (tPD []) 1).got.length = 0 := by
  decide +kernel
/-- Launches with a failed access, at each stage: at rest, and with a share that goes on. -/
def tStuck (p : PairLaunch) : PairLaunch := { p with accFaults := [0] }
theorem met_pair_suspends : [tStuck (tPL (tPD []) 1), tStuck tDrained, tStuck (tEmit 2)].all (fun p => (tPS p []).pairQuiet 9 p && p.desc.clusters == 1) = true ∧
    ({ tPL (tPD []) 1 with accFaults := [1] }.desc.clusters ∈ { tPL (tPD []) 1 with accFaults := [1] }.accFaults) := by decide +kernel
/-- Two clusters' shares, of which the second has not stopped. -/
def tTwoShares (st : Nat) : PairLaunch := { tPL (tPD [(8, 4, 3), (0x6C, 4, 2)]) st with phys := [0, 1], accFaults := [0] }
theorem met_pair_goes_on : (tTwoShares 1).desc.clusters = 2 ∧ (tPS (tTwoShares 1) []).pairQuiet 9 (tTwoShares 1) = true ∧
    (Tab.get [] (tTwoShares 1).tests 1).length ≠ (partOf ((tTwoShares 1).desc.candidates (tTwoShares 1).got).cands 2 1).length ∧ Tab.get 0 (tTwoShares 4).pos 1 ≠ (tTwoShares 4).desc.drainSize 1 := by
  decide +kernel

/-- A fence's holds: a message on its way to a peer of its thread, and of another's. -/
def tDue (m : Nat) : State := (tRun iNop).updCluster 0 (fun c => { c with m1Due := [([⟨1, 0, m⟩], 0, 0, 5)] })
theorem met_fence_due : (tDue 0).clusters.any (fun c => c.2.m1Due.any (fun d => d.1.contains ⟨1, 0, 0⟩)) = true ∧ (tDue 1).clusters.all (fun c => c.2.m1Due.all (fun d => !d.1.contains ⟨1, 0, 0⟩)) = true ∧
    (tDue 0).clusters.any (fun c => c.2.m1Due.any (fun d => d.2.2.2 == 5)) = true := by decide +kernel
theorem met_grants_short : 25 < [10, 20].sum ∧ ((10 * 25 / 30 : Nat) < 10) ∧ (7 : Nat) < 8 ∧ (1024 * 7 + 8 : Nat) / 2048 * 256 + (1024 * 7 + 8) % 256 < 2 ^ 40 := by decide
theorem met_scrub_places : (0x28000 : Nat) < 2 ^ 52 ∧ (0x400 : Nat) < 0x608 ∧ 2 ^ 52 ≤ 2 ^ 52 + 5 ∧ (2 ^ 52 + 5 : Nat) < 2 ^ 200 := by decide
/-- Rings before a new size: empty, one whose entries a smaller one holds, one whose entries it does not. -/
def tRingOf (h t : Nat) : FnRegs := { FnRegs.new with evSize := 128, evHead := h, evTail := t }
def tRingKept (g : FnRegs) (n : Nat) : Bool := (g.evHead == g.evTail && !g.evFull) || decide (g.evSize ≤ n) || (decide (g.evTail < g.evHead) && decide (g.evHead ≤ n) && decide (g.evHead - g.evTail < n))
theorem met_ring_sizes : tRingKept (tRingOf 100 100) 64 = true ∧ tRingKept (tRingOf 60 10) 64 = true ∧ tRingKept (tRingOf 100 10) 64 = false ∧ (64 : Nat) = 2 ^ (0 + 6) ∧
    (tRingOf 0 0).pend = [] := by decide +kernel
theorem met_handler_clusters : ((tHost false [] []).handlerCluster 0).isSome = true ∧ (tAllSick.handlerCluster 0).isNone = true ∧
    ((tLoadDie (tHost false [] [])).handlerCluster 0).any (fun k => k / 64 != 0) = true := by decide +kernel

/-- Two lanes of an issue at a word that concerns both: the one that has come first waits, and at one word they go on as one. -/
noncomputable def iSync : Instr := .st32 (fM 8 4)
noncomputable def tHalfAt (m idx : Nat) : Issue := ⟨.lanes 1 0 [m], tAt0, placedLine (tCls iSync) (encode iSync), idx, 1⟩
noncomputable def tJoint (k : Nat) : State := { tTwo iSync with issues := [tHalfAt 0 1, tHalfAt 8 k], agenda := [.pass 0] }
theorem met_joint : (tHalfAt 0 1).joint = true ∧ (tHalfAt 0 1).mate (tHalfAt 8 1) = true ∧ (match decode (tHalfAt 0 1).cls (tHalfAt 0 1).words with | .ok (i, _) => decide (i = iSync) | _ => false) = true := by
  decide +kernel
theorem met_apart_words : (tPass.issues.head?).any (fun iss => !iss.joint) = true := by decide +kernel

/-- Recording: an atomic's block holds nothing; a window write in the log of a re-run that is taken, with no room for it, and an M1. -/
def tM1Entry (s : State) : State := tPut 0x2E000 (tFields 128 [(0, 1, 3), (4, 4, 64), (8, 6, 5), (0x10, 8, 1), (0x18, 8, 0x2A000)]) s
theorem met_logged_still : tBlk (tRecAtom (tRecord false 0 iNop)) (fun b => b.held.isEmpty && !b.fixed) = true ∧ (tRecAtom (tRecord false 0 iNop)).origin 1 = 1 := by decide +kernel
def tReplays (s : State) (q : State → RecEntry → Bool) : Bool := tRecLiveIn s (fun c => c.recctl.getLsbD 0 &&
  ((recArrivals (s.recLog c))[c.recpos]?).any (q { s with dev := { s.dev with arrivals := s.dev.arrivals + 1 }, ctxs := Tab.upd s.ctxs 0 (fun c => { c with recpos := c.recpos + 1 }) }))
theorem met_replayed : tReplays (tArrEntry (tRecord true 0 iNop)) (fun s2 x => decide (x.addr.toNat < 4096) && (s2.windowWrite 0 x.addr.toNat x.content).isSome) = true ∧
    tReplays ((tArrEntry (tRecord true 0 iNop)).updDie 0 (fun d => { d with ready := List.replicate 65536 tReadyRec })) (fun s2 x => decide (x.addr.toNat < 4096) && (s2.windowWrite 0 x.addr.toNat x.content).isNone) = true := by
  decide +kernel
theorem met_replayed_m1 : tReplays (tM1Entry (tRecord true 0 iNop)) (fun _ x => decide (4096 ≤ x.addr.toNat)) = true := by decide +kernel
end Sys2Proof.Tests
end

section
/-!
PROOF. How a w or a predicate result of a GEN instruction reaches its thread, in the terms of the statements, and what the integer, shift and
bit-field functions of the model are as integers and bit by bit (R76 to R83).
-/

namespace Sys2Proof.Proofs
open Sys2Proof.Machine Sys2Proof.Spec

/-! ## How a result reaches a thread -/

theorem Does.mono {i : Instr} {ok : Env → Prop} {R R' : List Env → Env → Thread → Prop} (h : Does i ok R)
    (hR : ∀ es e th, R es e th → R' es e th) : Does i ok R' := by
  intro s op sh iss rest es hr hq hs hok
  obtain ⟨t, hx, hol, hth⟩ := h s op sh iss rest es hr hq hs hok
  refine ⟨t, hx, hol, fun l hl e he => ?_⟩
  obtain ⟨th, hre, hlane⟩ := hth l hl e he
  exact ⟨th, hR es e th hre, hlane⟩

theorem pushY_eq_pushed (th : Thread) (v : Word) : th.pushY v = pushed th v := by
  simp [Thread.pushY, pushed, Thread.ry, Nat.min_comm, Nat.add_comm]

theorem result_toW (f : FmtA) (th : Thread) (v : Word) : th.result v (toW f.wbs f.d [v]) = wResult f th v := by
  cases hw : f.wbs <;> simp [Thread.result, toW, wResult, hw, Thread.puts, Thread.put, withW, pushY_eq_pushed]

theorem result_toP (f : FmtA) (th : Thread) (v : Bool) : th.result (boolWord v) (toP f.wbs f.d v) = pResult f th v := by
  cases hw : f.wbs
  · by_cases h7 : f.d.toNat % 8 = 7 <;>
      simp [Thread.result, toP, pResult, hw, Thread.puts, Thread.put, withP, pushY_eq_pushed, boolWord, BitVec.twoPow_eq, h7]
  · simp [Thread.result, toP, pResult, hw, Thread.puts, pushY_eq_pushed, boolWord]

/-- An instruction completes in every participant with a w result that is as `P` says of the values of A, B and D. -/
def Computes (i : Instr) (f : FmtA) (P : Word → Word → Word → Word → Prop) : Prop :=
  Does i (fun _ => True) (fun _ e th => ∃ v, P (e.a f) (e.b f) (e.d f.d) v ∧ th = wResult f e.th v)

section Alu
-- `x` is the instruction's own function of the model: naming it unfolds `exec` and that function one after the other.
variable {i : Instr} {op : Op} {f : FmtA} {P : Word → Word → Word → Word → Prop}

theorem alu3_computes (x : State → Host.Outcome State Fault Refusal) {g : Word → Word → Word → Word}
    (hp : i.parts = some (op, .a f)) (hf : fixes op (.a f) = false) (hx : ∀ s, exec i s = x s)
    (hd : ∀ s, x s = alu3 op f g s) (hg : ∀ a b d, P a b d (g a b d)) : Computes i f P :=
  Does.mono (genW_does hp hf fun s => (hx s).trans (hd s)) fun _ e th h => ⟨_, hg (e.a f) (e.b f) (e.d f.d), by rw [h, result_toW]⟩

theorem alu2_computes (x : State → Host.Outcome State Fault Refusal) {g : Word → Word → Word}
    (hp : i.parts = some (op, .a f)) (hf : fixes op (.a f) = false) (hx : ∀ s, exec i s = x s)
    (hd : ∀ s, x s = alu2 op f g s) (hg : ∀ a b d, P a b d (g a b)) : Computes i f P :=
  alu3_computes (g := fun a b _ => g a b) x hp hf hx hd hg

theorem alu1_computes (x : State → Host.Outcome State Fault Refusal) {g : Word → Word}
    (hp : i.parts = some (op, .a f)) (hf : fixes op (.a f) = false) (hx : ∀ s, exec i s = x s)
    (hd : ∀ s, x s = alu1 op f g s) (hg : ∀ a b d, P a b d (g a)) : Computes i f P :=
  alu3_computes (g := fun a _ _ => g a) x hp hf hx hd hg

/-- A GEN instruction completes in every participant with the predicate `r` of what the participant sees. -/
theorem genP_pResult (x : State → Host.Outcome State Fault Refusal) {v r : Env → Bool} (hp : i.parts = some (op, .a f))
    (hf : fixes op (.a f) = false) (hx : ∀ s, exec i s = x s) (hd : ∀ s, x s = laneStep op (.a f) (genP f v) s) (hv : ∀ e, v e = r e) :
    Does i (fun _ => True) (fun _ e th => th = pResult f e.th (r e)) :=
  Does.mono (genP_does hp hf fun s => (hx s).trans (hd s)) fun _ e _ h => by rw [h, result_toP, hv]

end Alu

/-! ## Integers (Table 3-2) -/

theorem add_eq_lo32 (a b : Word) : a + b = lo32 (a.toNat + b.toNat) := by
  simp [lo32, BitVec.ofInt_add]

theorem sub_eq_lo32 (a b : Word) : a - b = lo32 ((a.toNat : Int) - b.toNat) := by
  simp [lo32, Int.sub_eq_add_neg, BitVec.ofInt_add, BitVec.ofInt_neg, BitVec.sub_eq_add_neg]

theorem mul_eq_lo32 (a b : Word) : a * b = lo32 (a.toNat * b.toNat) := by
  simp [lo32, BitVec.ofInt_mul]

theorem mulAdd_eq_lo32 (a b d : Word) : a * b + d = lo32 (a.toNat * b.toNat + d.toNat) := by
  simp [lo32, BitVec.ofInt_add, BitVec.ofInt_mul]

/-- The high word of a 64-bit two's-complement value is its floor quotient by 2^32. -/
theorem extractHigh_ofInt (x : Int) : (BitVec.ofInt 64 x).extractLsb' 32 32 = lo32 (x / 2 ^ 32) := by
  apply BitVec.eq_of_toNat_eq
  simp only [lo32, BitVec.extractLsb'_toNat, BitVec.toNat_ofInt, Nat.shiftRight_eq_div_pow]
  omega

theorem extractHigh_ofNat (a b : Word) :
    (BitVec.ofNat 64 (zx a * zx b)).extractLsb' 32 32 = lo32 ((a.toNat : Int) * b.toNat / 2 ^ 32) := by
  rw [← extractHigh_ofInt, ← Int.natCast_mul, BitVec.ofInt_natCast, zx, zx]

theorem minI_eq (a b : Word) : (if ltI b a then b else a) = if a.toInt ≤ b.toInt then a else b := by
  simp only [ltI, sx, decide_eq_true_eq, ← Int.not_le, ite_not]

theorem minN_eq (a b : Word) : (if ltN b a then b else a) = if a.toNat ≤ b.toNat then a else b := by
  simp only [ltN, zx, decide_eq_true_eq, ← Nat.not_le, ite_not]

theorem maxI_eq (a b : Word) : (if ltI a b then b else a) = if b.toInt ≤ a.toInt then a else b := by
  simp only [ltI, sx, decide_eq_true_eq, ← Int.not_le, ite_not]

theorem maxN_eq (a b : Word) : (if ltN a b then b else a) = if b.toNat ≤ a.toNat then a else b := by
  simp only [ltN, zx, decide_eq_true_eq, ← Nat.not_le, ite_not]

theorem clampI32_eq (v : Int) : clampI32 v = clampTo (-2 ^ 31) (2 ^ 31 - 1) v := by
  unfold clampI32 clampTo
  congr 1
  omega

theorem clampN32_eq (v : Int) : clampN32 v = clampTo 0 (2 ^ 32 - 1) v := by
  unfold clampN32 clampTo
  congr 1
  omega

/-! ## Shifts, bit by bit (Table 3-3) -/

theorem shl_bit (a b : Word) {k : Nat} (hk : k < 32) :
    (if zx b ≥ 32 then 0 else a <<< zx b).getLsbD k = (decide (b.toNat ≤ k) && a.getLsbD (k - b.toNat)) := by
  have h : (if zx b ≥ 32 then 0 else a <<< zx b) = a <<< b.toNat := by
    split
    next hb => exact (BitVec.shiftLeft_eq_zero hb).symm
    next => rfl
  rw [h, BitVec.getLsbD_shiftLeft]
  simp [hk, ← decide_not]

theorem shr_bit (a b : Word) (k : Nat) : (if zx b ≥ 32 then 0 else a >>> zx b).getLsbD k = a.getLsbD (k + b.toNat) := by
  have h : (if zx b ≥ 32 then 0 else a >>> zx b) = a >>> b.toNat := by
    split
    next hb => exact (BitVec.ushiftRight_eq_zero hb).symm
    next => rfl
  rw [h, BitVec.getLsbD_ushiftRight, Nat.add_comm]

theorem sar_bit (a b : Word) {k : Nat} (hk : k < 32) :
    (a.sshiftRight (min (zx b) 31)).getLsbD k = a.getLsbD (min 31 (k + b.toNat)) := by
  simp only [zx, BitVec.getLsbD_sshiftRight, BitVec.msb_eq_getLsbD_last]
  grind

theorem rol_bit (a b : Word) {k : Nat} (hk : k < 32) :
    (a.rotateLeft (zx b % 32)).getLsbD k = a.getLsbD ((k + 32 - b.toNat % 32) % 32) := by
  simp only [zx, BitVec.getLsbD_rotateLeft]
  grind

theorem brev_bit (a : Word) {k : Nat} (hk : k < 32) : a.reverse.getLsbD k = a.getLsbD (31 - k) := by
  rw [BitVec.getLsbD_reverse, BitVec.getMsbD_eq_getLsbD]
  simp [hk]

/-! ## Bit fields, bit by bit (R79) -/

theorem fieldOf_bit (a b : Word) (k : Nat) :
    (fieldOf a b).testBit k = (decide (k < fieldWidth b) && a.getLsbD (fieldPos b + k)) := by
  simp [fieldOf, Nat.testBit_mod_two_pow, Nat.testBit_div_two_pow, BitVec.testBit_toNat, Nat.add_comm]

theorem bfxN_bit (a b : Word) {k : Nat} (hk : k < 32) :
    (BitVec.ofNat 32 (fieldOf a b)).getLsbD k = (decide (k < fieldWidth b) && a.getLsbD (fieldPos b + k)) := by
  rw [BitVec.getLsbD_ofNat, fieldOf_bit]
  simp [hk]

theorem sextNat_eq_toInt {n : Nat} (hn : n ≠ 0) (v : Nat) : sextNat n v = (BitVec.ofNat n v).toInt := by
  obtain ⟨m, rfl⟩ := Nat.exists_eq_succ_of_ne_zero hn
  have hlt : v % 2 ^ (m + 1) < 2 ^ (m + 1) := Nat.mod_lt _ (Nat.two_pow_pos _)
  have hpow : 2 ^ (m + 1) = 2 * 2 ^ m := by omega
  simp only [sextNat, BitVec.toInt_eq_toNat_cond, BitVec.toNat_ofNat, Nat.succ_eq_add_one, Nat.add_sub_cancel]
  push_cast
  split <;> split <;> omega

theorem bfxI_bit (a b : Word) {k : Nat} (hk : k < 32) :
    (fieldSigned a b).getLsbD k = (decide (fieldWidth b ≠ 0) && a.getLsbD (fieldPos b + min k (fieldWidth b - 1))) := by
  unfold fieldSigned
  split
  next hw => simp [hw]
  next hw =>
    rw [sextNat_eq_toInt hw, ← BitVec.signExtend, BitVec.getLsbD_signExtend, BitVec.msb_eq_getLsbD_last]
    simp only [BitVec.getLsbD_ofNat, fieldOf_bit]
    rcases Nat.lt_or_ge k (fieldWidth b) with hkw | hkw
    · have : min k (fieldWidth b - 1) = k := by omega
      simp [hk, hkw, hw, this]
    · have : min k (fieldWidth b - 1) = fieldWidth b - 1 := by omega
      have hlast : fieldWidth b - 1 < fieldWidth b := by omega
      simp [hk, Nat.not_lt.2 hkw, hw, this, hlast]

theorem fieldMask_bit (b : Word) {k : Nat} (hk : k < 32) :
    (BitVec.ofNat 32 ((2 ^ fieldWidth b - 1) * 2 ^ fieldPos b)).getLsbD k =
      (decide (fieldPos b ≤ k) && decide (k - fieldPos b < fieldWidth b)) := by
  rw [BitVec.getLsbD_ofNat, Nat.testBit_mul_two_pow, Nat.testBit_two_pow_sub_one]
  simp [hk]

theorem bfi_bit (a b d : Word) {k : Nat} (hk : k < 32) : (fieldInsert a b d).getLsbD k =
    if fieldPos b ≤ k ∧ k < fieldPos b + fieldWidth b then a.getLsbD (k - fieldPos b) else d.getLsbD k := by
  simp only [fieldInsert, BitVec.getLsbD_or, BitVec.getLsbD_and, BitVec.getLsbD_not, BitVec.getLsbD_shiftLeft, fieldMask_bit b hk, hk]
  grind

/-! ## Bit counts -/

/-- How far a predicate holds from 0 on, among the numbers below `n`. -/
theorem length_takeWhile_range (p : Nat → Bool) (n : Nat) :
    let l := ((List.range n).takeWhile p).length
    l ≤ n ∧ (∀ k, k < l → p k = true) ∧ (l < n → p l = false) := by
  have hl : ((List.range n).takeWhile p).length = (List.range n).findIdx (fun k => !p k) := by
    rw [List.takeWhile_eq_take_findIdx_not, List.length_take, Nat.min_eq_left List.findIdx_le_length]
  simp only [hl]
  refine ⟨by simpa using List.findIdx_le_length (xs := List.range n) (p := fun k => !p k), fun k hk => ?_, fun hn => ?_⟩
  · simpa using List.not_of_lt_findIdx hk
  · have := List.findIdx_getElem (xs := List.range n) (p := fun k => !p k) (w := by simpa using hn)
    rw [List.getElem_range] at this
    simpa using this

theorem popCount_eq (a : Word) : popCount a = (List.range 32).countP (fun k => a.getLsbD k) :=
  List.countP_eq_length_filter.symm

theorem leadZeros_spec (a : Word) : leadZeros a ≤ 32 ∧ (∀ k, k < leadZeros a → a.getLsbD (31 - k) = false) ∧
    (leadZeros a < 32 → a.getLsbD (31 - leadZeros a) = true) := by
  simpa [leadZeros] using length_takeWhile_range (fun k => !a.getLsbD (31 - k)) 32

theorem trailZeros_spec (a : Word) : trailZeros a ≤ 32 ∧ (∀ k, k < trailZeros a → a.getLsbD k = false) ∧
    (trailZeros a < 32 → a.getLsbD (trailZeros a) = true) := by
  simpa [trailZeros] using length_takeWhile_range (fun k => !a.getLsbD k) 32

end Sys2Proof.Proofs
end

section
/-!
PROOF. The integer, shift, bit-field and count instructions, the compares, the predicate operations and the selects (R76 to R83).
-/

namespace Sys2Proof.Proofs
open Sys2Proof.Machine Sys2Proof.Spec

/-- R76, R77, R79, R83, Table 3-2. -/
theorem integerResults : IntegerResults := by
  intro i f v h
  suffices hc : Computes i f (fun a b d w => w = v a b d) from
    Does.mono hc fun _ e th ⟨w, hw, hth⟩ => hw ▸ hth
  unfold intResult at h
  split at h <;> cases h
  · exact alu2_computes (execIadd f) rfl rfl (fun _ => rfl) (fun _ => rfl) fun a b _ => add_eq_lo32 a b
  · exact alu2_computes (execIaddSatI f) rfl rfl (fun _ => rfl) (fun _ => rfl) fun a b _ => clampI32_eq _
  · exact alu2_computes (execIaddSatN f) rfl rfl (fun _ => rfl) (fun _ => rfl) fun a b _ => clampN32_eq _
  · exact alu2_computes (execIsub f) rfl rfl (fun _ => rfl) (fun _ => rfl) fun a b _ => sub_eq_lo32 a b
  · exact alu2_computes (execIsubSatI f) rfl rfl (fun _ => rfl) (fun _ => rfl) fun a b _ => clampI32_eq _
  · exact alu2_computes (execIsubSatN f) rfl rfl (fun _ => rfl) (fun _ => rfl) fun a b _ => clampN32_eq _
  · exact alu2_computes (execImul f) rfl rfl (fun _ => rfl) (fun _ => rfl) fun a b _ => mul_eq_lo32 a b
  · exact alu2_computes (execImulHiI f) rfl rfl (fun _ => rfl) (fun _ => rfl) fun a b _ => extractHigh_ofInt _
  · exact alu2_computes (execImulHiN f) rfl rfl (fun _ => rfl) (fun _ => rfl) fun a b _ => extractHigh_ofNat a b
  · exact alu3_computes (execImad f) rfl rfl (fun _ => rfl) (fun _ => rfl) fun a b d => mulAdd_eq_lo32 a b d
  · exact alu2_computes (execIminI f) rfl rfl (fun _ => rfl) (fun _ => rfl) fun a b _ => minI_eq a b
  · exact alu2_computes (execIminN f) rfl rfl (fun _ => rfl) (fun _ => rfl) fun a b _ => minN_eq a b
  · exact alu2_computes (execImaxI f) rfl rfl (fun _ => rfl) (fun _ => rfl) fun a b _ => maxI_eq a b
  · exact alu2_computes (execImaxN f) rfl rfl (fun _ => rfl) (fun _ => rfl) fun a b _ => maxN_eq a b
  · exact alu2_computes (execAnd f) rfl rfl (fun _ => rfl) (fun _ => rfl) fun _ _ _ => rfl
  · exact alu2_computes (execOr f) rfl rfl (fun _ => rfl) (fun _ => rfl) fun _ _ _ => rfl
  · exact alu2_computes (execXor f) rfl rfl (fun _ => rfl) (fun _ => rfl) fun _ _ _ => rfl
  · exact alu2_computes (execAndn f) rfl rfl (fun _ => rfl) (fun _ => rfl) fun _ _ _ => rfl
  · exact alu1_computes (execMov f) rfl rfl (fun _ => rfl) (fun _ => rfl) fun _ _ _ => rfl

/-- R78, R79: each bit of a shift, a rotate, a reversal or a bit field. -/
theorem bitResults (i : Instr) (f : FmtA) (g : Word → Word → Word → Nat → Bool) (h : bitResult i = some (f, g)) :
    Computes i f (fun a b d w => ∀ k, k < 32 → w.getLsbD k = g a b d k) := by
  unfold bitResult at h
  split at h <;> cases h
  · exact alu2_computes (execShl f) rfl rfl (fun _ => rfl) (fun _ => rfl) fun a b _ _ hk => shl_bit a b hk
  · exact alu2_computes (execShr f) rfl rfl (fun _ => rfl) (fun _ => rfl) fun a b _ k _ => shr_bit a b k
  · exact alu2_computes (execSar f) rfl rfl (fun _ => rfl) (fun _ => rfl) fun a b _ _ hk => sar_bit a b hk
  · exact alu2_computes (execRol f) rfl rfl (fun _ => rfl) (fun _ => rfl) fun a b _ _ hk => rol_bit a b hk
  · exact alu1_computes (execBrev f) rfl rfl (fun _ => rfl) (fun _ => rfl) fun a _ _ _ hk => brev_bit a hk
  · exact alu2_computes (execBfxN f) rfl rfl (fun _ => rfl) (fun _ => rfl) fun a b _ _ hk => bfxN_bit a b hk
  · exact alu2_computes (execBfxI f) rfl rfl (fun _ => rfl) (fun _ => rfl) fun a b _ _ hk => bfxI_bit a b hk
  · exact alu3_computes (execBfi f) rfl rfl (fun _ => rfl) (fun _ => rfl) fun a b d _ hk => bfi_bit a b d hk

/-- R78: the bit counts. -/
theorem countResults (i : Instr) (f : FmtA) (c : Word → Nat → Prop) (h : countResult i = some (f, c)) :
    Computes i f (fun a _ _ w => ∃ n, c a n ∧ w = BitVec.ofNat 32 n) := by
  unfold countResult at h
  split at h <;> cases h
  · exact alu1_computes (execPopc f) rfl rfl (fun _ => rfl) (fun _ => rfl) fun a _ _ => ⟨_, popCount_eq a, rfl⟩
  · exact alu1_computes (execClz f) rfl rfl (fun _ => rfl) (fun _ => rfl) fun a _ _ => ⟨_, leadZeros_spec a, rfl⟩
  · exact alu1_computes (execCtz f) rfl rfl (fun _ => rfl) (fun _ => rfl) fun a _ _ => ⟨_, trailZeros_spec a, rfl⟩

theorem shiftAndFieldResults : ShiftAndFieldResults :=
  ⟨bitResults, fun i f c h => Does.mono (countResults i f c h) fun _ _ _ ⟨_, ⟨n, hn, hw⟩, hth⟩ => ⟨n, hn, hw ▸ hth⟩⟩

/-- Settles O15: each row of Tables 3-2 and 3-3 is what the model's function gives from A, B and D, and the pass delivers it (`alu3_computes`). -/
theorem integerAndFieldResults : Obligations.IntegerAndFieldResults := ⟨integerResults, shiftAndFieldResults⟩

/-! ## Predicates and selects (R80 to R82) -/

theorem word_beq (a b : Word) : (a == b) = decide (a = b) := rfl

theorem word_bne (a b : Word) : (a != b) = decide (a ≠ b) := by
  rw [bne, word_beq, decide_not]

/-- R80, R82: the compares and the predicate operations. -/
theorem predicateResults : PredicateResults := by
  intro i f v h
  unfold predResult at h
  split at h <;> cases h
  · exact genP_pResult (execIcmpEq f) rfl rfl (fun _ => rfl) (fun _ => rfl) fun e => word_beq (e.a f) (e.b f)
  · exact genP_pResult (execIcmpNe f) rfl rfl (fun _ => rfl) (fun _ => rfl) fun e => word_bne (e.a f) (e.b f)
  · exact genP_pResult (execIcmpLtI f) rfl rfl (fun _ => rfl) (fun _ => rfl) fun _ => rfl
  · exact genP_pResult (execIcmpLtN f) rfl rfl (fun _ => rfl) (fun _ => rfl) fun _ => rfl
  · exact genP_pResult (execIcmpLeI f) rfl rfl (fun _ => rfl) (fun _ => rfl) fun _ => rfl
  · exact genP_pResult (execIcmpLeN f) rfl rfl (fun _ => rfl) (fun _ => rfl) fun _ => rfl
  · exact genP_pResult (execIcmpTst f) rfl rfl (fun _ => rfl) (fun _ => rfl) fun e => word_bne (e.a f &&& e.b f) 0
  · exact genP_pResult (execPand f) rfl rfl (fun _ => rfl) (fun _ => rfl) fun _ => rfl
  · exact genP_pResult (execPor f) rfl rfl (fun _ => rfl) (fun _ => rfl) fun _ => rfl
  · exact genP_pResult (execPxor f) rfl rfl (fun _ => rfl) (fun _ => rfl) fun _ => rfl
  · exact genP_pResult (execPnot f) rfl rfl (fun _ => rfl) (fun _ => rfl) fun _ => rfl

theorem fixes_selOp (fn : BitVec 2) (f : FmtA) : fixes (selOp fn) (.a f) = false := by
  unfold selOp
  split
  · rfl
  · split
    · rfl
    · split <;> rfl

theorem rp_eq_getLsbD (th : Thread) (fn : BitVec 2) : th.rp fn.toNat = th.p.getLsbD fn.toNat := by
  have hfn := fn.isLt
  have h8 : fn.toNat % 8 = fn.toNat := by omega
  have h7 : fn.toNat ≠ 7 := by omega
  simp [Thread.rp, h8, h7]

/-- R81: SEL reads the predicate that its FN names. -/
theorem selectResults : SelectResults := fun fn f =>
  Does.mono (genW_does (i := .sel fn f) rfl (fixes_selOp fn f) fun _ => rfl) fun _ e th h => by
    rw [h, result_toW, rp_eq_getLsbD]

/-- Settles O16: each row of Table 3-4 and each predicate operation is what the model's function gives, and the pass delivers it (`genP_pResult`). -/
theorem predicateAndSelectResults : Obligations.PredicateAndSelectResults := ⟨predicateResults, selectResults⟩

end Sys2Proof.Proofs
end

section
/-!
PROOF. Lane exchange, SCAN, the ranks and the extremes (R96 to R100): the participants whose operands a collective reads are those that the statements
speak of, and its result is owed to each of them.
-/

namespace Sys2Proof.Proofs
open Sys2Proof.Machine Sys2Proof.Spec

/-! ## Collectives -/

/-- The participants of a ready word are all that a collective reads: none of them stops at it. -/
theorem group_eq_seen {s : State} {i : Instr} {op : Op} {sh : Shape} {iss : Issue} {rest : List Issue} {es : List Env}
    (hr : Ready s i op sh iss rest) (hs : Seen s iss es) : s.group op sh = es := by
  have hes : iss.who.parts.filterMap (fun p => s.env? p.2 (hdrSS iss.hdr) iss.pc iss.idx) = es := by
    have h := congrArg (List.filterMap id) hs
    simpa [Issue.lanes, List.filterMap_map, Function.comp_def] using h.symm
  simp only [State.group, hr.front, hes]
  refine List.filter_eq_self.2 fun e he => ?_
  obtain ⟨l, hl, hle⟩ := List.mem_map.1 (hs ▸ List.mem_map_of_mem he)
  obtain ⟨e', hsee, hfree, -⟩ := hr.free l hl
  obtain rfl : e' = e := Option.some.inj (hsee.symm.trans hle)
  simp [hfree.decodes, hfree.noStop, hfree.clean]

/-- A collective completes in every participant when what it does there touches that participant's thread alone. -/
theorem groupStep_does {i : Instr} {op : Op} {sh : Shape} {act : List Env → Act} {R : List Env → Env → Thread → Prop}
    (x : State → Host.Outcome State Fault Refusal) (hp : i.parts = some (op, sh)) (hf : fixes op sh = false)
    (hx : ∀ s, exec i s = x s) (hd : ∀ s, x s = groupStep op sh act s)
    (hlive : ∀ es e th, R es e th → th.live = e.th.live)
    (hact : ∀ es s e, s.lane? e.lane = some e.th →
      ∃ t, act es s e = (t, .stay) ∧ OnlyLanes s t [e.lane] ∧ ∃ th, t.lane? e.lane = some th ∧ R es e th) :
    Does i (fun _ => True) R := by
  intro s op' sh' iss rest es hr hq hs _
  obtain ⟨rfl, rfl⟩ : op = op' ∧ sh = sh' := by simpa [hp] using hr.word
  rw [hx, hd, groupStep, group_eq_seen hr hs]
  exact laneStep_local hr hq hf (hlive es) fun s' e _ _ hl => hact es s' e hl

theorem owes_live {e : Env} {wr : List RegVal} {th : Thread} (h : owes e wr th) : th.live = e.th.live := by
  unfold owes owesFrom at h
  split at h
  · rw [h, Thread.puts_live]
  · split at h
    · rw [h]
    · obtain ⟨tag, rfl⟩ := h
      rfl

/-- A collective whose result is owed, when the result is as `c` says. -/
theorem collLong_does {i : Instr} {op : Op} {f : FmtA} {v : List Env → Env → Word} {c : List Env → Env → Word → Prop}
    (x : State → Host.Outcome State Fault Refusal) (hp : i.parts = some (op, .a f)) (hf : fixes op (.a f) = false)
    (hx : ∀ s, exec i s = x s) (hd : ∀ s, x s = collLong op f v s) (hv : ∀ es e, c es e (v es e)) :
    Does i (fun _ => True) (fun es e th => ∃ w, c es e w ∧ owes e (toD f [w]) th) := by
  refine groupStep_does x hp hf hx hd (fun es e th ⟨w, _, h⟩ => owes_live h) fun es s e hl => ?_
  obtain ⟨hol, th, hth, howes⟩ := State.owe_local (toW f.wbs f.d [v es e]) hl
  exact ⟨_, rfl, hol, th, hth, _, hv es e, howes⟩

/-! ## The values -/

theorem byIndex_eq_fromThread (es : List Env) (m : Nat) (v : Env → Word) :
    (byIndex es m 0 v).toNat = fromThread es m (fun x => (v x).toNat) := by
  unfold byIndex fromThread
  cases es.find? (fun e => e.m == m) <;> simp

theorem sum_words_eq_lo32 (vs : List Word) : vs.foldl (· + ·) 0 = lo32 ((vs.map (fun v => (v.toNat : Int))).sum) := by
  rw [← List.sum_eq_foldl]
  induction vs with
  | nil => rfl
  | cons v vs ih => simp [lo32, BitVec.ofInt_add] at ih ⊢; rw [ih]

theorem scan_eq_lo32 (f : FmtA) (es : List Env) (e : Env) :
    ((es.filter (fun x => decide (x.m ≤ e.m))).map (fun x => x.a f)).foldl (· + ·) 0 =
      lo32 (((es.filter (fun x => x.m ≤ e.m)).map (fun x => ((x.a f).toNat : Int))).sum) := by
  rw [sum_words_eq_lo32, List.map_map]
  rfl

/-- Values are equal when neither stands before the other. -/
theorem rankI_eq (f : FmtA) (es : List Env) (e : Env) : rankOf aboveI f es e =
    BitVec.ofNat 32 (es.countP (fun x => decide ((e.a f).toInt < (x.a f).toInt ∨ ((x.a f).toInt = (e.a f).toInt ∧ x.m < e.m)))) := by
  rw [rankOf, ← List.countP_eq_length_filter]
  congr 2
  funext x
  rcases Int.lt_trichotomy (x.a f).toInt (e.a f).toInt with h | h | h
  · simp [aboveI, ltI, sx, h, Int.not_lt.2 (Int.le_of_lt h), Int.ne_of_lt h]
  · simp [aboveI, ltI, sx, h]
  · simp [aboveI, ltI, sx, h]

theorem aboveF_eq (a b : Word) : aboveF a b = (!(f32 a).isNan && ((f32 b).isNan || NumVal.lt (f32 b) (f32 a))) := by
  unfold aboveF
  cases (f32 a).isNan <;> cases (f32 b).isNan <;> simp

theorem rankF_eq (f : FmtA) (es : List Env) (e : Env) : rankOf aboveF f es e =
    BitVec.ofNat 32 (es.countP (fun x =>
      let p := f32 (x.a f)
      let q := f32 (e.a f)
      let before := !p.isNan && (q.isNan || NumVal.lt q p)
      let after := !q.isNan && (p.isNan || NumVal.lt p q)
      before || (!after && decide (x.m < e.m)))) := by
  simp only [rankOf, ← List.countP_eq_length_filter, aboveF_eq]

/-! ## The order of f32 values (R100, R119) -/

/-- Where the line of f32 numbers ends, in units of 2^-149: no finite one comes so far. -/
def lineEnd : Nat := 2 ^ 24 * 2 ^ 253

theorem lineEnd_pos : 0 < lineEnd := by decide

/-- The place of a number on the line, in units of 2^-149, the smallest step of f32; the infinities stand at its ends. -/
def placeOf : NumVal → Int
  | .nan => 0
  | .inf neg => signInt neg lineEnd
  | .fin neg m e => signInt neg (m * 2 ^ (e + 149).toNat)

theorem placeOf_posInf : placeOf (.inf false) = lineEnd := rfl
theorem placeOf_negInf : placeOf (.inf true) = -lineEnd := rfl

theorem signInt_mul (neg : Bool) (m n : Nat) : signInt neg (m * n) = signInt neg m * n := by
  cases neg
  · exact Int.natCast_mul m n
  · exact (congrArg Neg.neg (Int.natCast_mul m n)).trans (Int.neg_mul ↑m ↑n).symm

theorem signInt_bound (neg : Bool) {m n : Nat} (h : m < n) : -(n : Int) < signInt neg m ∧ signInt neg m < n := by
  cases neg <;> simp only [signInt] <;> omega

/-- A finite f32 number has at most 24 significand bits, and its exponent lies between those of the smallest and the largest step. -/
theorem f32_fin_bounds {w : Word} {neg : Bool} {m : Nat} {e : Int} (h : f32 w = .fin neg m e) :
    m < 2 ^ 24 ∧ -149 ≤ e ∧ e ≤ 104 := by
  simp only [f32, FloatFmt.decode] at h
  split at h
  · split at h <;> cases h
  · split at h <;> simp only [fmtF32, NumVal.fin.injEq] at * <;> omega

theorem placeOf_fin_bounds {w : Word} {neg : Bool} {m : Nat} {e : Int} (h : f32 w = .fin neg m e) :
    -(lineEnd : Int) < placeOf (.fin neg m e) ∧ placeOf (.fin neg m e) < lineEnd := by
  obtain ⟨hm, -, he⟩ := f32_fin_bounds h
  refine signInt_bound neg ?_
  calc m * 2 ^ (e + 149).toNat ≤ m * 2 ^ 253 := Nat.mul_le_mul_left m (Nat.pow_le_pow_right (by decide) (by omega))
    _ < 2 ^ 24 * 2 ^ 253 := Nat.mul_lt_mul_of_pos_right hm (by decide)

/-- The grid on which two numbers are compared is refined to that of the places. -/
theorem signInt_grid (neg : Bool) (m : Nat) {e q : Int} (hq : -149 ≤ q) (h : q ≤ e) :
    signInt neg (m * 2 ^ (e - q).toNat) * ((2 ^ (q + 149).toNat : Nat) : Int) = placeOf (.fin neg m e) := by
  have he : (e + 149).toNat = (e - q).toNat + (q + 149).toNat := by omega
  rw [placeOf, he, Nat.pow_add, ← Nat.mul_assoc, signInt_mul neg (m * _)]

theorem lt_iff_placeOf_lt {a b : Word} (ha : (f32 a).isNan = false) (hb : (f32 b).isNan = false) :
    NumVal.lt (f32 a) (f32 b) = true ↔ placeOf (f32 a) < placeOf (f32 b) := by
  match hx : f32 a, hy : f32 b with
  | .nan, _ => simp [hx, NumVal.isNan] at ha
  | .inf _, .nan | .fin _ _ _, .nan => simp [hy, NumVal.isNan] at hb
  | .inf s, .inf t =>
    have := lineEnd_pos
    cases s <;> cases t <;>
      simp only [NumVal.lt, placeOf_posInf, placeOf_negInf, Bool.false_and, Bool.true_and, Bool.not_true, Bool.not_false,
        Bool.false_eq_true, false_iff, true_iff] <;> omega
  | .inf s, .fin nb mb eb =>
    have := placeOf_fin_bounds hy
    cases s <;> simp only [NumVal.lt, placeOf_posInf, placeOf_negInf, Bool.false_eq_true, false_iff, true_iff] <;> omega
  | .fin na ma ea, .inf t =>
    have := placeOf_fin_bounds hx
    cases t <;>
      simp only [NumVal.lt, placeOf_posInf, placeOf_negInf, Bool.not_false, Bool.not_true, Bool.false_eq_true, false_iff, true_iff] <;> omega
  | .fin na ma ea, .fin nb mb eb =>
    obtain ⟨-, hea, -⟩ := f32_fin_bounds hx
    obtain ⟨-, heb, -⟩ := f32_fin_bounds hy
    have hq : -149 ≤ min ea eb := by omega
    have hpos : (0 : Int) < ((2 ^ (min ea eb + 149).toNat : Nat) : Int) := Int.natCast_pos.2 (Nat.two_pow_pos _)
    rw [← signInt_grid na ma hq (Int.min_le_left ea eb), ← signInt_grid nb mb hq (Int.min_le_right ea eb), Int.mul_lt_mul_right hpos]
    simp only [NumVal.lt, decide_eq_true_eq]

theorem f32_posZero : f32 0 = .fin false 0 (-149) := by decide
theorem f32_negZero : f32 0x80000000 = .fin true 0 (-149) := by decide

/-- The two zeros are the only patterns of magnitude 0. -/
theorem zero_of_f32 {w : Word} {neg : Bool} {e : Int} (h : f32 w = .fin neg 0 e) : w = 0 ∨ w = 0x80000000 := by
  have hmag : w.toNat % 2 ^ 31 = 0 := by
    simp only [f32, FloatFmt.decode] at h
    split at h
    · split at h <;> cases h
    · split at h <;> simp only [fmtF32, NumVal.fin.injEq] at h <;> omega
  bv_omega

theorem belowZ_f32_iff (a b : Word) :
    belowZ (f32 a) (f32 b) = true ↔ NumVal.lt (f32 a) (f32 b) = true ∨ (a = 0x80000000 ∧ b = 0) := by
  constructor
  · intro h
    simp only [belowZ, Bool.or_eq_true] at h
    refine h.imp_right fun hz => ?_
    split at hz
    next e e' ha hb =>
      refine ⟨(zero_of_f32 ha).resolve_left ?_, (zero_of_f32 hb).resolve_right ?_⟩
      · rintro rfl; cases f32_posZero.symm.trans ha
      · rintro rfl; cases f32_negZero.symm.trans hb
    next => exact absurd hz (by simp)
  · rintro (h | ⟨rfl, rfl⟩)
    · simp [belowZ, h]
    · decide

theorem signInt_eq_zero {neg : Bool} {m : Nat} (h : signInt neg m = 0) : m = 0 := by
  cases neg <;> simp only [signInt] at h <;> omega

/-- A pattern whose place is 0 is a zero. -/
theorem zero_of_placeOf {w : Word} (hw : (f32 w).isNan = false) (h : placeOf (f32 w) = 0) : w = 0 ∨ w = 0x80000000 := by
  match hv : f32 w with
  | .nan => simp [hv, NumVal.isNan] at hw
  | .inf neg =>
    rw [hv] at h
    exact absurd (signInt_eq_zero h) (Nat.pos_iff_ne_zero.1 lineEnd_pos)
  | .fin neg m e =>
    rw [hv] at h
    have hm := (Nat.mul_eq_zero.1 (signInt_eq_zero h)).resolve_right (Nat.pos_iff_ne_zero.1 (Nat.two_pow_pos _))
    exact zero_of_f32 (hm ▸ hv)

/-- Where a pattern stands among those that are no NaN: -0 directly below +0. -/
def orderKey (w : Word) : Int := 2 * placeOf (f32 w) + if w = 0x80000000 then 0 else 1

theorem placeOf_negZero : placeOf (f32 0x80000000) = 0 := by decide

theorem belowZ_iff_orderKey_lt {a b : Word} (ha : (f32 a).isNan = false) (hb : (f32 b).isNan = false) :
    belowZ (f32 a) (f32 b) = true ↔ orderKey a < orderKey b := by
  rw [belowZ_f32_iff, lt_iff_placeOf_lt ha hb]
  simp only [orderKey]
  constructor
  · rintro (hlt | ⟨rfl, rfl⟩)
    · split <;> split <;> omega
    · decide
  · intro hlt
    by_cases hab : placeOf (f32 a) < placeOf (f32 b)
    · exact .inl hab
    · split at hlt <;> split at hlt
      case isTrue.isFalse hza hzb =>
        subst hza
        rw [placeOf_negZero] at hlt hab
        exact .inr ⟨rfl, (zero_of_placeOf hb (by omega)).resolve_right hzb⟩
      all_goals omega

/-- The order that `extremum` speaks of is that of the keys. -/
theorem not_below_of_le {a b : Word} (ha : (f32 a).isNan = false) (hb : (f32 b).isNan = false) (hle : orderKey b ≤ orderKey a) :
    (NumVal.lt (f32 a) (f32 b) || (decide (a = 0x80000000) && decide (b = 0))) = false := by
  have h := mt (belowZ_iff_orderKey_lt ha hb).1 (Int.not_lt.2 hle)
  rw [belowZ_f32_iff] at h
  simpa [-BitVec.ofNat_eq_ofNat] using h

/-! ## The extremes (R100) -/

/-- Folding with a choice of the upper of two values ends at one of them above all the others. -/
theorem foldl_upper {α : Type} {P : α → Prop} {le : α → α → Prop} (hrefl : ∀ a, le a a)
    (htrans : ∀ {a b c}, le a b → le b c → le a c) {g : α → α → α}
    (hg : ∀ a b, P a → P b → (g a b = a ∨ g a b = b) ∧ le a (g a b) ∧ le b (g a b)) (ws : List α) :
    ∀ w, P w → (∀ x ∈ ws, P x) → ws.foldl g w ∈ w :: ws ∧ ∀ x ∈ w :: ws, le x (ws.foldl g w) := by
  induction ws with
  | nil => intro w _ _; simp [hrefl]
  | cons y ws ih =>
    intro w hw hws
    obtain ⟨hpick, hwg, hyg⟩ := hg w y hw (hws y List.mem_cons_self)
    have hP : P (g w y) := by
      rcases hpick with h | h <;> rw [h]
      · exact hw
      · exact hws y List.mem_cons_self
    obtain ⟨hmem, hle⟩ := ih (g w y) hP fun x hx => hws x (List.mem_cons_of_mem _ hx)
    have hupper := hle _ List.mem_cons_self
    refine ⟨?_, ?_⟩
    · rcases List.mem_cons.1 hmem with h | h
      · rw [List.foldl_cons, h]
        rcases hpick with hp | hp <;> simp [hp]
      · simp [h]
    · rintro x (_ | ⟨_, _ | ⟨_, hx⟩⟩)
      · exact htrans hwg hupper
      · exact htrans hyg hupper
      · exact hle x (List.mem_cons_of_mem _ hx)

/-- `a` gives way to `b` or ties with it, in a search for the maximum or for the minimum. -/
def yieldsTo (max : Bool) (a b : Word) : Prop := if max then orderKey a ≤ orderKey b else orderKey b ≤ orderKey a

theorem yieldsTo_refl (max : Bool) (a : Word) : yieldsTo max a a := by
  cases max <;> exact Int.le_refl (orderKey a)

theorem yieldsTo_trans (max : Bool) {a b c : Word} (hab : yieldsTo max a b) (hbc : yieldsTo max b c) :
    yieldsTo max a c := by
  cases max
  · exact Int.le_trans hbc hab
  · exact Int.le_trans hab hbc

theorem fminmaxV_picks (max : Bool) (a b : Word) (ha : (f32 a).isNan = false) (hb : (f32 b).isNan = false) :
    (fminmaxV max true a b = a ∨ fminmaxV max true a b = b) ∧
      yieldsTo max a (fminmaxV max true a b) ∧ yieldsTo max b (fminmaxV max true a b) := by
  have hlt := belowZ_iff_orderKey_lt ha hb
  have hv : fminmaxV max true a b = if belowZ (f32 a) (f32 b) = max then b else a := by simp [fminmaxV, ha, hb]
  rw [hv]
  cases max
  · split
    next h => exact ⟨.inr rfl, Int.not_lt.1 (mt hlt.2 (by simp [h])), yieldsTo_refl false b⟩
    next h => exact ⟨.inl rfl, yieldsTo_refl false a, Int.le_of_lt (hlt.1 (by simpa using h))⟩
  · split
    next h => exact ⟨.inr rfl, Int.le_of_lt (hlt.1 h), yieldsTo_refl true b⟩
    next h => exact ⟨.inl rfl, yieldsTo_refl true a, Int.not_lt.1 (mt hlt.2 h)⟩

/-- What the statement asks of MAXW and MINW (R100): a value of a participant that no other passes, or the canonical NaN when all are NaN. -/
def IsExtreme (least : Bool) (f : FmtA) (es : List Env) (v : Word) : Prop :=
  (v = 0x7FC00000 ∧ ∀ x ∈ es, (f32 (x.a f)).isNan = true) ∨
    ((∃ x ∈ es, x.a f = v) ∧ (f32 v).isNan = false ∧ ∀ x ∈ es, (f32 (x.a f)).isNan = true ∨ extremum least false v (x.a f) v)

/-- A value that no other passes is the extremum of itself and any of them. -/
theorem extremum_of_yieldsTo {least : Bool} {v w : Word} (hv : (f32 v).isNan = false) (hw : (f32 w).isNan = false) (h : yieldsTo (!least) w v) :
    extremum least false v w v := by
  refine ⟨by simp [hv], by simp [hv], by simp [hw], fun _ _ => ⟨.inl rfl, ?_⟩⟩
  cases least
  · exact ⟨not_below_of_le hv hv (Int.le_refl _), not_below_of_le hv hw h⟩
  · exact ⟨not_below_of_le hv hv (Int.le_refl _), not_below_of_le hw hv h⟩

theorem extremeOf_isExtreme (max : Bool) (f : FmtA) (es : List Env) : IsExtreme (!max) f es (extremeOf max f es) := by
  have hmem (w : Word) : w ∈ (es.map (fun x => x.a f)).filter (fun w => !(f32 w).isNan) ↔
      (∃ x ∈ es, x.a f = w) ∧ (f32 w).isNan = false := by
    simp
  unfold extremeOf
  split
  next hnil =>
    refine .inl ⟨rfl, fun x hx => ?_⟩
    cases hnan : (f32 (x.a f)).isNan
    · have hxin := (hmem (x.a f)).2 ⟨⟨x, hx, rfl⟩, hnan⟩
      rw [hnil] at hxin
      cases hxin
    · rfl
  next w ws hcons =>
    rw [hcons] at hmem
    have hreal : ∀ y ∈ w :: ws, (f32 y).isNan = false := fun y hy => ((hmem y).1 hy).2
    obtain ⟨hin, hup⟩ := foldl_upper (yieldsTo_refl max) (yieldsTo_trans max) (fminmaxV_picks max) ws w (hreal w List.mem_cons_self)
      fun y hy => hreal y (List.mem_cons_of_mem _ hy)
    refine .inr ⟨((hmem _).1 hin).1, hreal _ hin, fun x hx => ?_⟩
    cases hnan : (f32 (x.a f)).isNan
    · have hxin := (hmem (x.a f)).2 ⟨⟨x, hx, rfl⟩, hnan⟩
      exact .inr (extremum_of_yieldsTo (hreal _ hin) hnan (by simpa using hup _ hxin))
    · exact .inl rfl

/-! ## The statement -/

/-- Settles O2: each collective owes the value of the statement to every participant (`collLong_does`), SWAP1 writes it in its pass, and the extremes
come from the order of f32 values (`extremeOf_isExtreme`). -/
theorem exchangeResults : Obligations.ExchangeResults := by
  refine ⟨fun i f c h => ?_, fun f => ?_⟩
  · unfold exchangeResult at h
    split at h <;> cases h
    · exact collLong_does (execShfl f) rfl rfl (fun _ => rfl) (fun _ => rfl) fun es e => byIndex_eq_fromThread es _ _
    · exact collLong_does (execShflx f) rfl rfl (fun _ => rfl) (fun _ => rfl) fun es e => byIndex_eq_fromThread es _ _
    · exact collLong_does (execScan f) rfl rfl (fun _ => rfl) (fun _ => rfl) fun es e => scan_eq_lo32 f es e
    · exact collLong_does (execRanki f) rfl rfl (fun _ => rfl) (fun _ => rfl) fun es e => rankI_eq f es e
    · exact collLong_does (execRankf f) rfl rfl (fun _ => rfl) (fun _ => rfl) fun es e => rankF_eq f es e
    · exact collLong_does (execMaxw f) rfl rfl (fun _ => rfl) (fun _ => rfl) fun es _ => extremeOf_isExtreme true f es
    · exact collLong_does (execMinw f) rfl rfl (fun _ => rfl) (fun _ => rfl) fun es _ => extremeOf_isExtreme false f es
  · refine groupStep_does (execSwap1 f) rfl rfl (fun _ => rfl) (fun _ => rfl) (fun es e th ⟨v, _, h⟩ => ?_) fun es s e hl => ?_
    · rw [h]; split <;> rfl
    · refine ⟨_, rfl, s.onlyLanes_updLane e.lane _ hl, _, s.lane?_updLane_same e.lane _ hl, _, byIndex_eq_fromThread es _ _, ?_⟩
      cases f.wbs <;> simp [toW, Thread.puts, Thread.put, withW]

end Sys2Proof.Proofs
end

section
/-!
PROOF. The arithmetic, minimum, maximum and compare instructions on f32 and bf16x2 (R117 to R120, R122): the pass delivers the model's function of A, B
and D, and the minimum and maximum stand where the order of R119 puts them.
-/

namespace Sys2Proof.Proofs
open Sys2Proof.Machine Sys2Proof.Spec

/-! ## Arithmetic (R117, R118, R122) -/

theorem floatArithmetic : FloatArithmetic := by
  intro i f v h
  suffices hc : Computes i f (fun a b d w => w = v a b d) from
    Does.mono hc fun _ e th ⟨w, hw, hth⟩ => hw ▸ hth
  unfold floatResult at h
  split at h <;> cases h
  · exact alu2_computes (execFadd f) rfl rfl (fun _ => rfl) (fun _ => rfl) fun _ _ _ => rfl
  · exact alu2_computes (execFaddRz f) rfl rfl (fun _ => rfl) (fun _ => rfl) fun _ _ _ => rfl
  · exact alu2_computes (execFaddRu f) rfl rfl (fun _ => rfl) (fun _ => rfl) fun _ _ _ => rfl
  · exact alu2_computes (execFaddRd f) rfl rfl (fun _ => rfl) (fun _ => rfl) fun _ _ _ => rfl
  · exact alu2_computes (execFsub f) rfl rfl (fun _ => rfl) (fun _ => rfl) fun _ _ _ => rfl
  · exact alu2_computes (execFsubRz f) rfl rfl (fun _ => rfl) (fun _ => rfl) fun _ _ _ => rfl
  · exact alu2_computes (execFsubRu f) rfl rfl (fun _ => rfl) (fun _ => rfl) fun _ _ _ => rfl
  · exact alu2_computes (execFsubRd f) rfl rfl (fun _ => rfl) (fun _ => rfl) fun _ _ _ => rfl
  · exact alu2_computes (execFmul f) rfl rfl (fun _ => rfl) (fun _ => rfl) fun _ _ _ => rfl
  · exact alu2_computes (execFmulRz f) rfl rfl (fun _ => rfl) (fun _ => rfl) fun _ _ _ => rfl
  · exact alu2_computes (execFmulRu f) rfl rfl (fun _ => rfl) (fun _ => rfl) fun _ _ _ => rfl
  · exact alu2_computes (execFmulRd f) rfl rfl (fun _ => rfl) (fun _ => rfl) fun _ _ _ => rfl
  · exact alu3_computes (execFfma f) rfl rfl (fun _ => rfl) (fun _ => rfl) fun _ _ _ => rfl
  · exact alu3_computes (execFfmaRz f) rfl rfl (fun _ => rfl) (fun _ => rfl) fun _ _ _ => rfl
  · exact alu3_computes (execFfmaRu f) rfl rfl (fun _ => rfl) (fun _ => rfl) fun _ _ _ => rfl
  · exact alu3_computes (execFfmaRd f) rfl rfl (fun _ => rfl) (fun _ => rfl) fun _ _ _ => rfl
  · exact alu2_computes (execHadd2 f) rfl rfl (fun _ => rfl) (fun _ => rfl) fun _ _ _ => rfl
  · exact alu2_computes (execHsub2 f) rfl rfl (fun _ => rfl) (fun _ => rfl) fun _ _ _ => rfl
  · exact alu2_computes (execHmul2 f) rfl rfl (fun _ => rfl) (fun _ => rfl) fun _ _ _ => rfl
  · exact alu3_computes (execHfma2 f) rfl rfl (fun _ => rfl) (fun _ => rfl) fun _ _ _ => rfl

/-! ## Minimum, maximum and compares (R119, R120) -/

/-- One of two numbers that both give way to is their extremum. -/
theorem extremum_of_pick {max num : Bool} {a b v : Word} (ha : (f32 a).isNan = false) (hb : (f32 b).isNan = false)
    (hpick : v = a ∨ v = b) (hav : yieldsTo max a v) (hbv : yieldsTo max b v) : extremum (!max) num a b v := by
  have hv : (f32 v).isNan = false := by
    rcases hpick with rfl | rfl
    · exact ha
    · exact hb
  refine ⟨by simp [ha], by simp [ha], by simp [hb], fun _ _ => ⟨hpick, ?_⟩⟩
  cases max
  · exact ⟨not_below_of_le ha hv hav, not_below_of_le hb hv hbv⟩
  · exact ⟨not_below_of_le hv ha hav, not_below_of_le hv hb hbv⟩

/-- Table 4-4. The forms differ in their answer to a NaN only. -/
theorem fminmaxV_extremum (max num : Bool) (a b : Word) : extremum (!max) num a b (fminmaxV max num a b) := by
  cases ha : (f32 a).isNan <;> cases hb : (f32 b).isNan
  case false.false =>
    have hnum : fminmaxV max num a b = fminmaxV max true a b := by simp [fminmaxV, ha, hb]
    obtain ⟨hpick, hav, hbv⟩ := fminmaxV_picks max a b ha hb
    rw [hnum]
    exact extremum_of_pick ha hb hpick hav hbv
  all_goals simp [extremum, fminmaxV, nanF32, ha, hb]

theorem lt_false_of_nan {a b : NumVal} (h : a.isNan = true ∨ b.isNan = true) : NumVal.lt a b = false := by
  match a, b with
  | .nan, _ => rfl
  | .inf _, .nan | .fin _ _ _, .nan => rfl
  | .inf _, .inf _ | .inf _, .fin _ _ _ | .fin _ _ _, .inf _ | .fin _ _ _, .fin _ _ _ => simp [NumVal.isNan] at h

/-- FCMP.LT of the model leaves NaNs to the order itself. -/
theorem lt_eq_ordered_lt (a b : NumVal) : NumVal.lt a b = (!a.isNan && !b.isNan && NumVal.lt a b) := by
  cases ha : a.isNan <;> cases hb : b.isNan <;> simp [lt_false_of_nan, ha, hb]

theorem minmaxResults (i : Instr) (f : FmtA) (c : Word → Word → Word → Prop) (h : minmaxResult i = some (f, c)) :
    Computes i f (fun a b _ w => c a b w) := by
  unfold minmaxResult at h
  split at h <;> cases h
  · exact alu2_computes (execFmin f) rfl rfl (fun _ => rfl) (fun _ => rfl) fun a b _ => fminmaxV_extremum false false a b
  · exact alu2_computes (execFmax f) rfl rfl (fun _ => rfl) (fun _ => rfl) fun a b _ => fminmaxV_extremum true false a b
  · exact alu2_computes (execFminnum f) rfl rfl (fun _ => rfl) (fun _ => rfl) fun a b _ => fminmaxV_extremum false true a b
  · exact alu2_computes (execFmaxnum f) rfl rfl (fun _ => rfl) (fun _ => rfl) fun a b _ => fminmaxV_extremum true true a b

theorem floatCompares (i : Instr) (f : FmtA) (v : NumVal → NumVal → Bool) (h : fcmpResult i = some (f, v)) :
    Does i (fun _ => True) (fun _ e th => th = pResult f e.th (v (f32 (e.a f)) (f32 (e.b f)))) := by
  unfold fcmpResult at h
  split at h <;> cases h
  · exact genP_pResult (execFcmpEq f) rfl rfl (fun _ => rfl) (fun _ => rfl) fun _ => rfl
  · exact genP_pResult (execFcmpLt f) rfl rfl (fun _ => rfl) (fun _ => rfl) fun e => lt_eq_ordered_lt (f32 (e.a f)) (f32 (e.b f))
  · exact genP_pResult (execFcmpLe f) rfl rfl (fun _ => rfl) (fun _ => rfl) fun _ => rfl
  · exact genP_pResult (execFcmpUn f) rfl rfl (fun _ => rfl) (fun _ => rfl) fun _ => rfl

/-- Settles O19: the model's arithmetic is the exact value rounded once as the statement writes it, the minimum and maximum follow from the order of f32
values (`fminmaxV_extremum`), and a NaN is below nothing (`lt_eq_ordered_lt`). -/
theorem floatResults : Obligations.FloatResults := ⟨floatArithmetic, minmaxResults, floatCompares⟩

end Sys2Proof.Proofs
end

section
/-!
PROOF. Signs, classes and conversions (R121, R123): f32 patterns by their fields, exact widening of bf16, and the byte-merging and stochastic
conversions with the random fraction of R110 and R111.
-/

namespace Sys2Proof.Proofs
open Sys2Proof.Machine Sys2Proof.Spec

/-! ## The fields of an f32 pattern (R102) -/

theorem exponentField_eq (w : Word) : (w.extractLsb' 23 8).toNat = w.toNat % 2 ^ 31 / 2 ^ 23 := by
  rw [BitVec.extractLsb'_toNat, Nat.shiftRight_eq_div_pow]
  omega

theorem fractionField_eq (w : Word) : (w.extractLsb' 0 23).toNat = w.toNat % 2 ^ 31 % 2 ^ 23 := by
  rw [BitVec.extractLsb'_toNat, Nat.shiftRight_zero]
  omega

theorem signBit_eq (w : Word) : w.toNat.testBit 31 = w.msb := by
  rw [BitVec.testBit_toNat, BitVec.msb_eq_getLsbD_last]

theorem f32_eq_f32Value (w : Word) :
    f32 w = f32Value w.msb (w.extractLsb' 23 8).toNat (w.extractLsb' 0 23).toNat := by
  rw [exponentField_eq, fractionField_eq]
  have hlt : w.toNat % 2 ^ 31 < 2 ^ 31 := Nat.mod_lt _ (by decide)
  simp only [f32, FloatFmt.decode, fmtF32, signBit_eq]
  generalize w.toNat % 2 ^ 31 = mag at hlt ⊢
  unfold f32Value
  by_cases hfin : mag > 0x7F7FFFFF
  · have hex : mag / 2 ^ 23 = 255 := by omega
    have hinf : some 0x7F800000 = some mag ↔ mag % 2 ^ 23 = 0 := by
      rw [Option.some.injEq]
      omega
    simp only [if_pos hfin, if_pos hex, hinf]
  · have hex : mag / 2 ^ 23 ≠ 255 := by omega
    rw [if_neg hfin, if_neg hex]
    split
    next hsub =>
      have : mag % 2 ^ 23 = mag := by omega
      rw [this]
    next =>
      have hexp : (-149 : Int) + ((mag / 2 ^ 23 : Nat) : Int) - 1 = ((mag / 2 ^ 23 : Nat) : Int) - 150 := by omega
      rw [Nat.add_comm (mag % _), hexp]

/-! ## Signs and classes (R121) -/

theorem signFrom_eq_append (a b : Word) : (a &&& 0x7FFFFFFF) ||| (b &&& 0x80000000) = b.extractLsb' 31 1 ++ a.extractLsb' 0 31 := by
  have hlow : (0x7FFFFFFF : Word) = BitVec.ofNat 32 (2 ^ 31 - 1) := rfl
  have htop : (0x80000000 : Word) = BitVec.twoPow 32 31 := rfl
  apply BitVec.eq_of_getLsbD_eq
  intro k hk
  rw [hlow, htop, BitVec.getLsbD_or, BitVec.getLsbD_and, BitVec.getLsbD_and, BitVec.getLsbD_ofNat, Nat.testBit_two_pow_sub_one,
    BitVec.getLsbD_twoPow, BitVec.getLsbD_append]
  rcases Nat.lt_or_ge k 31 with h | h
  · simp [h, hk, Nat.ne_of_gt h]
  · obtain rfl : k = 31 := by omega
    simp

theorem fcpsgnV_eq (a b : Word) :
    fcpsgnV a b = if (f32 a).isNan then 0x7FC00000 else b.extractLsb' 31 1 ++ a.extractLsb' 0 31 := by
  rw [fcpsgnV, signFrom_eq_append, nanF32]

theorem classBit_of_inf {w : Word} {neg : Bool} (h : f32 w = .inf neg) : classBit w = if neg then 0 else 7 := by
  simp only [classBit, h]

theorem classBit_of_nan {w : Word} (h : f32 w = .nan) : classBit w = if w.getLsbD 22 then 9 else 8 := by
  simp only [classBit, h]

theorem classBit_of_zero {w : Word} {neg : Bool} {e : Int} (h : f32 w = .fin neg 0 e) : classBit w = if neg then 3 else 4 := by
  simp only [classBit, h]

theorem classBit_of_fin {w : Word} {neg : Bool} {m : Nat} {e : Int} (h : f32 w = .fin neg m e) (hm : m ≠ 0) :
    classBit w = if m < 2 ^ 23 then (if neg then 2 else 5) else (if neg then 1 else 6) := by
  obtain ⟨n, rfl⟩ := Nat.exists_eq_succ_of_ne_zero hm
  simp only [classBit, h]

/-- Table 4-5: the model's class by fields is the class of the value. -/
theorem fclassOf_eq_classBit (w : Word) : fclassOf w = classBit w := by
  have hv := f32_eq_f32Value w
  have hfr := (w.extractLsb' 0 23).isLt
  simp only [fclassOf]
  generalize (w.extractLsb' 23 8).toNat = ex at hv ⊢
  generalize (w.extractLsb' 0 23).toNat = fr at hv hfr ⊢
  unfold f32Value at hv
  by_cases hex : ex = 255
  · rw [if_pos hex] at hv ⊢
    by_cases hzero : fr = 0
    · rw [if_pos hzero] at hv ⊢
      exact (classBit_of_inf hv).symm
    · rw [if_neg hzero] at hv ⊢
      exact (classBit_of_nan hv).symm
  · rw [if_neg hex] at hv ⊢
    by_cases hsub : ex = 0
    · rw [if_pos hsub] at hv ⊢
      by_cases hzero : fr = 0
      · rw [if_pos hzero, classBit_of_zero (hzero ▸ hv)]
      · rw [if_neg hzero, classBit_of_fin hv hzero, if_pos hfr]
    · rw [if_neg hsub] at hv ⊢
      rw [classBit_of_fin hv (by omega), if_neg (Nat.not_lt.2 (Nat.le_add_right (2 ^ 23) fr))]

theorem fclass_eq (w : Word) : BitVec.twoPow 32 (fclassOf w) = BitVec.ofNat 32 (2 ^ classBit w) := by
  rw [fclassOf_eq_classBit]
  apply BitVec.eq_of_toNat_eq
  simp

/-! ## Conversions (R123) -/

theorem bitLen_eq {m n : Nat} (hlo : 2 ^ n ≤ m) (hhi : m < 2 ^ (n + 1)) : bitLen m = n + 1 := by
  have hm : m ≠ 0 := Nat.ne_of_gt (Nat.lt_of_lt_of_le (Nat.two_pow_pos n) hlo)
  rw [bitLen, if_neg hm, (Nat.log2_eq_iff hm).2 ⟨hlo, hhi⟩]

theorem bitLen_le {m n : Nat} (h : m < 2 ^ n) : bitLen m ≤ n := by
  unfold bitLen
  split
  next => exact Nat.zero_le n
  next hm => exact (Nat.log2_lt hm).2 h

theorem roundMag_of_le (mode : Mode) (neg : Bool) (m : Nat) {e q : Int} (h : q ≤ e) :
    roundMag mode neg m e q = m * 2 ^ (e - q).toNat :=
  if_pos h

/-- Rounding to f32 is exact where the step is no coarser than the value's own unit. -/
theorem roundF32_exact {mode : Mode} {neg : Bool} {m : Nat} {e q : Int} (hq : fmtF32.step m e = q) (hle : q ≤ e)
    (hmax : (q + 149).toNat * 2 ^ 23 + m * 2 ^ (e - q).toNat ≤ 0x7F7FFFFF) :
    fmtF32.round mode (.fin neg m e) = fmtF32.signed neg ((q + 149).toNat * 2 ^ 23 + m * 2 ^ (e - q).toNat) := by
  simp only [FloatFmt.round, hq, roundMag_of_le mode neg m hle]
  exact if_neg (Nat.not_lt.2 hmax)

/-- A bf16 subnormal in f32: the same step as f32's subnormals, 16 fraction bits more. -/
theorem roundF32_bf16_subnormal (neg : Bool) {m : Nat} (hm : m < 2 ^ 7) :
    fmtF32.round .rn (.fin neg m (-133)) = fmtF32.signed neg (m * 2 ^ 16) := by
  have hstep : fmtF32.step m (-133) = -149 := by
    have := bitLen_le hm
    simp only [FloatFmt.step, fmtF32]
    split <;> omega
  simpa using roundF32_exact (mode := .rn) (neg := neg) hstep (by decide) (by simp; omega)

/-- A bf16 normal number in f32: the same exponent field, 16 fraction bits more. -/
theorem roundF32_bf16_normal (neg : Bool) {x r : Nat} (hx : x ≠ 0) (hx' : x ≤ 254) (hr : r < 2 ^ 7) :
    fmtF32.round .rn (.fin neg (r + 2 ^ 7) (-133 + x - 1)) = fmtF32.signed neg ((2 ^ 7 * x + r) * 2 ^ 16) := by
  have hstep : fmtF32.step (r + 2 ^ 7) (-133 + x - 1) = x - 150 := by
    have hlen : bitLen (r + 2 ^ 7) = 8 := bitLen_eq (by omega) (by omega)
    simp only [FloatFmt.step, fmtF32, hlen]
    rw [if_neg (by omega)]
    omega
  have hunit : ((-133 + x - 1 : Int) - (x - 150)).toNat = 16 := by omega
  have hfield : ((x : Int) - 150 + 149).toNat = x - 1 := by omega
  have hval : (x - 1) * 2 ^ 23 + (r + 2 ^ 7) * 2 ^ 16 = (2 ^ 7 * x + r) * 2 ^ 16 := by omega
  have h := roundF32_exact (mode := .rn) (neg := neg) hstep (by omega) (by rw [hunit, hfield]; omega)
  rwa [hunit, hfield, hval] at h

theorem ofNat_signed_f32 (h : BitVec 16) :
    BitVec.ofNat 32 (fmtF32.signed (h.toNat.testBit 15) (h.toNat % 2 ^ 15 * 2 ^ 16)) = h ++ 0#16 := by
  have hlt := h.isLt
  have happ : (h ++ 0#16).toNat = h.toNat * 2 ^ 16 := by
    rw [BitVec.toNat_append, Nat.shiftLeft_eq, BitVec.toNat_zero, Nat.or_zero]
  apply BitVec.eq_of_toNat_eq
  rw [happ]
  simp only [FloatFmt.signed, fmtF32, Nat.testBit_eq_decide_div_mod_eq, decide_eq_true_eq, BitVec.toNat_ofNat]
  split <;> omega

theorem isNan_fin (neg : Bool) (m : Nat) (e : Int) : (NumVal.fin neg m e).isNan = false := rfl

/-- R103: the value of a bf16 pattern by the exponent and the fraction of its magnitude. -/
theorem decode_bf16_cases (n : Nat) :
    let neg := n.testBit 15
    let mag := n % 2 ^ 15
    (fmtBf16.decode n = .inf neg ∧ mag = 0x7F80) ∨ fmtBf16.decode n = .nan ∨ (fmtBf16.decode n = .fin neg mag (-133) ∧ mag < 2 ^ 7) ∨
      ∃ x r, fmtBf16.decode n = .fin neg (r + 2 ^ 7) (-133 + (x : Nat) - 1) ∧ mag = 2 ^ 7 * x + r ∧ x ≠ 0 ∧ x ≤ 254 ∧ r < 2 ^ 7 := by
  intro neg mag
  have hdec : fmtBf16.decode n = if mag > 0x7F7F then (if some 0x7F80 = some mag then .inf neg else .nan)
      else if mag / 2 ^ 7 = 0 then .fin neg mag (-133) else .fin neg (mag % 2 ^ 7 + 2 ^ 7) (-133 + (mag / 2 ^ 7 : Nat) - 1) := rfl
  by_cases hfin : mag > 0x7F7F
  · rw [if_pos hfin] at hdec
    by_cases hinf : some 0x7F80 = some mag
    · exact .inl ⟨hdec.trans (if_pos hinf), (Option.some.inj hinf).symm⟩
    · exact .inr (.inl (hdec.trans (if_neg hinf)))
  · rw [if_neg hfin] at hdec
    by_cases hsub : mag / 2 ^ 7 = 0
    · exact .inr (.inr (.inl ⟨hdec.trans (if_pos hsub), by omega⟩))
    · exact .inr (.inr (.inr ⟨_, _, hdec.trans (if_neg hsub), (Nat.div_add_mod mag _).symm, hsub, by omega, Nat.mod_lt _ (by decide)⟩))

/-- R103, R123: a bf16 pattern is the high half of the f32 pattern of its value. -/
theorem widen_bf16 (h : BitVec 16) :
    toF32 .rn (fmtBf16.decode h.toNat) = if (fmtBf16.decode h.toNat).isNan then 0x7FC00000 else h ++ 0#16 := by
  rw [← ofNat_signed_f32]
  rcases decode_bf16_cases h.toNat with ⟨hv, hmag⟩ | hv | ⟨hv, hm⟩ | ⟨x, r, hv, hmag, hx, hx', hr⟩
  · rw [hv, hmag]
    rfl
  · rw [hv]
    rfl
  · rw [hv, toF32, roundF32_bf16_subnormal _ hm, isNan_fin, if_neg Bool.false_ne_true]
  · rw [hv, toF32, roundF32_bf16_normal _ hx hx' hr, hmag, isNan_fin, if_neg Bool.false_ne_true]

theorem bf16_eq_decode_half (a b : Word) :
    bf16 a (b.toNat % 2) = fmtBf16.decode (if b.getLsbD 0 then a.extractLsb' 16 16 else a.extractLsb' 0 16).toNat := by
  have hbit : b.getLsbD 0 = decide (b.toNat % 2 = 1) := by
    rw [← BitVec.testBit_toNat, Nat.testBit_zero]
  unfold bf16
  rcases Nat.mod_two_eq_zero_or_one b.toNat with h | h <;>
    simp [-BitVec.getLsbD_eq_getElem, hbit, h, BitVec.extractLsb'_toNat, Nat.shiftRight_eq_div_pow]

theorem extractByte_toNat (a : Word) (k : Nat) : (a.extractLsb' (8 * k) 8).toNat = a.toNat / 2 ^ (8 * k) % 256 := by
  rw [BitVec.extractLsb'_toNat, Nat.shiftRight_eq_div_pow]

theorem widenByte_eq (fmt : FloatFmt) (a : Word) (k : Nat) :
    widenByte fmt a k = once .rn (fmt.decode (a.extractLsb' (8 * k) 8).toNat) := by
  rw [extractByte_toNat]
  rfl

theorem intNum_sx (a : Word) : intNum (sx a) = .fin a.msb a.toInt.natAbs 0 := by
  rw [intNum, sx, BitVec.msb_eq_toInt]

theorem intNum_zx (a : Word) : intNum (zx a) = .fin false a.toNat 0 := by
  have hnonneg : ¬ (a.toNat : Int) < 0 := by omega
  simp [intNum, zx, hnonneg]

theorem packHalves_eq_append (lo hi : Nat) : packHalves lo hi = BitVec.ofNat 16 hi ++ BitVec.ofNat 16 lo := by
  apply BitVec.eq_of_toNat_eq
  have hlo : lo % 2 ^ 16 < 2 ^ 16 := Nat.mod_lt _ (by decide)
  rw [packHalves, BitVec.toNat_append, BitVec.toNat_ofNat, BitVec.toNat_ofNat, BitVec.toNat_ofNat, Nat.shiftLeft_eq, Nat.mul_comm _ (2 ^ 16),
    ← Nat.two_pow_add_eq_or_of_lt hlo]
  omega

theorem setByte_bit (d : Word) (k v : Nat) {i : Nat} (hi : i < 32) : (setByte d k v).getLsbD i = byteMerged d k v i := by
  have hmask : (0xFF : Word) = BitVec.ofNat 32 (2 ^ 8 - 1) := rfl
  have hbyte : v % 256 = v % 2 ^ 8 := rfl
  simp only [setByte, hmask, hbyte, byteMerged, BitVec.getLsbD_or, BitVec.getLsbD_and, BitVec.getLsbD_not, BitVec.getLsbD_shiftLeft,
    BitVec.getLsbD_ofNat, Nat.testBit_two_pow_sub_one, Nat.testBit_mod_two_pow]
  by_cases hk : i / 8 = k
  · have hlow : ¬ i < 8 * k := by omega
    have hin : i - 8 * k < 8 := by omega
    have hplace : i % 8 = i - 8 * k := by omega
    simp [hi, hk, hlow, hin, hplace, Nat.lt_of_le_of_lt (Nat.sub_le i (8 * k)) hi]
  · have hout : ¬ i < 8 * k → ¬ i - 8 * k < 8 := by omega
    by_cases hlow : i < 8 * k
    · simp [hi, hk, hlow]
    · simp [hi, hk, hlow, hout hlow]

/-- What a thread of the warp supplies is found by its index (R73). -/
theorem byIndex_nat_eq_fromThread (es : List Env) (m : Nat) (v : Env → Nat) : byIndex es m 0 v = fromThread es m v := by
  unfold byIndex fromThread
  cases es.find? (fun e => e.m == m) <;> rfl

theorem srMode_eq (fmt : FloatFmt) (f : FmtA) (es : List Env) (e : Env) : srMode fmt f es e = .sr (srBits fmt f es e) := by
  simp only [srMode, srFraction, srBits, byIndex_nat_eq_fromThread, Nat.shiftRight_eq_div_pow, Nat.reducePow]

/-! ## The statement -/

/-- A collective with a w result completes in every participant: the result is pushed, and written to D unless WBS is set. -/
theorem groupW_does {i : Instr} {op : Op} {f : FmtA} {v : List Env → Env → Word} {R : List Env → Env → Word → Prop}
    (x : State → Host.Outcome State Fault Refusal) (hp : i.parts = some (op, .a f)) (hf : fixes op (.a f) = false)
    (hx : ∀ s, exec i s = x s) (hd : ∀ s, x s = groupStep op (.a f) (fun g => genW f (v g)) s) (hv : ∀ es e, R es e (v es e)) :
    Does i (fun _ => True) (fun es e th => ∃ w, R es e w ∧ th = wResult f e.th w) := by
  have hlive (th : Thread) (w : Word) : (wResult f th w).live = th.live := by rw [← result_toW, Thread.result_live]
  refine groupStep_does x hp hf hx hd (fun es e th ⟨w, _, h⟩ => by rw [h, hlive]) fun es s e hl => ?_
  obtain ⟨hol, hth⟩ := State.setLane_local (th' := e.th.result (v es e) (toW f.wbs f.d [v es e])) hl
  exact ⟨_, rfl, hol, _, hth, _, hv es e, result_toW f e.th (v es e)⟩

/-- R121 and Table 4-6 but for the collective forms. -/
theorem convResults (i : Instr) (f : FmtA) (v : Word → Word → Word → Word) (h : convResult i = some (f, v)) :
    Computes i f (fun a b d w => w = v a b d) := by
  unfold convResult at h
  split at h <;> cases h
  · exact alu1_computes (execFabs f) rfl rfl (fun _ => rfl) (fun _ => rfl) fun _ _ _ => rfl
  · exact alu1_computes (execFneg f) rfl rfl (fun _ => rfl) (fun _ => rfl) fun _ _ _ => rfl
  · exact alu2_computes (execFcpsgn f) rfl rfl (fun _ => rfl) (fun _ => rfl) fun a b _ => fcpsgnV_eq a b
  · exact alu1_computes (execFclass f) rfl rfl (fun _ => rfl) (fun _ => rfl) fun a _ _ => fclass_eq a
  · exact alu1_computes (execCvtBf16F32 f) rfl rfl (fun _ => rfl) (fun _ => rfl) fun _ _ _ => rfl
  · exact alu2_computes (execCvtF32Bf16 f) rfl rfl (fun _ => rfl) (fun _ => rfl) fun a b _ => by
      rw [bf16_eq_decode_half, widen_bf16]
  · exact alu1_computes (execCvtF32I32 f) rfl rfl (fun _ => rfl) (fun _ => rfl) fun a _ _ =>
      congrArg (toF32 .rn) (intNum_sx a)
  · exact alu1_computes (execCvtF32N32 f) rfl rfl (fun _ => rfl) (fun _ => rfl) fun a _ _ =>
      congrArg (toF32 .rn) (intNum_zx a)
  · exact alu1_computes (execCvtI32F32RzSat f) rfl rfl (fun _ => rfl) (fun _ => rfl) fun _ _ _ => rfl
  · exact alu1_computes (execCvtI32F32Sat f) rfl rfl (fun _ => rfl) (fun _ => rfl) fun _ _ _ => rfl
  · exact alu1_computes (execCvtN32F32RzSat f) rfl rfl (fun _ => rfl) (fun _ => rfl) fun _ _ _ => rfl
  · exact alu2_computes (execCvtF32E4m3 f) rfl rfl (fun _ => rfl) (fun _ => rfl) fun a b _ => widenByte_eq fmtE4m3 a (b.toNat % 4)
  · exact alu2_computes (execCvtF32E5m2 f) rfl rfl (fun _ => rfl) (fun _ => rfl) fun a b _ => widenByte_eq fmtE5m2 a (b.toNat % 4)
  · exact alu2_computes (execPack2 f) rfl rfl (fun _ => rfl) (fun _ => rfl) fun _ _ _ => packHalves_eq_append _ _

/-- A byte-merging conversion that rounds by `mode` replaces byte B[1:0] of D. -/
theorem mergeByte_does {i : Instr} {op : Op} {f : FmtA} {fmt : FloatFmt} {mode mode' : List Env → Env → Mode}
    (x : State → Host.Outcome State Fault Refusal) (hp : i.parts = some (op, .a f)) (hf : fixes op (.a f) = false)
    (hx : ∀ s, exec i s = x s) (hd : ∀ s, x s = mergeByte op fmt f mode s) (hmode : ∀ es e, mode es e = mode' es e) :
    Does i (fun _ => True) (fun es e th => ∃ w : Word,
      (∀ k, k < 32 → w.getLsbD k = byteMerged (e.d f.d) ((e.b f).toNat % 4) (fmt.round (mode' es e) (f32 (e.a f))) k) ∧
        th = wResult f e.th w) :=
  groupW_does x hp hf hx hd fun es e _ hk => hmode es e ▸ setByte_bit _ _ _ hk

/-- Settles O1: by fields and bits the model's functions are those of Tables 4-5 and 4-6 (`fclassOf_eq_classBit`, `widen_bf16`, `setByte_bit`), and the
random fraction is that of the neighbours the statement names (`srMode_eq`). -/
theorem conversionResults : Obligations.ConversionResults := by
  refine ⟨fun i f v h => Does.mono (convResults i f v h) fun _ e th ⟨w, hw, hth⟩ => hw ▸ hth, fun i f fmt sr h => ?_, fun f => ?_⟩
  · unfold mergeResult at h
    split at h <;> cases h
    · exact mergeByte_does (execCvtE4m3 f) rfl rfl (fun _ => rfl) (fun _ => rfl) fun _ _ => rfl
    · exact mergeByte_does (execCvtE4m3Sr f) rfl rfl (fun _ => rfl) (fun _ => rfl) fun es e => srMode_eq fmtE4m3 f es e
    · exact mergeByte_does (execCvtE5m2 f) rfl rfl (fun _ => rfl) (fun _ => rfl) fun _ _ => rfl
    · exact mergeByte_does (execCvtE5m2Sr f) rfl rfl (fun _ => rfl) (fun _ => rfl) fun es e => srMode_eq fmtE5m2 f es e
  · refine Does.mono (groupW_does (execCvtBf16F32Sr f) rfl rfl (fun _ => rfl) (fun _ => rfl) fun es e => rfl) fun es e th ⟨w, hw, hth⟩ => ?_
    rw [hth, ← hw, toBf16, srMode_eq]

end Sys2Proof.Proofs
end
